-- ==== Sys2Proof/Word.lean ====
section
/-!
DEFINITION. Words of the block and their plainest arithmetic: bytes, 32-bit register words, tables of a
fixed number of like things, and little-endian reading and writing of multi-byte fields (R12).
-/
namespace Sys2Proof

/-- One byte. -/
abbrev Byte := BitVec 8

/-- One 32-bit register word (R12). -/
abbrev Word := BitVec 32

/-- A run of bytes, lowest address first. -/
abbrev Bytes := List (BitVec 8)

/-- A fixed number of like things (queues, ports, fences, locks, channels). -/
abbrev Tab (n : Nat) (α : Type) := Vector α n

/-- Entry `i` of a table. -/
def Tab.at {n : Nat} {α : Type} (t : Tab n α) (i : Fin n) : α := t[i.val]

/-- The table with entry `i` replaced by `x`. -/
def Tab.put {n : Nat} {α : Type} (t : Tab n α) (i : Fin n) (x : α) : Tab n α := t.set i.val x

/-- The table with entry `i` changed by `f`. -/
def Tab.upd {n : Nat} {α : Type} (t : Tab n α) (i : Fin n) (f : α → α) : Tab n α := t.put i (f (t.at i))

/-- The table that holds `x` everywhere. -/
def Tab.all (n : Nat) {α : Type} (x : α) : Tab n α := Vector.replicate n x

/-- The table whose entry `i` is `f i`. -/
def Tab.gen (n : Nat) {α : Type} (f : Nat → α) : Tab n α := Vector.ofFn (fun i => f i.val)

/-- A number in a table's range, whatever number it is (modulo the table's size). -/
def fin (n : Nat) [NeZero n] (k : Nat) : Fin n := Fin.ofNat n k

/-- The value of little-endian bytes (R12). -/
def leNat : Bytes → Nat
  | [] => 0
  | b :: bs => b.toNat + 256 * leNat bs

/-- The `n` little-endian bytes of a value (R12). -/
def leBytes : Nat → Nat → Bytes
  | 0, _ => []
  | n + 1, v => BitVec.ofNat 8 v :: leBytes n (v / 256)

/-- The two's-complement reading of the low `w` bits of `v`. -/
def signed (w v : Nat) : Int :=
  if v % 2 ^ w < 2 ^ (w - 1) then ((v % 2 ^ w : Nat) : Int) else ((v % 2 ^ w : Nat) : Int) - ((2 ^ w : Nat) : Int)

/-- The `w`-bit two's-complement code of an integer. -/
def unsigned (w : Nat) (v : Int) : Nat := (v % ((2 ^ w : Nat) : Int)).toNat

/-- Bits [lo + w - 1 : lo] of a number. -/
def bits (v lo w : Nat) : Nat := v / 2 ^ lo % 2 ^ w

/-- Bit `i` of a number. -/
def bit (v i : Nat) : Bool := v.testBit i

/-- A Bool as the number a register bit shows. -/
def b2n (b : Bool) : Nat := if b then 1 else 0

/-- A counter that holds at its largest value rather than wrap. -/
def satAdd (w a d : Nat) : Nat := min (2 ^ w - 1) (a + d)

end Sys2Proof
end

