-- ==== Sys2Proof/Syntax.lean ====
section
/-!
DEFINITION. The commands the block takes: one constructor of `Instr` per row of spec/opcode_table.json, in the
table's order, with the operands of the row. A packet command (R211) is named by the submission queue whose
dispatched packet it is: its parameters are the packet's (log entry 6).
-/
namespace Sys2Proof

/-- Who accesses a lock, a doorbell or the random source: the requester IDs of Table 10.10 (R253). -/
abbrev Requester := Fin 32

/-- The mailboxes of Table 10.1: each pair has two (R237, R238, R251). -/
inductive BoxId where
  | h2f (p : Fin 4)      -- host of UPp to Front Desk
  | f2h (p : Fin 4)      -- Front Desk to host of UPp
  | npToFd               -- Night Porter to Front Desk
  | fdToNp               -- Front Desk to Night Porter
  | peerToFd (p : Fin 16)  -- the peer module on SLp to Front Desk
  | fdToPeer (p : Fin 16)  -- Front Desk to the peer module on SLp
deriving DecidableEq, Repr

/-- The receivers of doorbells: two for each pair (R245). -/
inductive BellId where
  | host (p : Fin 4)     -- the host of UPp
  | fdHost (p : Fin 4)   -- Front Desk, for UPp
  | fdPorter             -- Front Desk, for Night Porter
  | porter               -- Night Porter
  | fdPeer (p : Fin 16)  -- Front Desk, for the peer on SLp
  | peer (p : Fin 16)    -- the peer on SLp
deriving DecidableEq, Repr

/-- The registers of a mailbox that its parties write beside GO and the acknowledge (Tables 10.2 and 10.3). -/
inductive MailReg where
  | word (j : Fin 17)    -- MSG0 to MSG15, and 16 for the length: the sender's
  | timeout              -- MBX_TIMEOUT: the sender's
  | sendStatus           -- W1C bits of the sender's copy of the status
  | recvStatus           -- W1C bits of the receiver's copy
deriving DecidableEq, Repr

/-- The registers of a doorbell receiver that the receiver writes (R245). -/
inductive BellReg where
  | mask                 -- DB_MASK
  | pend                 -- DB_PEND, W1C
deriving DecidableEq, Repr

/-- The setup packet of a vendor request to the USB 2.0 service function, made to the device (R282). -/
structure UsbSetup where
  request : BitVec 8
  dirIn : Bool
  value : BitVec 16
  length : BitVec 16
deriving DecidableEq, Repr

/-- An access through an aperture window (R269). A write with byte enables is given as its enabled runs, each a write (log entry 10). -/
inductive BarAccess where
  | read (len : Nat)
  | write (data : Bytes)
deriving DecidableEq, Repr

/-- What a partner writes to unmask a pending MSI-X message (R265). The other writes to the configuration space of the function (R262,
R266) have no row of their own and come under this one (log entry 10). -/
inductive MsixCtl where
  | vector (v : Fin 64)                       -- mask bit of a table entry cleared
  | enable                                    -- MSI-X Enable set
  | disable                                   -- MSI-X Enable cleared
  | function (mask : Bool)                    -- Function Mask
  | busMaster (on : Bool)                     -- Bus Master Enable
  | power (d3hot : Bool)                      -- D3hot, or back to D0 (No_Soft_Reset: nothing is lost)
  | sizes (payload read : BitVec 3)           -- Max_Payload_Size, Max_Read_Request_Size
  | aer                                       -- W1C of the Completer Abort status of Advanced Error Reporting
deriving DecidableEq, Repr

/-- A DRAM unit with a controller of its own (R302, R308). -/
inductive DramUnit where
  | hbm (h : Fin 12)
  | lp (l : Fin 32)
deriving DecidableEq, Repr

/-- The on-chip memories that a scrubber visits (R316). -/
inductive SramUnit where
  | tile (l : Fin 256)   -- the tile memories serving logical tile l
  | spare (d : Fin 4) (phys : Nat)  -- the tile memories of a spare of die CDd that serves no logical tile
  | staging (d : Fin 4)
  | frontDesk
  | nightPorter
  | secure
deriving DecidableEq, Repr

/-- A link of the fabric: one of this module's own, or one between two other modules (R293). -/
inductive FabLink where
  | own (p : Fin 16)
  | far (x y : Fin 64)
deriving DecidableEq, Repr

/-- What a read of one protected word or sector finds (R303, R316): by a scrubber, or, for `readCorrected`, by a user's own read, whose
single error is corrected on the read path. -/
inductive Finding where
  | clean
  | corrected
  | uncorrectable
  | readCorrected
deriving DecidableEq, Repr

/-- The data lost by an uncorrectable read: the rows of Table 15.2 (R349). -/
inductive Loss where
  | tileImage (l : Fin 256) (word : Nat)   -- coupling block or bias code in CPS or SPS of the tile serving l
  | tileState (l : Fin 256) (word : Nat)   -- spins, fields or partial energies in a tile
  | heldRows (sq : Fin 64)                 -- held rows in a private area
  | stagingState (d : Fin 4) (sq : Fin 64) -- spin mirror, fetch directory or best state
  | waypointBuffer (d : Fin 4) (sq : Fin 64)  -- the latest waypoint buffer
  | tensorData (d : Fin 4) (sq : Fin 64)   -- weights in CPS, operands in staging, a row of an open tensor group
  | homeBlock (sq : Fin 64) (addr : Nat)   -- a byte of a block record of a home copy, at `addr`
  | otherRead (sq : Fin 64) (addr : Nat)   -- any other byte a command reads
  | suspension (slot : Fin 64)
  | itinerary (i : Fin 256)
  | nightState (slot : Fin 64)
deriving DecidableEq, Repr

/-- What sets off a wipe of the secure SRAM (R321). -/
inductive WipeTrigger where
  | case
  | vglitch
  | cglitch
deriving DecidableEq, Repr

/-- What a HUB_FATAL fault is (class 11 of Table 15.1 less the watchdog, which has a row of its own). -/
inductive HubSram where
  | frontDesk
  | secure
deriving DecidableEq, Repr

/-- What the tests of a boot find (R368 step 3), and the straps sampled at its start (R403). -/
structure BootFindings where
  tray : BitVec 3
  slot : BitVec 3
  badLinks : List (Fin 4 × Fin 4)        -- die-to-die links that fail their test (R360)
  badTiles : List (Fin 4 × Nat)          -- physical tiles that fail their self-test (R351)
deriving DecidableEq, Repr

/-- A write by the receiver of a doorbell: the register and the word. -/
structure BellWrite where
  reg : BellReg
  value : Word
deriving DecidableEq, Repr

/-- A lock: number `n` of this module's LCK block, or of that of a peer (R253). -/
structure LockRef where
  n : Fin 64
  peer : Option (Fin 64)
deriving DecidableEq, Repr

/-- What sets a wipe off: a trigger, and those that fall during it (R322). -/
structure WipeCause where
  first : WipeTrigger
  more : List WipeTrigger
deriving DecidableEq, Repr

/-- A request to the USB 2.0 service function of a port: that for the identity, or another given by its setup packet (R282). -/
structure UsbAsk where
  port : Fin 4
  other : Option UsbSetup
deriving DecidableEq, Repr

/-- The commands of the block: the rows of spec/opcode_table.json. `units` says how many units of work the
step carries the command on: phases of an anneal, row-blocks of a tensor command, 1 MiB pieces of a transfer
(log entry 6). -/
inductive Instr where
  | loadCouplings (sq : Fin 64) (units : Nat)
  | loadBiases (sq : Fin 64) (units : Nat)
  | loadGroups (sq : Fin 64) (units : Nat)
  | commitProblem (sq : Fin 64)
  | setSchedule (sq : Fin 64)
  | setPhaseMap (sq : Fin 64)
  | anneal (sq : Fin 64) (units : Nat)
  | sample (sq : Fin 64) (units : Nat)
  | readState (sq : Fin 64)
  | suspend (sq : Fin 64)
  | resume (sq : Fin 64) (units : Nat)
  | correlate (sq : Fin 64) (units : Nat)
  | matmul (sq : Fin 64) (units : Nat)
  | conv2d (sq : Fin 64) (units : Nat)
  | attend (sq : Fin 64) (units : Nat)
  | vectorOp (sq : Fin 64) (units : Nat)
  | reduce (sq : Fin 64) (units : Nat)
  | coupleOut (sq : Fin 64)
  | copy (sq : Fin 64) (units : Nat)
  | fill (sq : Fin 64) (units : Nat)
  | tileLoad (sq : Fin 64)
  | tileStore (sq : Fin 64)
  | seedDraw (sq : Fin 64)
  | fenceSignal (sq : Fin 64)
  | fenceWait (sq : Fin 64)
  | itineraryStore (sq : Fin 64)
  | itineraryLaunch (sq : Fin 64)
  | patch (sq : Fin 64)
  | query (sq : Fin 64)
  | ledgerMark (sq : Fin 64)
  | abort (sq : Fin 64) (index : BitVec 12)
  | imageStage (sq : Fin 64)
  | imageInstall (sq : Fin 64)
  | attest (sq : Fin 64)
  | lifecycle (sq : Fin 64)
  | dispatch (preload : Option (Fin 64))
  | commitPoint (sq : Fin 64)
  | timeSliceExpiry (sq : Fin 64)
  | timeSliceResume
  | preemptionPointStop (sq : Fin 64)
  | deadlineExpiry (sq : Fin 64)
  | hangTimeout (sq : Fin 64)
  | engineStopTimeout (sq : Fin 64)
  | fenceDeadlockExpiry
  | windowVisit (sq : Fin 64) (tile : Nat)
  | phaseBoundary (sq : Fin 64)
  | streamFetch (sq : Fin 64) (tile : Nat) (index : Nat)
  | sweepEnd (sq : Fin 64)
  | asyncExchange (sq : Fin 64)
  | boundaryTargetTest (sq : Fin 64) (k : Fin 16)
  | rowBlockDone (sq : Fin 64)
  | flipNoticeReceive
  | boundarySpinReceive
  | sweepEndRecord
  | exchangeRecord
  | stopRecord
  | replayRecord
  | readRequest
  | readCompletion
  | remoteWrite
  | writeAcknowledgement
  | fabricRegisterWrite
  | fabricRegisterRead
  | hello
  | dataFlit (p : Fin 16) (flit : Bytes) (fecGood : Bool)
  | ackFlit (p : Fin 16) (flit : Bytes) (fecGood : Bool)
  | nackFlit (p : Fin 16) (flit : Bytes) (fecGood : Bool)
  | linkRetrain (p : Fin 16) (trained : Bool)
  | linkUp (p : Fin 16)
  | routeChange (l : FabLink) (trained : Bool)
  | messageAck (m : Fin 64) (cls : Fin 5) (mseq : Word)
  | peerTimeout (m : Fin 64)
  | sqTailWrite (port : Fin 4) (sq : Fin 64) (v : Word)
  | sqRingWrite (port : Fin 4) (off : BitVec 22) (data : Bytes)
  | sqEnable (port : Fin 4) (sq : Fin 64) (v : Word)
  | sqDisable (port : Fin 4) (sq : Fin 64) (v : Word)
  | cqEnable (port : Fin 4) (cq : Fin 64) (v : Word)
  | cqDisable (port : Fin 4) (cq : Fin 64) (v : Word)
  | cqHeadWrite (port : Fin 4) (cq : Fin 64) (v : Word)
  | nowRead (port : Fin 4)
  | fenceValueRead (port : Fin 4) (f : Fin 256)
  | gctlModeWrite (port : Fin 4) (v : Word)
  | ledgerMirrorEnable (port : Fin 4) (v : Word)
  | ledgerMirrorWrite
  | mailboxGo (box : BoxId)
  | mailboxMsgWrite (box : BoxId) (r : MailReg) (v : Word)
  | mailboxAck (box : BoxId) (v : Word)
  | mailboxTimeout (box : BoxId)
  | f2hSend (box : BoxId)
  | doorbellSet (bell : BellId) (v : Word)
  | dbMaskWrite (bell : BellId) (w : BellWrite)
  | ping (port : Fin 4)
  | sensorRead (port : Fin 4)
  | sensorReq
  | sensorVal
  | descend
  | clockStop
  | clockStopTimeout
  | plan
  | trip
  | noticeReq
  | woke
  | lockRead (who : Requester) (l : LockRef)
  | lockRelease (who : Requester) (l : LockRef) (v : Word)
  | apertureAccess (port : Fin 4) (off : BitVec 36) (acc : BarAccess)
  | msixUnmask (port : Fin 4) (c : MsixCtl)
  | registerWrite (port : Fin 4) (off : BitVec 26) (data : Bytes)
  | trngDataRead (who : Requester)
  | trngReadTimeout (who : Requester)
  | poolDelivery
  | trngSample (v : BitVec 11)
  | windowClose
  | statsWindow
  | sampleRound (raw : List Word)
  | limiterEngage
  | limiterRelease
  | thermalTrip
  | tripRestore
  | hubTrip
  | descentTimerExpiry
  | wakeComplete
  | memPathSleep
  | ageingReplan
  | npWatchdog
  | fdWatchdog
  | dramRefresh (u : DramUnit)
  | patrolScrub (u : DramUnit) (sector : Nat) (f : Finding)
  | scrubWake
  | sramScrub (u : SramUnit) (word : Nat) (f : Finding)
  | rowRepair (h : Fin 12) (row : Nat) (spares : Nat)
  | uncorrectableRead (l : Loss) (spareFails : Nat)
  | tileLogicFault (l : Fin 256) (row : Nat) (spareFails : Nat)
  | hubFatal (where_ : HubSram)
  | dieLinkDown (a b : Fin 5)
  | secureWipe (w : WipeCause)
  | powerOn
  | powerLoss
  | railFault
  | moduleRemoval
  | resetAssert
  | resetRelease (f : BootFindings)
  | aliasKeyGeneration
  | slotConfirm
  | activate (port : Fin 4)
  | activateIdle (port : Fin 4)
  | cancel (port : Fin 4)
  | idleActivation
  | partnerArrival (port : Fin 4) (uuid : BitVec 128) (topo : BitVec 64) (mode : BitVec 3)
  | partnerDeparture (port : Fin 4) (cause : BitVec 4)
  | linkStateChange (port : Fin 4) (mode : BitVec 3)
  | getIdent (q : UsbAsk)
  | getSensor (port : Fin 4) (channel : Fin 128)
  | getGuests (port : Fin 4)
  | recoveryOpen (port : Fin 4) (len : BitVec 64)
  | recoveryImageData (port : Fin 4) (data : Bytes)
  | recoveryStatus (port : Fin 4)
  | recoveryBoot (port : Fin 4) (f : BootFindings)
  | ident
  | status
  | sensor (channel : Fin 128)
  | trayCap (w : Option (BitVec 16))
  | alertMask (w : Option (BitVec 16))
  | alertClear (w : BitVec 16)
  | errsLog
  | alertResponse
  | dieLinkRetry (a b : Fin 5)
  | usb2Configured (port : Fin 4)
  | idleFlit (p : Fin 16) (flit : Bytes) (fecGood : Bool)
deriving DecidableEq, Repr

end Sys2Proof
end

