-- ==== Sys2Proof/Decode.lean ====
section
/-!
DEFINITION. The command that a word spells by the bits of spec/opcode_table.json. No row of the table gives any
bits (every "fields" is empty), so no word spells a command (log entry 21).
-/
namespace Sys2Proof

/-- The command spelled by a word of `nbits` bits: none, since the opcode table gives no row bits. -/
def decodeTableWord (nbits w : Nat) : Option Instr :=
  match nbits, w with
  | _, _ => none

end Sys2Proof
end

