-- ==== Sys2Proof/Config.lean ====
section
/-!
DEFINITION. What the spec leaves open as VALUES: constants with no body, so that no proof can see what they are
(log entries 7, 8 and 9). A statement about one of them holds whatever it is.
-/
namespace Sys2Proof

/-- The n-th free value of a run (log entry 7): a value that the spec leaves open after a step that goes on.
`State.freeCtr` says how many have been taken. -/
opaque Config.freeValue : Nat → BitVec 64

/-- The slack in 0.1 ps that path-delay monitor `m` reports at planned clock `fp` (MHz) and voltage offset
`voff` (mV), in the `n`-th measurement (R340 gives no slack as a function of clock and voltage). -/
opaque Config.slack : (m fp voff n : Nat) → Int

/-- Verification of a signature under a 68-byte public key (R362: RFC 8391 and SP 800-208, outside the spec). -/
opaque Config.xmssVerify : (pk msg sig : Bytes) → Bool

/-- The signature of a message with leaf `leaf` of the key made from `seed` (R362, R375). -/
opaque Config.xmssSign : (seed : Bytes) → (leaf : Nat) → (msg : Bytes) → Bytes

/-- The 68-byte public key of the key of the given OID made from `seed` (R362, R376). -/
opaque Config.xmssPublic : (oid : Nat) → (seed : Bytes) → Bytes

/-- What rsqrt gives for ±0 and for a negative operand: R142 names the value nearest an exact result, and there is
none (log entry 7). -/
opaque Config.rsqrtOpen : (x : BitVec 32) → BitVec 32

/-- A byte of the bias table that COUPLE_OUT writes, by its offset, where R151 gives none (log entry 25). -/
opaque Config.biasFill : (offset : Nat) → Byte

/-- The GROUPS count of a COUPLE_OUT, from its 128 packet bytes and its 64-byte parameter block: R149 has the
command carry it, and Table 9.14 gives it no place (log entry 24). -/
opaque Config.coupleGroups : (pkt block : Bytes) → Nat

/-- What the other modules of a job add to this module's share of an energy or a sum at commit (log entry 13): replica
`what` below 16, the row sums at 16, the stored biases at 17. `view` is the job as this module sees it: geometry, rank,
key, module map and commit digest. -/
opaque Config.jobRest : (view : Bytes) → (what : Nat) → Int

/-- Cycles by which a timed region outlasts the counts of the spec, where it crosses dies (R86, R184): a function of the
program, so that equal runs take equal times (log entry 11). -/
opaque Config.waitCycles : (work : Bytes) → Nat

/-- The ACM row from which a tensor command's schedule lays out its accumulation groups on job tile `t`: the spec leaves the rows to
Front Desk (log entry 37). -/
opaque Config.groupRow : (pkt : Bytes) → (t : Nat) → Nat

/-- Flits of receive buffer of a class beyond the longest message (R295 gives no sizes; log entry 18). -/
opaque Config.rxCredits : (cls : Nat) → Nat

/-- CAP.UNITS and GCTL.RESULTS_EPOCH of a module that only two hops reach, so that no hello of it has come (R291; log entry 53). -/
opaque Config.farUnits : (module : Nat) → BitVec 32
opaque Config.farEpoch : (module : Nat) → BitVec 32

/-- The DRAM row of a 32-byte sector of device memory, by the sector's number: the bank layout is the stack's own (R303; log entry 41). -/
opaque Config.dramRow : (sector : Nat) → Nat

/-- The offset in its private area of what Front Desk keeps there (R311 gives the area, not the place): held rows of a queue, a
suspension record, an itinerary, a saved slot (log entry 73). -/
opaque Config.privatePlace : (kind index : Nat) → Nat

end Sys2Proof
end

