-- ==== Sys2Proof/Machine/Bits.lean ====
section
/-!
DEFINITION. Checksums and exact rounding: the CRC-64 of every digest (R189), the CRC-32 of a flit (R285), and
round_half_even (R15).
-/
namespace Sys2Proof.Machine

/-- One bit step of the CRC-64 of R189. -/
def crc64Bit (c : BitVec 64) : BitVec 64 :=
  if c.msb then (c <<< 1) ^^^ 0x42F0E1EBA9EA3693#64 else c <<< 1

/-- One byte step of the CRC-64 of R189. -/
def crc64Byte (c : BitVec 64) (b : Byte) : BitVec 64 :=
  Nat.repeat crc64Bit 8 (c ^^^ (b.zeroExtend 64 <<< 56))

/-- The CRC-64 carried on from `c` over more bytes. -/
def crc64From (c : BitVec 64) (bs : Bytes) : BitVec 64 := bs.foldl crc64Byte c

/-- The digest of R189: ECMA-182, initial value 0, most significant bit first. -/
def crc64 (bs : Bytes) : BitVec 64 := crc64From 0 bs

/-- One bit step of the reflected CRC-32 of R285. -/
def crc32Bit (c : Word) : Word :=
  if c.getLsbD 0 then (c >>> 1) ^^^ 0xEDB88320#32 else c >>> 1

/-- The flit CRC of R285 (IEEE 802.3). -/
def crc32 (bs : Bytes) : Word :=
  ~~~ (bs.foldl (fun c b => Nat.repeat crc32Bit 8 (c ^^^ b.zeroExtend 32)) 0xFFFFFFFF#32)

/-- round_half_even of the quotient of two naturals (R15). -/
def rheNat (num den : Nat) : Nat :=
  let q := num / den
  let r := 2 * (num % den)
  if r < den then q else if den < r then q + 1 else if q % 2 = 0 then q else q + 1

/-- round_half_even of the quotient of an integer by a natural (R15). -/
def rheInt (num : Int) (den : Nat) : Int :=
  if 0 ≤ num then (rheNat num.toNat den : Int) else -(rheNat (-num).toNat den : Int)

/-- ceil of the quotient of two naturals. -/
def ceilDiv (a b : Nat) : Nat := (a + b - 1) / b

/-- Saturation to the `w`-bit two's-complement range (R15). -/
def satSigned (w : Nat) (v : Int) : Int :=
  max (-((2 ^ (w - 1) : Nat) : Int)) (min (((2 ^ (w - 1) : Nat) : Int) - 1) v)

/-- Wrapping into the int64 range (R165). -/
def wrap64 (v : Int) : Int := signed 64 (unsigned 64 v)

/-- The `n` bytes of an integer, two's complement, least significant first (R12). -/
def intBytes (n : Nat) (v : Int) : Bytes := leBytes n (unsigned (8 * n) v)

/-- `n` bytes of a run from offset `o` on, zero beyond its end. -/
def slice (bs : Bytes) (o n : Nat) : Bytes :=
  let t := (bs.drop o).take n
  t ++ List.replicate (n - t.length) 0

/-- The little-endian field of `n` bytes at offset `o` (R12). -/
def field (bs : Bytes) (o n : Nat) : Nat := leNat ((bs.drop o).take n)

/-- Bits [lo + w - 1 : lo] of the little-endian `n`-byte field at offset `o`. -/
def fieldBits (bs : Bytes) (o n lo w : Nat) : Nat := bits (field bs o n) lo w

/-- The bytes `bs` with the run `d` put at offset `o`. -/
def spliceBytes (bs : Bytes) (o : Nat) (d : Bytes) : Bytes := bs.take o ++ d ++ bs.drop (o + d.length)

/-- `x` put into a list behind every entry of a key that is not greater, and a list sorted so: equal keys keep their order. -/
def insertBy {α : Type} (f : α → Nat) (x : α) : List α → List α
  | [] => [x]
  | y :: ys => if f x < f y then x :: y :: ys else y :: insertBy f x ys
def sortBy {α : Type} (f : α → Nat) (l : List α) : List α := l.foldl (fun acc x => insertBy f x acc) []

/-- The largest square root not above `n`, found bit by bit below bit `b`. -/
def isqrt : Nat → Nat → Nat → Nat
  | 0, _, r => r
  | b + 1, n, r => isqrt b n (if (r + 2 ^ b) * (r + 2 ^ b) ≤ n then r + 2 ^ b else r)

/-- The first `n` for which `f` fails or answers, over a list of indices. -/
def firstSome {α β : Type} (f : α → Option β) : List α → Option β
  | [] => none
  | x :: xs => match f x with
    | some y => some y
    | none => firstSome f xs

/-- The value at `i` of a list of integers, 0 beyond its end. -/
def geti (l : List Int) (i : Nat) : Int := l.getD i 0

/-- The value at `i` of a list of naturals, 0 beyond its end. -/
def getn (l : List Nat) (i : Nat) : Nat := l.getD i 0

/-- The sum of a list of integers. -/
def sumInt (l : List Int) : Int := l.foldl (· + ·) 0

/-- The sum of a list of naturals. -/
def sumNat (l : List Nat) : Nat := l.foldl (· + ·) 0

/-- The smallest element of a non-empty list of integers, 0 of an empty one. -/
def minInt : List Int → Int
  | [] => 0
  | x :: xs => xs.foldl min x

/-- The largest element of a list of naturals, 0 of an empty one. -/
def maxNat (l : List Nat) : Nat := l.foldl max 0

end Sys2Proof.Machine
end

