-- ==== Sys2Proof/Machine/State.lean ====
section
/-!
DEFINITION. The state of one Kentokan module as plain data: every register, queue, buffer, counter, mode and pin
the spec gives it, the queue of waiting commands, and the state right after reset (log entries 1 to 5).
Field comments name the rule of spec/ that gives the field.
-/
namespace Sys2Proof.Machine

/-! ## Identity, straps and power -/

/-- The grade of the module (R3). -/
inductive Grade where
  | ktk9480
  | ktk9460
  | ktk9440
deriving DecidableEq, Repr

/-- Fuses and mask-set identity: nothing changes them (R397, R363). -/
structure Fuses where
  grade : Grade := .ktk9480
  serial : BitVec 64 := 0        -- CAP.SERIAL (R397)
  revision : BitVec 8 := 0       -- CAP.REV.REVISION (R397)
  vroot : Bytes := List.replicate 32 0  -- hash of the vendor public key (R363)
deriving DecidableEq, Repr

/-- How far the module is up (R406, R407, R368, R370, R381). -/
inductive Life where
  | off        -- no input power
  | held       -- in reset
  | running    -- booted; firmware runs
  | recovery   -- recovery mode of the boot ROM
  | retired    -- lifecycle state RETIRED: service code only
deriving DecidableEq, Repr

/-- The contacts of MC-A (R401, R403, R404) and how far the module is up. -/
structure Electrical where
  life : Life := .running
  vin : Bool := true             -- input power applied
  pg : Bool := true              -- PG released high
  resetN : Bool := true          -- level of RESET_N
  prsntN : Bool := false         -- PRSNT_N, low while mated
  moduleId : BitVec 6 := 0       -- 8 × TRAY + SLOT as sampled (R403)
  cause : BitVec 4 := 0          -- cause of the reset in progress or last (Table 15.3)
deriving DecidableEq, Repr

/-! ## Memory -/

/-- Counters of one HBM3E stack (Table 13.6). -/
structure HbmCount where
  ce : Nat := 0
  ue : Nat := 0
  sparesLeft : BitVec 8 := 0
  softRepairs : BitVec 8 := 0
  noSpare : Bool := false
  lastUe : Word := 0
deriving DecidableEq, Repr

/-- Counters of one LPDDR-5X package (Table 13.6). -/
structure LpCount where
  ce : Nat := 0
  ue : Nat := 0
  rows : Nat := 0
  lastUe : Word := 0
deriving DecidableEq, Repr

/-- Counters of the SRAM of one compute die (Table 13.6). -/
structure SramCount where
  ce : Nat := 0
  ue : Nat := 0
  scrub : Nat := 0
deriving DecidableEq, Repr

/-- A sector that was corrected, for the row rule of R307 and R309. -/
structure CeSeen where
  unit : DramUnit
  row : Nat
  sector : Nat
  time : Nat
deriving DecidableEq, Repr

/-- Device memory (R27) with its error state and housekeeping (R302 to R310, R323). -/
structure Memory where
  cells : List Host.Cell := []           -- device bytes in canonical form; an unlisted byte reads 0 (log entry 2)
  ue : List Nat := []                    -- 32-byte sectors that read uncorrectable, by number (R306)
  hbm : Tab 12 HbmCount := Tab.all 12 (HbmCount.mk 0 0 0 0 false 0)
  lp : Tab 32 LpCount := Tab.all 32 (LpCount.mk 0 0 0 0)
  sram : Tab 4 SramCount := Tab.all 4 (SramCount.mk 0 0 0)
  hubCe : Nat := 0                       -- HUB_CE
  hubUe : Nat := 0                       -- HUB_UE
  hbmScrub : Tab 12 Nat := Tab.all 12 0  -- next stack offset of the patrol scrub (R305)
  lpScrub : Tab 32 Nat := Tab.all 32 0   -- next package offset of the patrol scrub (R309)
  scrubBurst : Bool := false             -- a scrub burst has the paths awake in DOZE or NIGHT (R305)
  refreshes : Nat := 0                   -- refreshes done (R304)
  ceSeen : List CeSeen := []             -- corrected sectors of the last 24 hours (R307, R309)
  ueFound : List Nat := []               -- uncorrectable sectors that have been read since they went bad (R307)
  dueRows : List (Fin 12 × Nat) := []    -- rows due for repair (R307)
  lpRows : List (Fin 32 × Nat) := []     -- rows reported in LPl_ROWS (R309)
  soft : List (Fin 12 × Nat) := []       -- soft repairs of this powered period (R307)
  hard : List (Fin 12 × Nat) := []       -- rows repaired for good (R307)
deriving DecidableEq, Repr

/-! ## USB4 ports -/

/-- State of a guest entry (Table 11.9). -/
inductive GuestState where
  | empty
  | arriving
  | bound
  | departing
deriving DecidableEq, Repr

/-- A guest entry (Tables 11.8 and 11.9). -/
structure Guest where
  state : GuestState := .empty
  linkMode : BitVec 3 := 0
  usb2 : Bool := false
  arrivals : Nat := 0
  uuid : BitVec 128 := 0
  topo : BitVec 64 := 0
  arrive : Nat := 0       -- RTC count
  depart : Nat := 0       -- RTC count
  cause : BitVec 4 := 0
  departs : Nat := 0
deriving DecidableEq, Repr

/-- A DMA window (Table 11.6). -/
structure DmaWindow where
  base : BitVec 64 := 0
  pagesM1 : BitVec 19 := 0
  en : Bool := false
  rd : Bool := false
  wr : Bool := false
deriving DecidableEq, Repr

/-- An aperture window (Table 11.5): `base` is device address bits [43:30]. -/
structure Aperture where
  en : Bool := false
  base : BitVec 14 := 0
deriving DecidableEq, Repr

/-- DW_FAULT_LO, DW_FAULT_HI and DW_FAULT_INFO (Table 11.7). -/
structure DwFault where
  addr : BitVec 64 := 0
  valid : Bool := false
  write : Bool := false
  source : BitVec 2 := 0
  sq : BitVec 6 := 0
  hwa : Bool := false
deriving DecidableEq, Repr

/-- An MSI-X table entry (R265): masked after reset, as PCIe has it. -/
structure MsixEntry where
  addr : BitVec 64 := 0
  data : Word := 0
  mask : Bool := true
deriving DecidableEq, Repr

/-- What an arrival brings (R278). -/
structure Arrival where
  uuid : BitVec 128
  topo : BitVec 64
  mode : BitVec 3
deriving DecidableEq, Repr

/-- An event of a port that Front Desk has not dealt with yet: it takes them in the order in which they happened (R278, R280). -/
inductive PortEvent where
  | arrival (a : Arrival)
  | departure (cause : BitVec 4)
deriving DecidableEq, Repr

/-- A USB4 port: guest entry, windows, MSI-X, function state, and the partner's memory (log entry 3). -/
structure Port where
  guest : Guest := ⟨.empty, 0, false, 0, 0, 0, 0, 0, 0, 0⟩
  dw : Tab 64 DmaWindow := Tab.all 64 ⟨0, 0, false, false, false⟩
  apw : Tab 64 Aperture := Tab.all 64 ⟨false, 0⟩
  fault : DwFault := ⟨0, false, false, 0, 0, false⟩
  faultCount : Nat := 0
  apwErr : Nat := 0
  apwUe : Nat := 0
  msix : Tab 64 MsixEntry := Tab.all 64 ⟨0, 0, true⟩
  pba : Tab 64 Bool := Tab.all 64 false
  msixEnable : Bool := false
  msixMask : Bool := false       -- MSI-X Function Mask (R262)
  busMaster : Bool := false      -- Bus Master Enable (R266)
  payload : BitVec 3 := 0        -- Max_Payload_Size as programmed (R266)
  readSize : BitVec 3 := 2       -- Max_Read_Request_Size as programmed (R266)
  d3hot : Bool := false          -- function in D3hot (R266)
  aerAbort : Bool := false       -- Completer Abort logged in AER (R418)
  events : List PortEvent := []  -- arrivals and departures in progress or to come, oldest first (R280)
  host : List Host.Cell := []    -- the partner's memory as DMA reaches it (log entry 3)
deriving DecidableEq, Repr

/-! ## Commands -/

/-- The opcodes of Table 9.8. -/
inductive Op where
  | loadCouplings | loadBiases | loadGroups | commitProblem | setSchedule | setPhaseMap
  | anneal | sample | readState | suspend | resume | correlate
  | matmul | conv2d | attend | vectorOp | reduce | coupleOut
  | copy | fill | tileLoad | tileStore | seedDraw
  | fenceSignal | fenceWait | itineraryStore | itineraryLaunch | patch
  | query | ledgerMark | abort | imageStage | imageInstall | attest | lifecycle
deriving DecidableEq, Repr

/-- The terminal stops of R415, and the two stops that are not terminal (time slice and retirement). -/
inductive Stop where
  | abort
  | suspend (by_ : Fin 64)   -- the SQ of the SUSPEND
  | departure
  | rankGone
  | hang
  | windowFault
  | timing
  | dataLost
  | lastSpare
  | slice
  | replay
deriving DecidableEq, Repr

/-- How far a dispatched command is (R219, R222, R223, R232, R338). -/
inductive Stage where
  | preloaded     -- dispatched at its preload, not begun (R222)
  | dispatched    -- dispatched, work not begun
  | working       -- work begun
  | sliced        -- suspended by a time slice (R223)
  | held          -- held by a thermal trip (R338)
  | ended         -- work ended; commit point to come (R232)
deriving DecidableEq, Repr

/-- A remote access that a command waits on (R298, R299). -/
structure Remote where
  tag : Nat
  dst : BitVec 6
  addr : Nat       -- fabric address
  len : Nat
  write : Bool
deriving DecidableEq, Repr

/-- A command that Front Desk has dispatched (Chapter 09). -/
structure Cmd where
  pkt : Bytes                    -- the 128 packet bytes as read at decode (R206) or built by a launch (R226)
  index : BitVec 12              -- ring index of the packet, or of its launch
  launch : Option (Fin 256)      -- itinerary, for a packet run by a launch
  stage : Stage
  began : Bool                   -- work has begun
  status : Nat                   -- status code once ended (Table 9.20)
  stopReason : Nat               -- STOP_REASON once ended
  stop : Option Stop             -- the stop asked for (R415)
  stopAt : Nat                   -- when it was asked for
  strict : Bool                  -- runs under strict rules (R180)
  fixed : Bool                   -- FIXED_TIMING as sampled (R178)
  cls : Nat                      -- TIMING_CLASS as sampled
  ckpt : Nat                     -- CKPT_INTERVAL as sampled
  sig : Bytes                    -- timing signature (R187)
  depError : Bool                -- the wait was released by a fence with ERR set (R228)
  visibleAt : Nat                -- ns: became visible to dispatch (Table 9.17)
  dispatchedAt : Nat
  startedAt : Nat                -- start of work
  resumedAt : Nat                -- last start or resume, for the time slice (R223)
  progressAt : Nat               -- last advance of a progress counter (R230)
  tiles : List Nat               -- the allotment it runs on (R221)
  descs : List Bytes             -- descriptors, parameter block, pair list read at dispatch (R133, R149, R154)
  sched : Bytes                  -- schedule copy (R92)
  stats : List Bytes             -- statistics that a CORRELATE with ADD read at dispatch (R158)
  done : Nat                     -- bytes written, or row-blocks finished
  asked : Nat                    -- bytes of a source on another module asked for (R298)
  result : Bytes                 -- RESULT of the entry, bytes 36–63 (Table 9.18)
  digest : BitVec 64             -- DIGEST so far
  out : Bytes                    -- bytes of the output in logical order, for the digest (R190)
  landed : List (Nat × Nat)      -- parts of the output that the unfinished row-blocks have written: place, length (R190)
  kept : List (Nat × Bytes × Bytes)  -- weights that stay in the CPS: row, elements, scales (R145)
  staging : List Nat             -- staging room reserved, bytes by compute die (R145)
  accLong : Bool                 -- ACC_LONG (R164)
  stopWp : Bool                  -- STOP_WP
  report : Option Bytes          -- completion report (Table 9.19)
  limit : Nat                    -- LIMIT (Table 9.21)
  cycles : Nat                   -- TIMED_CYCLES so far (R184)
  resolverStall : Nat            -- cycles counted under RESOLVER (R126)
  flipStall : Nat                -- cycles counted under FLIP_BUS (R126)
  fault : Bool                   -- met an uncorrectable read
  remote : List Remote           -- outstanding remote accesses
  cache : List Host.Cell         -- bytes of remote operands that have arrived, by fabric address
  itin : Option (Fin 256)        -- itinerary whose window a launch captured
  window : Bytes                 -- the captured patch window (R226)
deriving DecidableEq, Repr

/-- A launch under way (R226). -/
structure Launch where
  cmd : Cmd                      -- the launch's own command
  next : Nat                     -- next stored packet
  done : Nat                     -- packets completed
  first : Nat                    -- first status other than OK or OK_PLATEAU, or OK
  since : Nat                    -- when the next packet became visible
deriving DecidableEq, Repr

/-- What Front Desk notes of the packet that stands next in a queue: its ring index and its place in a launch; that it is held, so
that no later user goes ahead of it (R57, R225); and that the departure of a fence's owner has released its wait (R236). -/
structure HeadMark where
  index : BitVec 12
  place : Nat
  held : Bool
  freed : Bool
deriving DecidableEq, Repr

/-- A submission queue (Tables 9.1 to 9.3) and what Front Desk keeps of it. -/
structure Sq where
  enable : Bool := false
  log2 : BitVec 4 := 0
  cq : BitVec 6 := 0
  base : BitVec 22 := 0
  tail : BitVec 12 := 0
  head : BitVec 12 := 0
  cfgErr : Bool := false
  tailErr : Bool := false
  hang : BitVec 16 := 500
  early : List (BitVec 12) := []           -- indices committed ahead of the head (R231)
  visible : List (BitVec 12 × Nat) := []   -- when each packet became visible (Table 9.17)
  cur : Option Cmd := none                 -- the command under way
  pre : Option Cmd := none                 -- the preloaded command (R222)
  launch : Option Launch := none
  allot : List Nat := []                   -- allotment: logical tiles, lowest first (R221)
  fetch : List Remote := []                -- reads of other modules that the head's dispatch waits on (R133, R298)
  fetched : List Host.Cell := []           -- bytes of other modules that have arrived for it, by fabric address
  have_ : List (Nat × Nat) := []           -- ranges asked for
  fetchErr : Bool := false                 -- such a read came back with ERR (R298)
deriving DecidableEq, Repr

/-- An ABORT that waits for the commit points of its targets (R232). -/
structure AbortWait where
  sq : Fin 64                    -- SQ of the ABORT
  cmd : Cmd
  target : Fin 64                -- TARGET_SQ
  oldest : BitVec 12             -- ring index of the oldest target
  left : List (BitVec 12)        -- ring indices of the targets that have not committed
deriving DecidableEq, Repr

/-- An entry that waits for room in its ring (R208). -/
structure Waiting where
  entry : Bytes
  report : Option Bytes
deriving DecidableEq, Repr

/-- A completion queue (Tables 9.4 and 9.5). -/
structure Cq where
  enable : Bool := false
  log2 : BitVec 4 := 0
  vector : BitVec 6 := 0
  irq : Bool := false
  report : Bool := false
  base : BitVec 64 := 0
  head : BitVec 12 := 0
  tail : BitVec 12 := 0
  phase : Bool := false
  rpt : BitVec 64 := 0
  windowGone : Bool := false
  cfgErr : Bool := false
  waiting : List Waiting := []
deriving DecidableEq, Repr

/-- A fence (R228, Table 9.6). -/
structure Fence where
  value : BitVec 64 := 0
  err : Bool := false
  hiLatch : Word := 0
deriving DecidableEq, Repr

/-- An itinerary reference (Table 9.23). -/
structure Ref where
  pkt : Nat
  poff : Nat
  len : Nat
  woff : Nat
deriving DecidableEq, Repr

/-- An itinerary with its patch window (R224). -/
structure Itin where
  packets : List Bytes := []
  refs : List Ref := []
  owner : Option (Fin 4) := none
  window : Bytes := List.replicate 256 0
deriving DecidableEq, Repr

/-! ## Problem slots -/

/-- A coupling block (R36, R43): its non-zero codes as (row, column, code). -/
structure Block where
  row : Nat
  col : Nat
  fmt : Nat
  scale : Nat
  codes : List (Nat × Nat × Int)
  addr : Nat          -- where its record lies in the home copy (R313)
  off : Nat           -- total length of the records before it in the list: its place in a twin (R350)
deriving DecidableEq, Repr

/-- A group after the resolution of R48. -/
structure Group where
  window : Nat
  members : BitVec 256
deriving DecidableEq, Repr

/-- What a commit leaves in the tiles: the copies of the image parts and the sums taken once (R58, R59). -/
structure Image where
  n : Nat
  t : Nat
  m : Nat
  rank : Nat
  qubo : Bool
  jobKey : Nat
  modMap : List Nat              -- module ID of each rank (R118)
  blocks : List Block            -- the block list (R107)
  groups : List Group            -- resolved groups, pins included (R48)
  bias : List Int                -- effective biases B_v of the image (R34, R35)
  k : Int                        -- energy constant K (R32)
  e0 : List Int                  -- energy of each replica at commit (R58 step 7), K included
  phases : List (List (Option Nat))  -- phase map: per phase, per job tile, the window visited (R49, R50)
  digest : BitVec 64             -- commit digest (R59)
  twin : Option Nat              -- TWIN_ADDR when committed with TWIN (R109)
  codes : List Int               -- bias codes of the home variables, in SPS (R41, R52)
  scales : List Nat              -- bias scale of each job tile of the module (R37)
  records : List (Nat × Nat)     -- every record of the list, home or not: address, and place in a twin (R115)
deriving DecidableEq, Repr

/-- The nine counters of Table 3.4. -/
structure Counters where
  visits : Nat := 0
  proposed : Nat := 0
  accepted : Nat := 0
  chained : Nat := 0
  resolver : Nat := 0
  stale : Nat := 0
  passes : Nat := 0
  rxAttempts : Nat := 0
  rxAccepts : Nat := 0
deriving DecidableEq, Repr

/-- The state of R106, which a waypoint, an entry point and a suspension record hold (Tables 3.1 and 8.8). -/
structure Ann where
  sweep : Nat := 0
  phase : Nat := 0
  seed : BitVec 128 := 0
  opcode : Nat := 0
  params : Bytes := List.replicate 112 0   -- bytes 16–127 of the original packet
  ckpt : Nat := 0
  schedDigest : BitVec 64 := 0
  exch : Nat := 0                          -- exchange count e (R82)
  pi : List Nat := List.range 16           -- temperature slot of each replica (R81)
  e : List Int := List.replicate 16 0      -- reported energies
  esum : List (List Int) := []             -- partial energies e_t[k]: per home job tile, per replica (R63)
  best : List Int := List.replicate 16 0
  bestSweep : List Nat := List.replicate 16 0
  stuck : List Nat := List.replicate 16 0
  wl : List Nat := List.replicate 16 0
  runBest : Int := 0
  plateau : Nat := 0
  wpCount : Nat := 0
  wpChain : BitVec 64 := 0
  counters : Counters := ⟨0, 0, 0, 0, 0, 0, 0, 0, 0⟩
  samples : Nat := 0
  spins : List (List (BitVec 256)) := []      -- SPS spin bits: per replica, per window (R52)
  bestSpins : List (List (BitVec 256)) := []  -- best states in the staging buffers (R95)
  pairs : List (List (List Int)) := []        -- CORRELATE statistics: per pair, 256 rows of 256 (R156)
  moments : List (List Int) := []             -- first moments: per window, 256 lanes (R156)
deriving DecidableEq, Repr

/-- The visit of one window in the current phase: what its flip notice says (Table 3.3). -/
structure Notice where
  window : Nat
  rmask : BitVec 16
  flips : List (BitVec 256)
  cost : Nat := 0                -- TCLK cycles of the visit (Table 3.5)
  rho : Nat := 0                 -- resolver cycles of the visit
deriving DecidableEq, Repr

/-- A boundary whose sums FIRSTWIN tests (R105). -/
structure Boundary where
  sweep : Nat
  phase : Nat
  energies : List Int
  spins : List (List (BitVec 256))
  untested : List Nat
deriving DecidableEq, Repr

/-- A sweep-end record of another rank (Table 5.3). -/
structure RankSum where
  rank : Nat
  sweep : Nat
  sums : List Int
deriving DecidableEq, Repr

/-- A suspension record (R195): the stop waypoint, the schedule copy and the state of replica exchange. -/
structure Suspension where
  ann : Ann
  sched : Bytes
  gen : Nat
  piNext : Option (List Nat)     -- an exchange of R84 not yet adopted
  rxDone : Nat                   -- the exchanges of R84 done
  betasPrev : List Nat           -- inverse temperatures of the energies that the next one goes by
deriving DecidableEq, Repr

/-- The two fetch buffers of a streaming tile (R113): blocks by index in the list. -/
structure FetchBuf where
  tile : Nat
  filling : List Nat             -- the buffer being filled
  full : List Nat                -- the other buffer
  done : Nat                     -- fetches of the present phase that are done
deriving DecidableEq, Repr

/-- One rank's sums at a boundary inside a sweep, for FIRSTWIN (R122). -/
structure Share where
  sweep : Nat
  phase : Nat
  rank : Nat
  sums : List Int
deriving DecidableEq, Repr

/-- State of a problem slot (Table 2.6). -/
inductive SlotState where
  | empty
  | open_
  | committed
deriving DecidableEq, Repr

/-- A problem slot (R53) and the annealing state its tiles hold (R63, R161). -/
structure Slot where
  state : SlotState := .empty
  gen : Nat := 0
  owner : Option (Fin 4) := none
  n : Nat := 0
  t : Nat := 0
  m : Nat := 0
  rank : Nat := 0
  qubo : Bool := false
  jobKey : Nat := 0
  extents : List (Option Nat) := List.replicate 8 none    -- base of each extent (R107)
  extCounts : List Nat := List.replicate 8 0
  biasBase : Option Nat := none
  groupBase : Option Nat := none
  groupCount : Nat := 0
  schedAddr : Option Nat := none
  phaseAddr : Option Nat := none
  initAddr : Option Nat := none
  twinAddr : Option Nat := none
  workAddr : Option Nat := none
  digest : BitVec 64 := 0
  image : Option Image := none
  ann : Ann := Ann.mk 0 0 0 0 (List.replicate 112 0) 0 0 0 (List.range 16) (List.replicate 16 0) []
    (List.replicate 16 0) (List.replicate 16 0) (List.replicate 16 0) (List.replicate 16 0) 0 0 0 0
    ⟨0, 0, 0, 0, 0, 0, 0, 0, 0⟩ 0 [] [] [] []
  fields : List (List Int) := []         -- h[k][v]: MODE 2 rows of the job tiles (R161)
  biases : List Int := []                -- B_v: bias rows of the job tiles (R161)
  mirror : List (List (BitVec 256)) := []  -- spin mirrors: per replica, per window (R116)
  ran : Bool := false                    -- a command has run since the commit (R213)
  user : Option (Fin 64) := none         -- SQ of the command that works on it
  visited : List Notice := []            -- notices of the current phase (R77, R78)
  early : List (Nat × Notice) := []      -- notices of later barriers, by sequence number (R78)
  spinRecs : List (Nat × Nat × List (BitVec 256)) := []  -- boundary-spin records held: barrier, window (R117)
  sweepDue : Bool := false               -- the last phase has ended; SWEEP_END is due (R83)
  boundaries : List Boundary := []       -- FIRSTWIN boundaries (R105)
  rankSums : List RankSum := []          -- sweep-end records of other ranks (R121)
  betas : List Nat := []                 -- beta of each replica for the present sweep (R88)
  betasPrev : List Nat := []             -- beta of each replica in the sweep before (R84)
  rxDone : Nat := 0                      -- one more than the sweep of the last asynchronous exchange (R84)
  filled : List Nat := []                -- windows of other ranks whose fill record has come (R116, R117)
  known : List Nat := []                 -- windows of other ranks whose spins the fields take in (R41, R117)
  due : List Nat := []                   -- windows of other ranks whose fill record the run needs (R116, R117)
  overflow : List Nat := []              -- windows that some die of the job had no room to mirror (R116, R117)
  mirrored : List Nat := [0, 0, 0, 0]    -- windows in the mirrors of this slot, by compute die (R116)
  shares : List Share := []              -- sums of other ranks at boundaries inside a sweep (R122)
  piNext : Option (List Nat) := none     -- permutation an exchange of RX_MODE 2 has produced (R84)
  nightSaved : Bool := false             -- its tile state was saved for NIGHT, and no command has run on it since (R314)
  winner : Nat := 0
  winPhase : Nat := 0xFFFF
  entryPoint : Option Ann := none        -- R347
  buffers : List Ann := []               -- whole on-chip waypoints, latest first, at most two (R194)
  susp : Option Suspension := none
  suspLost : Bool := false               -- its suspension record was lost (Table 15.2)
  replayId : Nat := 0                    -- R354
  replaySteps : List (Nat × Nat) := []   -- replay records held: rank, STEP
  fetched : List FetchBuf := []          -- fetch buffers of the streaming tiles (R113)
  primed : Bool := false                 -- the diagonals of the present visits were fetched in the phase before (R113)
  rowsLoaded : Bool := false             -- TILE_LOAD has replaced rows (R174)
  point : Option Ann := none             -- the state at the last preemption point (R80, R230)
  stepStart : Nat := 0                   -- step counter at the dispatch of the present run
  dirRuns : List Nat := [0, 0, 0, 0]     -- fetch-directory runs on chip, by compute die (R115)
deriving DecidableEq, Repr

/-! ## The Ledger and the global mode -/

/-- The Ledger ring and the LGR block (R198, Tables 8.12 and 8.13). -/
structure Ledger where
  ring : Tab 256 Bytes := Tab.all 256 (List.replicate 128 0)
  head : Nat := 0
  enable : Bool := false
  base : BitVec 64 := 0
  log2 : BitVec 5 := 6
  mirrored : Nat := 0
  tail : BitVec 64 := 0
  lag : Bool := false
  lost : Bool := false
  windowGone : Bool := false
  lostCount : Nat := 0
  port : Fin 4 := 0             -- port of the partner that last wrote CTL with ENABLE = 1 (R273)
deriving DecidableEq, Repr

/-- GCTL.MODE and GCTL.CKPT (Tables 8.1 and 8.2), and the numbers of the running firmware. -/
structure Gctl where
  detStrict : Bool := true
  fixedTiming : Bool := false
  timingClass : BitVec 2 := 0
  ckpt : BitVec 16 := 64
  epoch : Word := 0
  fwVersion : Word := 0
deriving DecidableEq, Repr

/-! ## Tiles and the ERRS block -/

/-- A TILE_UE recorded in secure flash (R351). -/
structure TileUe where
  die : Fin 4
  phys : Nat
  word : Nat
  hour : Nat
deriving DecidableEq, Repr

/-- The retirement of a logical tile that waits until a fixed-timing command on it has stopped (R186): the class and row of the fault,
the spares that will fail their self-test, and the queue of the command. -/
structure DueTile where
  tile : Fin 256
  cls : Nat
  row : Nat
  bad : Nat
  sq : Option Nat
deriving DecidableEq, Repr

/-- An accumulation group: what ACC_GRPn_CFG and ACC_GRPn_TERMS hold (Tables 7.3 and 7.4). -/
structure GroupReg where
  firstRow : Nat
  rows : Nat
  mode : Nat       -- Table 7.1
  open_ : Bool
  add : Bool
  accLong : Bool
  terms : Nat
deriving DecidableEq, Repr

/-- The bits of ACM rows that hold no slot's state: lane words as they were left, or words that the spec gives no row and lane,
which are free values from a number on (log entry 37). -/
inductive RowBits where
  | words (w : List (BitVec 64))
  | free (n : Nat)
deriving DecidableEq, Repr

/-- A run of ACM rows that a command has left behind (R160). -/
structure RowRun where
  first : Nat
  count : Nat
  bits : RowBits
deriving DecidableEq, Repr

/-- What a tile holds beside the state of the slot that it serves: the accumulation groups of its active and its shadow set (R22,
R162), and the ACM rows that keep their bits without an interpretation, latest first; a row of no run is 0 (R160). -/
structure TileUnit where
  active : Tab 4 GroupReg := Tab.all 4 ⟨0, 0, 0, false, false, false, 0⟩
  shadow : Tab 4 GroupReg := Tab.all 4 ⟨0, 0, 0, false, false, false, 0⟩
  rows : List RowRun := []
deriving DecidableEq, Repr

/-- The state that a tile holds: a slot, its generation, and the job tile of the job that the tile serves (R61, R161). -/
structure Held where
  slot : Fin 64
  gen : Nat
  job : Nat
deriving DecidableEq, Repr

/-- Which physical tile serves which logical tile (R18), spares and retirements (R351, R360). -/
structure Tiles where
  serves : Tab 256 (Option Nat) := Tab.gen 256 (fun n => some (n % 64))  -- physical tile of the die, none if unserviceable
  spares : Tab 4 (List Nat) := Tab.all 4 [64, 65, 66, 67]                -- untried spares of each die, lowest first
  retired : List (Fin 4 × Nat) := []
  disabled : Tab 4 Bool := Tab.all 4 false
  ues : List TileUe := []
  holds : Tab 256 (Option Held) := Tab.all 256 none                      -- the slot state that each logical tile holds
  units : Tab 256 TileUnit := Tab.all 256 ⟨Tab.all 4 ⟨0, 0, 0, false, false, false, 0⟩, Tab.all 4 ⟨0, 0, 0, false, false, false, 0⟩, []⟩
  due : List DueTile := []   -- retirements that wait for a fixed-timing command to stop (R186)
deriving DecidableEq, Repr

/-- An error log entry (Table 15.8). -/
structure LogEntry where
  cls : Nat := 0
  die : Nat := 0
  ltile : Option Nat := none
  sq : Option Nat := none
  action : Nat := 0
  time : Nat := 0
  detail : Nat := 0
deriving DecidableEq, Repr

/-- The ERRS registers less the memory counters (Table 15.5). -/
structure Errs where
  resetCause : BitVec 4 := 0
  remaps : Nat := 0
  replays : Nat := 0
  dataLost : Nat := 0
  twinReads : Nat := 0
  log : Tab 16 LogEntry := Tab.all 16 ⟨0, 0, none, none, 0, 0, 0⟩
  logHead : Fin 16 := 0
  logCount : Nat := 0
deriving DecidableEq, Repr

/-! ## What leaves the module -/

/-- What the module sends on its wires, oldest first (log entry 4: the model's own record of the pins). -/
inductive Out where
  | msix (port : Fin 4) (vector : Nat)
  | mail (box : BoxId)                       -- a message becomes visible in a mailbox
  | bell (bell : BellId)                     -- a notification of R245
  | flit (p : Fin 16) (bytes : Bytes)        -- data, ack, nack and idle flits as sent
  | msgAck (src : BitVec 6) (cls : Nat) (mseq : Nat)
deriving DecidableEq, Repr

/-- The last answer given to a reader (log entry 4). -/
inductive Reply where
  | none
  | reg (v : Word)
  | bytes (data : Bytes)
  | completerAbort        -- R418
  | stall                 -- the read waits (R392)
  | nack                  -- not acknowledged, or STALL on USB 2.0
  | ok
deriving DecidableEq, Repr

/-- A message handed to the fabric (Table 12.6). -/
structure Msg where
  cls : Nat
  rtype : Nat
  src : BitVec 6
  dst : BitVec 6
  err : Bool
  key : Word
  body : Bytes
  mseq : Nat
deriving DecidableEq, Repr

/-- Front Desk, its memory and its ports: everything a command can touch. -/
structure Desk where
  now : Nat := 0                          -- ns since reset (SQC.NOW)
  nowHi : Word := 0                       -- NOW_HI as latched (R209)
  freeCtr : Nat := 0                      -- free values taken (log entry 7; the model's own field)
  ring : List Host.Cell := []             -- SQ ring memory (R204)
  sqs : Tab 64 Sq := Tab.all 64 ⟨false, 0, 0, 0, 0, 0, false, false, 500, [], [], none, none, none, [], [], [], [], false⟩
  marks : Tab 64 (Option HeadMark) := Tab.all 64 none   -- what is noted of the next packet of each queue (R57, R236)
  cqs : Tab 64 Cq := Tab.all 64 ⟨false, 0, 0, false, false, 0, 0, 0, false, 0, false, false, []⟩
  rr : Fin 64 := 63                       -- R220
  slice : BitVec 10 := 20                 -- SQC.SLICE
  drain : Bool := false                   -- R220 step 4
  fences : Tab 256 Fence := Tab.all 256 ⟨0, false, 0⟩
  deadlockSince : Option Nat := none      -- start of the count of R229
  itins : Tab 256 Itin := Tab.all 256 ⟨[], [], none, List.replicate 256 0⟩
  slots : Tab 64 Slot := Tab.all 64 {}
  aborts : List AbortWait := []           -- ABORTs that wait for their targets (R232)
  ledger : Ledger := {}
  gctl : Gctl := {}
  tiles : Tiles := {}
  errs : Errs := {}
  mem : Memory := {}
  ports : Tab 4 Port := Tab.all 4 {}
  bootId : Word := 0                      -- LGR.BOOT_ID, in secure flash
  tx : List Msg := []                     -- messages for the fabric
  held : List Msg := []                   -- early records for keys with no dispatched command (R120)
  nextTag : Nat := 0                      -- next request tag (Table 12.6)
  out : List Out := []
  tripHold : Bool := false                -- tile commands are held (R338)
  tripLatched : Bool := false             -- R339
  tclkOff : Bool := false                 -- TCLK is stopped on every compute die by a trip (R338 step 1)
deriving DecidableEq, Repr

/-! ## Mailboxes, doorbells, locks -/

/-- A mailbox: message words, both copies of the status, acknowledge register and timer (R237 to R243). -/
structure Box where
  msg : Tab 16 Word := Tab.all 16 0
  len : BitVec 5 := 8
  full : Bool := false
  seq : BitVec 8 := 0
  collSend : Bool := false       -- COLLISION in the sender's copy
  collRecv : Bool := false       -- COLLISION in the receiver's copy
  timeout : Bool := false        -- TIMEOUT, sender's copy
  ackValid : Bool := false       -- ACK_VALID, sender's copy
  staleAck : Bool := false       -- STALE_ACK, receiver's copy
  ack : Word := 0                -- Table 10.4 as last written
  limit : BitVec 20 := 10000     -- MBX_TIMEOUT register, µs
  goAt : Nat := 0                -- ns of the last GO
  inForce : Nat := 10000         -- MBX_TIMEOUT in force since that GO, µs
deriving DecidableEq, Repr

/-- A receiver's doorbells (R245). -/
structure Bell where
  pend : Word := 0
  mask : Word := 0xFFFFFFFF
  vector : BitVec 6 := 0         -- DB_CFG, host receivers only
  irq : Bool := false
deriving DecidableEq, Repr

/-- A message Front Desk or Night Porter is to send (R247). -/
structure Mail where
  type : Nat
  tag : Nat
  words : List Word              -- MSG1 onward
deriving DecidableEq, Repr

/-- The MBX block and the porter and fabric pairs (R237, R251). -/
structure Mailboxes where
  h2f : Tab 4 Box := Tab.all 4 {}
  f2h : Tab 4 Box := Tab.all 4 {}
  npToFd : Box := {}
  fdToNp : Box := {}
  peerToFd : Tab 16 Box := Tab.all 16 {}
  fdToPeer : Tab 16 Box := Tab.all 16 {}
  host : Tab 4 Bell := Tab.all 4 {}
  fdHost : Tab 4 Bell := Tab.all 4 {}
  fdPorter : Bell := {}
  porter : Bell := {}
  fdPeer : Tab 16 Bell := Tab.all 16 {}   -- the peers' own doorbells are in the peers
  dropped : Tab 4 Nat := Tab.all 4 0            -- F2H_DROPPED
  f2hQueue : Tab 4 (List Mail) := Tab.all 4 []  -- R247: at most 8 further messages
  fdNpQueue : List Mail := []                   -- Front Desk to Night Porter
  npFdQueue : List Mail := []                   -- Night Porter to Front Desk
  fdPeerQueue : Tab 16 (List Mail) := Tab.all 16 []
  asks : List (Nat × Fin 4 × Nat) := []         -- SENSOR_REQ outstanding: porter tag, port, host tag
  nextAsk : Nat := 0
deriving DecidableEq, Repr

/-- The LCK block (Table 10.8): the owner of each lock. -/
structure Locks where
  owner : Tab 64 (Option Requester) := Tab.all 64 none
  badRelease : Nat := 0
  asked : List (BitVec 6 × Fin 64) := []          -- reads of locks of peers that are under way, oldest first (R253, R300)
  answers : List (BitVec 6 × Fin 64 × Word) := [] -- what the last read of each lock of a peer returned
deriving DecidableEq, Repr

/-! ## Night Porter -/

/-- Module states (Table 14.2). -/
inductive PState where
  | active
  | idle
  | nap
  | doze
  | night
deriving DecidableEq, Repr

/-- A request of Night Porter that Front Desk has not answered (R329, R335). -/
inductive Asked where
  | descend (target : Nat)
  | clockStop (f gate : Nat) (at_ : Nat) (cap heat : Bool)   -- the step, when asked, and its reasons
deriving DecidableEq, Repr

/-- Night Porter, the NPI block and the circuits beside it (Chapter 14). -/
structure Porter where
  state : PState := .idle
  memPaths : List (DramUnit × Nat) := []  -- memory paths awake in DOZE and NIGHT, each with the ns of its last code 8 access (R330)
  capThrottle : Bool := false
  thermalThrottle : Bool := false
  limiter : Bool := false
  limiterAt : Nat := 0             -- ns of the last engagement
  tripHold : Bool := false
  tripLatched : Bool := false
  npRestart : Bool := false
  idleNap : BitVec 20 := 50
  napDoze : BitVec 20 := 1000
  dozeNight : BitVec 16 := 0
  floor : BitVec 3 := 4
  pcapHost : BitVec 16 := 2000
  trayCap : BitVec 16 := 0         -- TRAY_CAP as last written (R409)
  cap : Nat := 2000                -- the cap in force, W (R333)
  trayNow : BitVec 16 := 0         -- the tray cap in force (R409)
  f : Nat := 2000                  -- TCLK in force, MHz
  gate : Nat := 0
  voff : Nat := 0                  -- mV
  steps : Nat := 0                 -- TCLK_STEPS
  pendSteps : Option Nat := none   -- a lower fp that waits for fixed-timing commands (R341)
  worst : Nat := 0
  plans : Nat := 0
  hours : Nat := 0                 -- POWERED_HOURS
  nextPlan : Nat := 24
  planDue : Bool := false
  wakeCause : BitVec 4 := 0
  throttleCount : Nat := 0
  limiterCount : Nat := 0
  trips : Nat := 0
  tripTimes : List Nat := []       -- ns of the trips of the last hour (R339)
  coolSince : Option Nat := none   -- channels 0–47 below 85 °C since (R338)
  filt : Tab 128 (BitVec 4) := Tab.gen 128 (fun n =>
    if n < 64 then 3 else if n < 96 then 2 else if n < 99 then 4 else 0)
  y : Tab 128 (Option Int) := Tab.all 128 none   -- filter accumulators (R325)
  val : Tab 128 Int := Tab.all 128 0
  raw : Tab 128 Int := Tab.all 128 0
  timer : Nat := 0                 -- ns since when the descent timer counts (R329)
  quiet : Bool := true             -- the conditions of R329 for IDLE to NAP hold
  waking : Bool := false           -- a wake is under way (R327)
  left : Nat := 1                  -- code of the state the last wake left (WOKE)
  wakeAt : Nat := 0                -- ns at which the last wake began (R328)
  asked : Option Asked := none
  fixedHold : Bool := false        -- f was set to 1,800 for the fixed-timing commands that are uncompleted (R179, R335)
  rounds : Nat := 0                -- sample rounds made
deriving DecidableEq, Repr

/-! ## Random source -/

/-- The tests and counts of one noise source (R387, R389). -/
structure Source where
  last : Bool := false
  run : Nat := 0
  apFirst : Bool := false
  apCount : Nat := 0
  ones : Nat := 0
  pairs : Nat := 0
  onesOut : Nat := 0     -- SRCs_ONES
  pairsOut : Nat := 0    -- SRCs_PAIRS
deriving DecidableEq, Repr

/-- A reader whose words the pool does not yet hold (R391). -/
inductive Reader where
  | word (who : Requester) (since : Nat)
  | seed (sq : Fin 64)
  | keys
deriving DecidableEq, Repr

/-- State of the random source (Table 17.5). -/
inductive TrngState where
  | startup
  | ready
  | requal
  | off
deriving DecidableEq, Repr

/-- The random source (Chapter 17). -/
structure Trng where
  state : TrngState := .startup
  attempt : Nat := 0
  fails : Nat := 0
  lastFail : Word := 0
  src : Tab 11 Source := Tab.all 11 {}
  pos : Nat := 0                  -- samples in the present adaptive-proportion window
  statPos : Nat := 0              -- samples in the present statistics window
  raw : List Bool := []           -- raw bits of the present block
  blocks : List (List Word) := [] -- conditioned blocks that await release (R388)
  pool : List Word := []
  waiting : List Reader := []
  latch : Tab 32 Word := Tab.all 32 0   -- TRNG_DATA_HI of each requester
deriving DecidableEq, Repr

/-! ## Trust -/

/-- A firmware slot in secure flash (R369). -/
structure FwSlot where
  image : Bytes := []
  failed : Bool := false
deriving DecidableEq, Repr

/-- The slot record of one image type (R369). -/
structure FwType where
  slots : Tab 2 FwSlot := Tab.all 2 ⟨[], false⟩
  active : Fin 2 := 0
  pending : Option (Fin 2) := none
  attempts : Nat := 0
  fails : Nat := 0                -- failed attempts of the pending slot
  reverted : Bool := false
  rollback : Word := 0            -- SEC.ROLLBACK_x
  running : Option (Fin 2) := none
  meas : Bytes := List.replicate 32 0
deriving DecidableEq, Repr

/-- Lifecycle states (Table 16.5). -/
inductive Lifecycle where
  | blank
  | provisioned
  | field
  | service
  | retired
deriving DecidableEq, Repr

/-- The alias attestation key and its certificate (R376, Table 16.4). -/
structure AttKey where
  seed : Bytes
  number : Nat
  cert : Bytes
  fs : Bytes
  fd : Bytes
  np : Bytes
deriving DecidableEq, Repr

/-- The secure region and the SEC block (Chapter 16). -/
structure Secure where
  lifecycle : Lifecycle := .blank
  tampered : Bool := false
  lcCount : BitVec 8 := 0
  fd : FwType := {}
  np : FwType := {}
  npVersion : Word := 0
  recovered : Bool := false
  fwResult : BitVec 8 := 0
  fwImage : BitVec 2 := 0
  firstStage : Bytes := []
  measFs : Bytes := List.replicate 32 0
  idKey : Option Bytes := none
  idLeaf : Nat := 0
  attKey : Option AttKey := none
  attLeaf : Nat := 0
  genFailed : Bool := false        -- the last key generation failed on the random source (R377)
  genWanted : Bool := false        -- a new alias key is to be generated (R376)
  wipeCase : Bool := false
  wipeV : Bool := false
  wipeC : Bool := false
  wipeLc : Bool := false
  wipeCount : Nat := 0
  sram : List Host.Cell := []      -- secure SRAM; an unlisted byte is 0
  engineWarm : Bool := false       -- the XMSS engine's working state stands (R382)
  staging : Tab 2 Bytes := Tab.all 2 []   -- staging slots (R372)
  armed : Bool := false            -- ACTIVATE_IDLE (R373)
  idleSince : Option Nat := some 0 -- healthy running since (R374)
  drawn : List Word := []          -- the 24 words that a key generation has taken (R376, R391)
  stageSlot : Fin 2 := 0           -- staging slot of the image whose pieces are arriving (R372)
  flashFault : Option (Nat × Nat) := none  -- class and die of a fault logged before its reset (R346)
deriving DecidableEq, Repr

/-- The recovery path of the USB 2.0 service function (R282, R370). -/
structure Recovery where
  state : BitVec 2 := 0
  expect : Nat := 0
  data : Bytes := []
deriving DecidableEq, Repr

/-- The SMBus target (Chapter 19). -/
structure Smbus where
  mask : BitVec 16 := 0
  latches : BitVec 8 := 0
  seen : BitVec 8 := 0             -- the bits as last evaluated
  excursion : Bool := false        -- VIN_EXCURSION
deriving DecidableEq, Repr

/-! ## Strelide -/

/-- A peer (R291). -/
structure Peer where
  id : BitVec 6
  units : Word
  epoch : Word
  bootId : BitVec 64
  lostAt : Option Nat      -- ns since no route reaches it (R292)
  known : Bool             -- a hello of its own has been accepted (R291)
deriving DecidableEq, Repr

/-- State of a Strelide link (Table 12.9). -/
inductive LinkState where
  | absent
  | training
  | up
  | down
deriving DecidableEq, Repr

/-- A Strelide port (R283 to R290, Table 12.8). -/
structure FabPort where
  link : LinkState := .absent
  peerId : BitVec 6 := 0
  peerPort : BitVec 4 := 0
  cableErr : Bool := false
  dupId : Bool := false
  retries : Nat := 0
  retrains : Nat := 0
  errs : Nat := 0
  accepted : Bool := false          -- the peer's hello has been received and accepted (R289)
  greeted : Bool := false           -- the module's own hello has been received by the peer (R289)
  refused : Bool := false           -- a hello was refused: nothing crosses until the link trains again (R290)
  txSeq : BitVec 12 := 0            -- FSEQ of the next data flit
  rxSeq : BitVec 12 := 0            -- FSEQ expected next
  nacked : Bool := false            -- a nack is out; data flits are discarded until rxSeq arrives good
  replay : List (BitVec 12 × Bytes) := []  -- unacknowledged data flits, oldest first
  queue : List Bytes := []          -- flits that wait for room or credit
  nackSeq : BitVec 12 := 0
  nackCount : Nat := 0
  ackAt : Nat := 0                  -- ns of the last ack or nack while flits are unacknowledged
  failedTrains : Nat := 0
  credits : Tab 5 Nat := Tab.all 5 0   -- receive credits that the peer has given, per class (R295)
  given : Tab 5 Nat := Tab.all 5 0     -- receive credits advertised to the peer and not used, per class (R297)
  turn : Fin 5 := 0                    -- place in the weighted round of BSPIN, HALO and RMEM (Table 12.5)
  part : Tab 5 Bytes := Tab.all 5 []   -- message being assembled, per class
deriving DecidableEq, Repr

/-- The fabric (Chapter 12). -/
structure Fabric where
  timeout : BitVec 14 := 100        -- FAB.CTL.PEER_TIMEOUT
  gen : Word := 0                   -- FAB.PEERS_GEN
  peers : List Peer := []
  ports : Tab 16 FabPort := Tab.all 16 {}
  outSeq : List (BitVec 6 × Nat × Nat) := []   -- next MSEQ by destination and class (R294)
  inSeq : List (BitVec 6 × Nat × Nat) := []    -- next MSEQ to deliver by source and class
  kept : List Msg := []             -- unacknowledged messages (R294)
  unsent : List Msg := []           -- messages that wait for a route or for retention room
  ahead : List (Fin 16 × Msg) := [] -- arrived before their turn, with the port of arrival
  far : List (Fin 64 × Fin 64) := []   -- links between two other modules that are up, lower ID first (R293)
  inbox : List (Fin 16 × Msg) := [] -- delivered, with the port of arrival, oldest first
deriving DecidableEq, Repr

/-! ## The whole -/

/-- The block's state. -/
structure State where
  pending : List Instr            -- commands that wait, first in first out
  fuses : Fuses
  elec : Electrical
  desk : Desk
  mbx : Mailboxes
  locks : Locks
  np : Porter
  trng : Trng
  sec : Secure
  recov : Recovery
  smb : Smbus
  fab : Fabric
  reply : Reply
deriving DecidableEq, Repr

/-- A step of this block never faults: every command of the table has an effect the spec gives, or none on the
state (log entry 5). The type is closed and empty. Nobody raises a fault, so none is safe or not. -/
inductive Fault where
deriving DecidableEq, Repr

/-- Why a command has no meaning. No arm of `exec` uses it once every row has its meaning. Raised by `exec` for an
arm not yet written: safe, since a refused command proves nothing about a next state. -/
inductive Refusal where
  | notModelled (mnemonic : String)
deriving DecidableEq, Repr

/-- The module right after reset (R358, R368 step 4): every register at the value its table gives, IDLE, no partner
bound, no memory byte listed, every register without a reset value in the spec at the value of log entry 1. -/
def State.reset : State where
  pending := []
  fuses := {}
  elec := {}
  desk := {}
  mbx := {}
  locks := {}
  np := {}
  trng := {}
  sec := {}
  recov := {}
  smb := {}
  fab := {}
  reply := .none

end Sys2Proof.Machine
end

