-- ==== Sys2Proof/Machine/Operands.lean ====
section
/-!
DEFINITION. Operands: what a packet's bytes say (Tables 9.7 to 9.16), what units a grade has (Table 0.1), and what a
byte range of the address map is (R7, R8, R27 to R29, R271, R298, R311, R312, R361, R414).
-/
namespace Sys2Proof.Machine

/-- What a command sees of the module besides Front Desk's own state. -/
structure Env where
  fuses : Fuses
  elec : Electrical
  np : Porter
  trng : Trng
  sec : Secure
  fab : Fabric
deriving DecidableEq, Repr

/-- The part of the state outside Front Desk. -/
def envOf (s : State) : Env := ⟨s.fuses, s.elec, s.np, s.trng, s.sec, s.fab⟩

/-! ## Grades (Table 0.1) -/

/-- Compute dies present: CD0 up to this count. -/
def gradeDies : Grade → Nat
  | .ktk9440 => 2
  | _ => 4

/-- Whether the LP5X tier is present. -/
def gradeLp : Grade → Bool
  | .ktk9480 => true
  | _ => false

/-- Strelide ports present. -/
def gradeSl : Grade → Nat
  | .ktk9480 => 16
  | .ktk9460 => 8
  | .ktk9440 => 0

/-- USB4 ports present. -/
def gradeUp : Grade → Nat
  | .ktk9440 => 2
  | _ => 4

/-- Whether correlation capture is present. -/
def gradeCorr : Grade → Bool
  | .ktk9440 => false
  | _ => true

/-- CAP.UNITS (Table 0.3). -/
def gradeUnits : Grade → Word
  | .ktk9480 => 0x0C100F3C#32
  | .ktk9460 => 0x0C080F39#32
  | .ktk9440 => 0x06000302#32

/-- Sustained module power in watts (Table 0.1). -/
def gradeWatts : Grade → Nat
  | .ktk9480 => 2000
  | .ktk9460 => 1750
  | .ktk9440 => 950

/-! ## Packets -/

/-- The opcodes of Table 9.8. -/
def opOf (code : Nat) : Option Op :=
  match code with
  | 0x01 => some .loadCouplings | 0x02 => some .loadBiases | 0x03 => some .loadGroups
  | 0x04 => some .commitProblem | 0x05 => some .setSchedule | 0x06 => some .setPhaseMap
  | 0x10 => some .anneal | 0x11 => some .sample | 0x13 => some .readState | 0x14 => some .suspend
  | 0x15 => some .resume | 0x18 => some .correlate
  | 0x20 => some .matmul | 0x21 => some .conv2d | 0x22 => some .attend | 0x23 => some .vectorOp
  | 0x24 => some .reduce | 0x25 => some .coupleOut
  | 0x30 => some .copy | 0x31 => some .fill | 0x32 => some .tileLoad | 0x33 => some .tileStore
  | 0x38 => some .seedDraw
  | 0x40 => some .fenceSignal | 0x41 => some .fenceWait | 0x48 => some .itineraryStore
  | 0x49 => some .itineraryLaunch | 0x4A => some .patch | 0x50 => some .query | 0x51 => some .ledgerMark
  | 0x60 => some .abort | 0x70 => some .imageStage | 0x71 => some .imageInstall | 0x72 => some .attest
  | 0x73 => some .lifecycle
  | _ => none

/-- Whether a command runs on logical tiles (the last column of Table 9.8). -/
def opTile (o : Op) : Bool :=
  match o with
  | .loadCouplings | .loadBiases | .loadGroups | .commitProblem | .anneal | .sample | .readState | .resume
  | .correlate | .matmul | .conv2d | .attend | .vectorOp | .reduce | .coupleOut | .copy | .fill | .tileLoad
  | .tileStore => true
  | _ => false

/-- The management commands of Table 9.16. -/
def opMgmt (o : Op) : Bool :=
  match o with
  | .imageStage | .imageInstall | .attest | .lifecycle => true
  | _ => false

/-- ANNEAL, SAMPLE, CORRELATE and RESUME. -/
def opRun (o : Op) : Bool :=
  match o with
  | .anneal | .sample | .correlate | .resume => true
  | _ => false

/-- The tensor commands of Table 9.13. -/
def opTensor (o : Op) : Bool :=
  match o with
  | .matmul | .conv2d | .attend | .vectorOp | .reduce => true
  | _ => false

/-- The commands that write a slot (first column of Table 2.6). -/
def opSlotWriter (o : Op) : Bool :=
  match o with
  | .loadCouplings | .loadBiases | .loadGroups | .setSchedule | .setPhaseMap | .commitProblem | .coupleOut => true
  | _ => false

/-- The commands that use a slot (R56). -/
def opSlotUser (o : Op) : Bool :=
  match o with
  | .anneal | .sample | .readState | .suspend | .resume | .correlate => true
  | _ => false

/-- The slot commands that R173, R174 and R213 hold like a slot-writing command. -/
def opSlotQuiet (o : Op) : Bool :=
  match o with
  | .tileLoad | .tileStore | .readState => true
  | _ => false

/-- A packet's opcode. -/
def pktOp (p : Bytes) : Option Op := opOf (field p 0 1)
def pktAdd (p : Bytes) : Bool := bit (field p 1 1) 0
def pktReplay (p : Bytes) : Bool := bit (field p 1 1) 1
def pktStrict (p : Bytes) : Bool := bit (field p 1 1) 2
def pktPatchRefs (p : Bytes) : Bool := bit (field p 1 1) 3
def pktDeadlineValid (p : Bytes) : Bool := bit (field p 1 1) 4
def pktWait (p : Bytes) : Bool := bit (field p 1 1) 5
def pktSignal (p : Bytes) : Bool := bit (field p 1 1) 6
def pktQtag (p : Bytes) : Nat := field p 2 2
def pktPseq (p : Bytes) : Nat := field p 4 4
def pktWaitFence (p : Bytes) : Nat := field p 8 1
def pktSignalFence (p : Bytes) : Nat := field p 9 1
def pktWaitValue (p : Bytes) : Nat := field p 10 6
def pktDeadline (p : Bytes) : Nat := field p 120 8
/-- The slot a packet names, for the commands that name one in byte 16. -/
def pktSlot (p : Bytes) : Fin 64 := fin 64 (field p 16 1)

/-- Whether a command's packet names a problem slot in byte 16. -/
def opNamesSlot (o : Op) : Bool := opSlotWriter o || opSlotUser o || opSlotQuiet o

/-! ## The address map -/

/-- What Front Desk finds of the byte ranges of a command (R8, R28). -/
inductive Verdict where
  | ok
  | absent     -- an absent unit is needed and no byte is unmapped
  | unmapped   -- a byte is not mapped
deriving DecidableEq, Repr

/-- The graver of two findings: BAD_PACKET comes before NOT_SUPPORTED (R8). -/
def Verdict.both : Verdict → Verdict → Verdict
  | .unmapped, _ => .unmapped
  | _, .unmapped => .unmapped
  | .absent, _ => .absent
  | _, .absent => .absent
  | _, _ => .ok

/-- The gravest of several findings. -/
def worst (l : List Verdict) : Verdict := l.foldl Verdict.both .ok

/-- Whether [a, a + n) and [lo, hi) share a byte. -/
def meets (a n lo hi : Nat) : Bool := decide (a < hi) && decide (lo < a + n)

/-- Bytes of HBM3E that one die's stacks serve (Table 5.1). -/
def dieSpan : Nat := 0x02400000000
/-- Offset of the private area in a die's range (R311). -/
def privateOff : Nat := 0x02380000000
/-- The LP5X tier's range (Table 1.6). -/
def lpBase : Nat := 0x10000000000
def lpTop : Nat := 0x40000000000
/-- The tables of Table 13.3. -/
def tableBase : Nat := 0xF0000000000
def tableTop : Nat := 0xF0000008000
/-- The host windows (R271). -/
def hostBase : Nat := 0xF8000000000
def hostSlice : Nat := 0x2000000000

/-- Whether some compute die is disabled (R360). -/
def anyDieDisabled (d : Desk) : Bool := (List.range 4).any fun k => d.tiles.disabled.at (fin 4 k)

/-- A range of the module's own HBM3E and LP5X memory (R27, R311, R361). -/
def memVerdict (g : Grade) (d : Desk) (a n : Nat) : Verdict :=
  if meets a n (4 * dieSpan) lpBase || meets a n lpTop (2 ^ 64 + a + n + 1) then .unmapped
  else
    let dies := worst ((List.range 4).map fun k =>
      if meets a n (k * dieSpan) ((k + 1) * dieSpan) then
        if gradeDies g ≤ k then .absent
        else if d.tiles.disabled.at (fin 4 k) then .unmapped
        else if meets a n (k * dieSpan + privateOff) ((k + 1) * dieSpan) then .unmapped
        else .ok
      else .ok)
    let lp : Verdict :=
      if meets a n lpBase lpTop then
        if !gradeLp g then .absent else if anyDieDisabled d then .unmapped else .ok
      else .ok
    dies.both lp

/-- A range of another module's memory, by the UNITS of its hello (R298). -/
def peerVerdict (units : Word) (a n : Nat) : Verdict :=
  if meets a n (4 * dieSpan) lpBase || meets a n lpTop (2 ^ 64 + a + n + 1) then .unmapped
  else
    worst ((List.range 4).map (fun k =>
      if meets a n (k * dieSpan) ((k + 1) * dieSpan) then
        if !units.getLsbD (8 + k) then .unmapped
        else if meets a n (k * dieSpan + privateOff) ((k + 1) * dieSpan) then .unmapped
        else .ok
      else .ok) ++
      [if meets a n lpBase lpTop && !units.getLsbD 2 then .unmapped else .ok])

/-- The module ID of a fabric address (R29). -/
def addrModule (a : Nat) : Nat := bits a 44 6
/-- The device address of a fabric address (R29). -/
def addrDevice (a : Nat) : Nat := a % 2 ^ 44

/-- Whether a fabric address names the module itself. -/
def addrOwn (e : Env) (a : Nat) : Bool := addrModule a == e.elec.moduleId.toNat

/-- Whether a module is a peer (R291), with its UNITS. -/
def peerUnits (e : Env) (id : Nat) : Option Word := (e.fab.peers.find? (fun p => p.id.toNat == id)).map (·.units)

/-- A byte range that a command of port `port` reads or writes by fabric address (R28, R29, R271, R298, R312). -/
def rangeVerdict (e : Env) (d : Desk) (port : Fin 4) (write : Bool) (addr n : Nat) : Verdict :=
  let a := addrDevice addr
  if 2 ^ 50 ≤ addr || n = 0 then .unmapped
  else if addrOwn e addr then
    if hostBase ≤ a then
      if a + n ≤ 2 ^ 44 && (a - hostBase) / hostSlice == port.val && (a + n - 1 - hostBase) / hostSlice == port.val
      then .ok else .unmapped
    else if tableBase ≤ a then (if !write && a + n ≤ tableTop then .ok else .unmapped)
    else memVerdict e.fuses.grade d a n
  else if gradeSl e.fuses.grade = 0 then
    -- R7: the fabric is needed, unless a byte lies in a range not mapped
    if meets a n (4 * dieSpan) lpBase || meets a n lpTop (2 ^ 64 + a + n + 1) then .unmapped else .absent
  else match peerUnits e (addrModule addr) with
    | none => .unmapped
    | some u => peerVerdict u a n

/-- An image address (R414): memory of the module itself. -/
def imageVerdict (e : Env) (d : Desk) (addr n : Nat) : Verdict :=
  if 2 ^ 50 ≤ addr || !addrOwn e addr || n = 0 then .unmapped
  else memVerdict e.fuses.grade d (addrDevice addr) n

/-- An image address where 0 stands for none. -/
def imageVerdict0 (e : Env) (d : Desk) (addr n : Nat) : Verdict :=
  if addr = 0 then .ok else imageVerdict e d addr n

/-! ## Where a device address lies (R108, R302, R308) -/

/-- The stack or package that serves a device address. -/
def unitOf (a : Nat) : Option DramUnit :=
  if a < 4 * dieSpan then some (.hbm (fin 12 (3 * (a / dieSpan) + a % dieSpan / 4096 % 3)))
  else if lpBase ≤ a && a < lpTop then some (.lp (fin 32 ((a - lpBase) / 4096)))
  else none

/-- The device address of a stack offset or package offset (the reverse of R302 and R308). -/
def unitAddr (u : DramUnit) (off : Nat) : Nat :=
  match u with
  | .hbm h => h.val / 3 * dieSpan + (off / 4096 * 3 + h.val % 3) * 4096 + off % 4096
  | .lp l => lpBase + (off / 4096 * 32 + l.val) * 4096 + off % 4096

/-- The die that owns a device address, 15 for none (Table 15.8). -/
def dieOf (a : Nat) : Nat :=
  match unitOf a with
  | some (.hbm h) => h.val / 3
  | some (.lp l) => l.val / 8
  | none => 15

/-- Whether a device address lies in a private area (R311). -/
def isPrivate (a : Nat) : Bool := decide (a < 4 * dieSpan) && decide (privateOff ≤ a % dieSpan)

/-- The class of an uncorrectable read at a device address (Table 15.1). -/
def ueClass (a : Nat) : Nat := if isPrivate a then 8 else if lpBase ≤ a then 7 else 6

/-- The port of a submission or completion queue (R203). -/
def queuePort (n : Fin 64) : Fin 4 := fin 4 n.val

/-- Whether a USB4 port is present on the grade. -/
def portPresent (g : Grade) (p : Fin 4) : Bool := decide (p.val < gradeUp g)

/-- Whether a Strelide port is present and its die is in service (R3, R361). -/
def slPresent (e : Env) (d : Desk) (p : Fin 16) : Bool :=
  decide (p.val < gradeSl e.fuses.grade) && !d.tiles.disabled.at (fin 4 (p.val / 4))

end Sys2Proof.Machine
end

