-- ==== Sys2Proof/Machine/Reals.lean ====
section
/-!
DEFINITION. Real functions in fixed point, with far more bits than any result keeps, so that rounding the
approximation once gives the correctly rounded value (R70, R142; log entry 22).
-/
namespace Sys2Proof.Machine

/-- Fraction bits of the fixed-point evaluations. -/
def realBits : Nat := 320

/-- 1.0 in fixed point. -/
def realOne : Nat := 2 ^ realBits

/-- ln 2 in fixed point: 2·Σ 1/((2i+1)·3^(2i+1)). -/
def realLn2 : Nat :=
  2 * ((List.range 110).foldl (fun (a : Nat × Nat) i => (a.1 + a.2 / (2 * i + 1), a.2 / 9)) (0, realOne / 3)).1

/-- Σ r^i/i! for 0 ≤ r < ln 2, in fixed point. -/
def expSeries (r : Nat) : Nat :=
  ((List.range 80).foldl (fun (a : Nat × Nat) i => (a.1 + a.2, a.2 * r / realOne / (i + 1))) (0, realOne)).1

/-- e^x of a fixed-point x as (m, k): the value is m·2^k in fixed point. -/
def expFix (x : Int) : Nat × Int :=
  let k := x / (realLn2 : Int)
  (expSeries (x % (realLn2 : Int)).toNat, k)

/-- arctan(1/q) in fixed point. -/
def arctanInv (q : Nat) : Int :=
  ((List.range 240).foldl (fun (a : Int × Nat) i =>
    (if i % 2 = 0 then a.1 + ((a.2 / (2 * i + 1) : Nat) : Int) else a.1 - ((a.2 / (2 * i + 1) : Nat) : Int), a.2 / (q * q)))
    (0, realOne / q)).1

/-- π in fixed point: 16·arctan(1/5) − 4·arctan(1/239). -/
def realPi : Nat := (16 * arctanInv 5 - 4 * arctanInv 239).toNat

/-- 2/√π in fixed point. -/
def twoOverSqrtPi : Nat := 2 * realOne * realOne / isqrt (realBits + 2) (realPi * realOne) 0

/-- Σ (−1)^n x^(2n)/(n!(2n+1)) of a fixed-point x² below 40. -/
def erfSeries (x2 : Nat) : Int :=
  ((List.range 260).foldl (fun (a : Int × Nat) i =>
    (if i % 2 = 0 then a.1 + ((a.2 / (2 * i + 1) : Nat) : Int) else a.1 - ((a.2 / (2 * i + 1) : Nat) : Int),
     a.2 * x2 / realOne / (i + 1))) (0, realOne)).1

end Sys2Proof.Machine
end

