-- ==== Sys2Proof/Machine/Tables.lean ====
section
/-!
DEFINITION. The acceptance tables (R70), the acceptance rule (R69), the sweep generator g (R97) and the inverse
temperature (R88).
-/
namespace Sys2Proof.Machine

/-- exp(−n/128) in fixed point. -/
def expNeg128 (n : Nat) : Nat :=
  let p := expFix (-((n * realOne / 128 : Nat) : Int))
  p.1 / 2 ^ (-p.2).toNat

/-- A[n] of R70: Metropolis. -/
def tableA (n : Nat) : Nat := min 0xFFFFFFFF (rheNat (2 ^ 32 * expNeg128 n) realOne)

/-- H[n] of R70: heat bath, 2^32/(1 + exp(n/128)). -/
def tableH (n : Nat) : Nat :=
  min 0xFFFFFFFF (rheNat (2 ^ 32 * expNeg128 n) (realOne + expNeg128 n))

/-- accept(de, beta, u) of R69; `heat` selects the heat bath (ACCEPT = 1 of R68). -/
def accept (heat : Bool) (de : Int) (beta u : Nat) : Bool :=
  if heat then
    let x := de.natAbs * beta
    let p := if x < 2 ^ 29 then tableH (x / 2 ^ 17) else 0
    if 0 ≤ de then u < p else p ≤ u
  else if de ≤ 0 then true
  else
    let x := de.toNat * beta
    if 2 ^ 29 ≤ x then false else u < tableA (x / 2 ^ 17)

/-- One round of g (R97): `i` is the round, `ka` and `kb` the base keys. -/
def gRound (ka kb : Word) (z : BitVec 64) (i : Nat) : BitVec 64 :=
  let hi : Word := z.extractLsb' 32 32
  let lo : Word := z.extractLsb' 0 32
  let p : BitVec 64 := lo.zeroExtend 64 * 0xD3A95E4B#64
  let key : Word := (if i % 2 = 0 then ka else kb) + BitVec.ofNat 32 (i * 0x9E3779B9)
  let nh : Word := p.extractLsb' 32 32 ^^^ hi ^^^ key
  let nl : Word := p.extractLsb' 0 32 ^^^ nh
  nh ++ nl

/-- The sweep generator g(seed, k, t, v, d) of R97. -/
def sweepDraw (seed : BitVec 128) (k t v d : Nat) : Nat :=
  let z0 : BitVec 64 := (BitVec.ofNat 64 t <<< 16 ||| BitVec.ofNat 64 d) ^^^ seed.extractLsb' 0 64
  let ka : Word := seed.extractLsb' 64 32 ^^^ BitVec.ofNat 32 v
  let kb : Word := seed.extractLsb' 96 32 ^^^ BitVec.ofNat 32 k
  (((List.range 6).foldl (gRound ka kb) z0).extractLsb' 32 32).toNat

/-- The inverse temperature, Q8.24, of an effective temperature (R88). -/
def betaOf (teff : Nat) : Nat := if teff = 0 then 0xFFFFFFFF else min 0xFFFFFFFF (rheNat (2 ^ 40) teff)

/-- The temperatures of a schedule table, from its bytes (R89, R90, R91): number of segments. -/
def schedSegments (t : Bytes) : Nat := min 64 (field t 0 2)

/-- seg_value of R90: the base temperature of segment `i` at its sweep `j`. -/
def segValue (t : Bytes) (i j : Nat) : Nat :=
  let o := 96 + 16 * i
  let start := field t (o + 8) 4
  let last := field t (o + 12) 4
  if fieldBits t (o + 4) 4 0 2 = 1 then
    (Nat.repeat (fun (x : Nat) => min 0xFFFFFFFF (rheNat (x * last) (2 ^ 30))) j start)
  else
    ((start : Int) + rheInt (((last : Int) - (start : Int)) * (j : Int)) (max 1 (field t o 4 - 1))).toNat % 2 ^ 32

/-- The walk of R90 over the segments: `fuel` segments left from segment `i`, which begins at sweep `first`. -/
def baseWalk (t : Bytes) (sweep : Nat) : Nat → Nat → Nat → Nat → Nat
  | 0, _, _, held => held
  | fuel + 1, i, first, held =>
    let n := field t (96 + 16 * i) 4
    if n = 0 then baseWalk t sweep fuel (i + 1) first held
    else if sweep < first + n then segValue t i (sweep - first)
    else baseWalk t sweep fuel (i + 1) (first + n) (segValue t i (n - 1))

/-- T_base(t) of R90. -/
def baseTemp (t : Bytes) (sweep : Nat) : Nat := baseWalk t sweep (schedSegments t) 0 0 0

/-- T_slot(q, t) of R91. -/
def slotTemp (t : Bytes) (q sweep : Nat) : Nat :=
  min 0xFFFFFFFF (rheNat (baseTemp t sweep * field t (32 + 4 * q) 4) (2 ^ 24))

/-- beta_of(k, t) of R88 for a replica in slot `q` with wanderlust offset `wl`. -/
def replicaBeta (t : Bytes) (q sweep wl : Nat) : Nat :=
  betaOf (min 0xFFFFFFFF (slotTemp t q sweep + wl))

end Sys2Proof.Machine
end

