-- ==== Sys2Proof/Machine/Memory.lean ====
section
/-!
DEFINITION. The named operations over memory: sparse bytes in one canonical form, sectors that read uncorrectable
(R306), host memory through the DMA windows (R271 to R275), the error counters (R323) and the error log (R413).
-/
namespace Sys2Proof.Machine

/-! ## Sparse bytes -/

/-- The byte at an address: 0 where nothing is listed (log entry 2). -/
def cellRead : List Host.Cell → Nat → Byte
  | [], _ => 0
  | c :: cs, a => if c.1 = a then c.2 else cellRead cs a

/-- A listed byte put in its place. -/
def cellInsert : List Host.Cell → Nat → Byte → List Host.Cell
  | [], a, b => [(a, b)]
  | c :: cs, a, b => if a < c.1 then (a, b) :: c :: cs else c :: cellInsert cs a b

/-- One byte written: no other entry of its address stays, and a written 0 leaves none. -/
def cellWrite (l : List Host.Cell) (a : Nat) (b : Byte) : List Host.Cell :=
  let rest := l.filter fun c => c.1 != a
  if b = 0 then rest else cellInsert rest a b

/-- A run of bytes read. -/
def cellReads (l : List Host.Cell) (a n : Nat) : Bytes := (List.range n).map fun i => cellRead l (a + i)

/-- A run of bytes written. -/
def cellWrites (l : List Host.Cell) (a : Nat) : Bytes → List Host.Cell
  | [] => l
  | b :: bs => cellWrites (cellWrite l a b) (a + 1) bs

/-- A run of bytes written but for those of the sectors in `keep`. -/
def cellWritesBut (keep : List Nat) (l : List Host.Cell) (a : Nat) : Bytes → List Host.Cell
  | [] => l
  | b :: bs => cellWritesBut keep (if keep.contains (a / 32) then l else cellWrite l a b) (a + 1) bs

/-- The canonical form: strictly rising addresses, no entry equal to what an unlisted address reads as. -/
abbrev CellsWf (l : List Host.Cell) : Prop := l.Pairwise (fun a b => a.1 < b.1) ∧ ∀ c ∈ l, c.2 ≠ 0

/-- The canonical form of device memory. -/
abbrev Memory.wf (m : Memory) : Prop := CellsWf m.cells

/-! ## The error log and the counters -/

/-- The RTC count since reset (R198, Table 0.5). -/
def rtcOf (d : Desk) : Nat := d.now * 32768 / 1000000000

/-- One entry of the error log (R413, Table 15.8). -/
def logFault (d : Desk) (cls die : Nat) (ltile sq : Option Nat) (action detail : Nat) : Desk :=
  { d with errs := { d.errs with
      log := d.errs.log.put d.errs.logHead ⟨cls, die, ltile, sq, action, rtcOf d, detail⟩
      logHead := d.errs.logHead + 1
      logCount := satAdd 16 d.errs.logCount 1 } }

/-- A row falls due for repair, once. -/
def markDue (m : Memory) (h : Fin 12) (row : Nat) : Memory :=
  if m.dueRows.contains (h, row) then m else { m with dueRows := m.dueRows ++ [(h, row)] }

/-- The first read of an uncorrectable sector, by whatever reader, makes its row of HBM3E due for repair (R307). A later read of the
same sector does not, so that a repaired row stays repaired. -/
def findUe (m : Memory) (a : Nat) : Memory :=
  if m.ueFound.contains (a / 32) then m
  else
    let m1 := { m with ueFound := m.ueFound ++ [a / 32] }
    match unitOf a with
    | some (.hbm h) => markDue m1 h (Config.dramRow (a / 32))
    | _ => m1

/-- An uncorrectable sector read advances its counter and LAST_UE (Table 13.6), and may make its row due (R307). -/
def countUe (m : Memory) (a : Nat) : Memory :=
  let m1 := findUe m a
  match unitOf a with
  | some (.hbm h) =>
    { m1 with hbm := m1.hbm.upd h fun c => { c with ue := satAdd 32 c.ue 1, lastUe := BitVec.ofNat 32 (a / 4096) } }
  | some (.lp l) =>
    { m1 with lp := m1.lp.upd l fun c => { c with ue := satAdd 32 c.ue 1, lastUe := BitVec.ofNat 32 (a / 4096) } }
  | none => m1

/-- An uncorrectable read at device address `a`, with the action the module takes (R346, R413). -/
def noteUe (d : Desk) (a : Nat) (sq : Option Nat) (action : Nat) : Desk :=
  logFault { d with mem := countUe d.mem a } (ueClass a) (dieOf a) none sq action (a / 4096)

/-! ## Device memory -/

/-- The lowest uncorrectable sector that a byte range touches (R306). -/
def badSector (m : Memory) (a n : Nat) : Option Nat := (m.ue.filter fun s => meets a n (32 * s) (32 * s + 32)).min?

/-- The uncorrectable sectors that a write covers in part (R306). -/
def narrowHits (m : Memory) (a n : Nat) : List Nat :=
  m.ue.filter fun s => meets a n (32 * s) (32 * s + 32) && !(decide (a ≤ 32 * s) && decide (32 * s + 32 ≤ a + n))

/-- A write to device memory: whole sectors become sound, uncorrectable sectors written in part stay as they are
(R306). -/
def memStore (m : Memory) (a : Nat) (bs : Bytes) : Memory :=
  let keep := narrowHits m a bs.length
  let part (s : Nat) : Bool := !(decide (a ≤ 32 * s) && decide (32 * s + 32 ≤ a + bs.length))
  { m with
    cells := if keep.isEmpty then cellWrites m.cells a bs else cellWritesBut keep m.cells a bs
    ue := m.ue.filter part
    ueFound := m.ueFound.filter part }

/-- A byte of the on-chip tables (R312): table A below 0x4000, table H above. -/
def tableByte (off : Nat) : Byte :=
  let v := if off < 0x4000 then tableA (off / 4) else tableH ((off - 0x4000) / 4)
  BitVec.ofNat 8 (v / 256 ^ (off % 4))

/-! ## Host memory -/

/-- Whether a departure of the port's partner has been detected and is not complete (R279). -/
def Port.leaves (p : Port) : Bool := p.events.any fun x => match x with
  | .departure _ => true
  | .arrival _ => false

/-- Whether the router issues requests to a partner (R279 step 1). -/
def Port.open_ (p : Port) : Bool := !p.leaves && (p.guest.state == .bound || p.guest.state == .arriving)

/-- Whether the module may access the partner at all (R266, R279 step 1). -/
def hostOpen (p : Port) : Bool := p.busMaster && !p.d3hot && p.open_

/-- Bytes of a size field of the PCI Express capability: 128 shifted left by its value (R266, log entry 10). -/
def sizeCode (v : BitVec 3) : Nat := 128 * 2 ^ v.toNat

/-- Most bytes of a write request, and of a read request (R266). -/
def Port.writeMax (p : Port) : Nat := min 256 (sizeCode p.payload)
def Port.readMax (p : Port) : Nat := min 512 (sizeCode p.readSize)

/-- Size of a DMA window in bytes (Table 11.6). -/
def DmaWindow.size (w : DmaWindow) : Nat := (w.pagesM1.toNat + 1) * 4096

/-- Whether a window grants an access: EN and the permission it needs (R273). -/
def DmaWindow.grants (w : DmaWindow) (write : Bool) : Bool := w.en && (if write then w.wr else w.rd)

/-- The host address of a request made by host-window address, if the check of R273 passes. -/
def windowTarget (p : Port) (write : Bool) (a n : Nat) : Option Nat :=
  let o := (a - hostBase) % hostSlice
  let w := p.dw.at (fin 64 (o / 0x80000000))
  let off := o % 0x80000000
  if hostOpen p && w.grants write && off + n ≤ w.size then some (w.base.toNat + off) else none

/-- Whether one byte of host memory lies in some window with the permission needed (R273). -/
def byteInWindow (p : Port) (write : Bool) (h : Nat) : Bool :=
  p.dw.toList.any fun w => w.grants write && decide (w.base.toNat ≤ h) && decide (h < w.base.toNat + w.size)

/-- Whether a transfer by host address passes: every byte lies in some window (R273). -/
def transferOk (p : Port) (write : Bool) (h n : Nat) : Bool :=
  hostOpen p && (List.range n).all fun i => byteInWindow p write (h + i)

/-- A window fault: the count advances, and the first fault is recorded (R275). -/
def windowFault (p : Port) (addr : Nat) (write : Bool) (source : BitVec 2) (sq : BitVec 6) (hwa : Bool) : Port :=
  { p with
    faultCount := satAdd 32 p.faultCount 1
    fault := if p.fault.valid then p.fault else ⟨BitVec.ofNat 64 addr, true, write, source, sq, hwa⟩ }

/-! ## Accesses of a command -/

/-- A stop is asked for, unless a terminal one has been (R415). -/
def askStop (now : Nat) (k : Stop) (c : Cmd) : Cmd :=
  match c.stop with
  | none => { c with stop := some k, stopAt := now }
  | some .slice => { c with stop := some k, stopAt := now }
  | some .replay => { c with stop := some k, stopAt := now }
  | some _ => c

/-- Whether a terminal stop has been taken for a command (R415). -/
def terminal (k : Option Stop) : Bool :=
  match k with
  | none => false
  | some .slice => false
  | some .replay => false
  | some _ => true

/-- What an access leaves: the desk, the bytes read or written, and the terminal stop it asks for, if any. -/
structure Access where
  desk : Desk
  bytes : Bytes
  fail : Option Stop
deriving DecidableEq, Repr

/-- The stop that a refused or failed host access asks for: a departing port's commands end PARTNER_GONE (R279). -/
def hostFail (p : Port) : Stop := if p.open_ then .windowFault else .departure

/-- Requests of at most `k` bytes of a transfer of `n` bytes: (offset, length), in order (R266). -/
def requests (k n : Nat) : List (Nat × Nat) :=
  (List.range (ceilDiv n k)).map fun i => (i * k, min k (n - i * k))

/-- One read request through a host-window address. -/
def hostRead1 (sq : Fin 64) (a : Nat) (acc : Access) (r : Nat × Nat) : Access :=
  match acc.fail with
  | some _ => acc
  | none =>
    let port := queuePort sq
    let p := acc.desk.ports.at port
    match windowTarget p false (a + r.1) r.2 with
    | some h => { acc with bytes := acc.bytes ++ cellReads p.host h r.2 }
    | none =>
      let f := hostFail p
      let p' := if f == .windowFault then windowFault p (a + r.1) false 0 (BitVec.ofNat 6 sq.val) true else p
      { acc with desk := { acc.desk with ports := acc.desk.ports.put port p' }, fail := some f }

/-- One write request through a host-window address. -/
def hostWrite1 (sq : Fin 64) (a : Nat) (bs : Bytes) (acc : Access) (r : Nat × Nat) : Access :=
  match acc.fail with
  | some _ => acc
  | none =>
    let port := queuePort sq
    let p := acc.desk.ports.at port
    match windowTarget p true (a + r.1) r.2 with
    | some h =>
      let p' := { p with host := cellWrites p.host h ((bs.drop r.1).take r.2) }
      { acc with desk := { acc.desk with ports := acc.desk.ports.put port p' }, bytes := acc.bytes ++ (bs.drop r.1).take r.2 }
    | none =>
      let f := hostFail p
      let p' := if f == .windowFault then windowFault p (a + r.1) true 0 (BitVec.ofNat 6 sq.val) true else p
      { acc with desk := { acc.desk with ports := acc.desk.ports.put port p' }, fail := some f }

/-- Bytes of another module that have arrived for a command (R298). -/
def cachedBytes (c : List Host.Cell) (a n : Nat) : Bytes := cellReads c a n

/-- A read by the command of SQ `sq` of a mapped range, by fabric address. `cache` holds what has arrived from other
modules. -/
def readRange (e : Env) (d : Desk) (sq : Fin 64) (cache : List Host.Cell) (addr n : Nat) : Access :=
  let a := addrDevice addr
  if !addrOwn e addr then ⟨d, cachedBytes cache addr n, none⟩
  else if hostBase ≤ a then (requests (d.ports.at (queuePort sq)).readMax n).foldl (hostRead1 sq a) ⟨d, [], none⟩
  else if tableBase ≤ a then ⟨d, (List.range n).map fun i => tableByte (a + i - tableBase), none⟩
  else match badSector d.mem a n with
    | some s => ⟨noteUe d (32 * s) (some sq.val) 5, cellReads d.mem.cells a n, some .dataLost⟩
    | none => ⟨d, cellReads d.mem.cells a n, none⟩

/-- Bytes of a command's write that stand before the first sector it cannot write (R306, R349). -/
def soundPrefix (m : Memory) (a n : Nat) : Nat :=
  match (narrowHits m a n).min? with
  | some s => 32 * s - a
  | none => n

/-- A write by the command of SQ `sq` of a mapped range of the module or its partner. A sector that cannot be written
stops it: the bytes before it are in place (R349, DEDUCED, log entry 34). -/
def writeRange (e : Env) (d : Desk) (sq : Fin 64) (addr : Nat) (bs : Bytes) : Access :=
  let a := addrDevice addr
  if !addrOwn e addr then ⟨d, bs, none⟩
  else if hostBase ≤ a then (requests (d.ports.at (queuePort sq)).writeMax bs.length).foldl (hostWrite1 sq a bs) ⟨d, [], none⟩
  else
    let put := bs.take (soundPrefix d.mem a bs.length)
    let d1 := { d with mem := memStore d.mem a put }
    match (narrowHits d.mem a bs.length).min? with
    | none => ⟨d1, put, none⟩
    | some s => ⟨noteUe d1 (32 * s) (some sq.val) 5, put, some .dataLost⟩

/-- The messages that write bytes to another module: pieces of at most 4,096 bytes (Table 12.7). -/
def writeMsgs (e : Env) (cls tag addr : Nat) (bs : Bytes) : List (Remote × Msg) :=
  ((requests 4096 bs.length).zip (List.range (ceilDiv bs.length 4096))).map fun q =>
    let r := q.1
    (⟨tag + q.2, BitVec.ofNat 6 (addrModule addr), addr + r.1, r.2, true⟩,
     ⟨cls, 2, e.elec.moduleId, BitVec.ofNat 6 (addrModule addr), false, BitVec.ofNat 32 (tag + q.2),
      leBytes 8 (addr + r.1) ++ (bs.drop r.1).take r.2, 0⟩)

/-- The messages that read bytes of another module. -/
def readMsgs (e : Env) (cls tag addr n : Nat) : List (Remote × Msg) :=
  ((requests 4096 n).zip (List.range (ceilDiv n 4096))).map fun q =>
    let r := q.1
    (⟨tag + q.2, BitVec.ofNat 6 (addrModule addr), addr + r.1, r.2, false⟩,
     ⟨cls, 0, e.elec.moduleId, BitVec.ofNat 6 (addrModule addr), false, BitVec.ofNat 32 (tag + q.2),
      leBytes 8 (addr + r.1) ++ leBytes 4 r.2, 0⟩)

/-- What a command's writes leave: the desk, the command, the bytes that stand, and whether every write was whole. -/
structure Put where
  desk : Desk
  cmd : Cmd
  landed : Bytes
  ok : Bool
deriving DecidableEq, Repr

/-- A write by a running command wherever the address lies: remote pieces become outstanding writes (R299). A failure is a
terminal stop (R415). -/
def cmdPut (e : Env) (d : Desk) (sq : Fin 64) (c : Cmd) (cls addr : Nat) (bs : Bytes) : Put :=
  if bs.isEmpty then ⟨d, c, [], true⟩
  else if addrOwn e addr then
    let acc := writeRange e d sq addr bs
    match acc.fail with
    | none => ⟨acc.desk, c, bs, true⟩
    | some f => ⟨acc.desk, { askStop d.now f c with fault := c.fault || f == .dataLost }, acc.bytes, false⟩
  else
    let ms := writeMsgs e cls d.nextTag addr bs
    ⟨{ d with tx := d.tx ++ ms.map (·.2), nextTag := d.nextTag + ms.length },
      { c with remote := c.remote ++ ms.map (·.1) }, bs, true⟩

/-- Writes of a command in order, up to the first that fails: a command issues no further request after one (R275, R349). -/
def cmdPuts (e : Env) (d : Desk) (n : Fin 64) (c : Cmd) (cls : Nat) (ws : List (Nat × Bytes)) : Put :=
  ws.foldl (fun (x : Put) w =>
    if !x.ok then x
    else
      let y := cmdPut e x.desk n x.cmd cls w.1 w.2
      { y with landed := x.landed ++ y.landed }) ⟨d, c, [], true⟩

/-- The desk and the command after one write. -/
def cmdWrite (e : Env) (d : Desk) (sq : Fin 64) (c : Cmd) (cls addr : Nat) (bs : Bytes) : Desk × Cmd :=
  ((cmdPut e d sq c cls addr bs).desk, (cmdPut e d sq c cls addr bs).cmd)

/-- The desk and the command after a list of writes. -/
def cmdWrites (e : Env) (d : Desk) (n : Fin 64) (c : Cmd) (cls : Nat) (ws : List (Nat × Bytes)) : Desk × Cmd :=
  ((cmdPuts e d n c cls ws).desk, (cmdPuts e d n c cls ws).cmd)

/-- A free value of a run, and the desk that has taken it (log entry 7). -/
def takeFree (d : Desk) : Nat × Desk := ((Config.freeValue d.freeCtr).toNat, { d with freeCtr := d.freeCtr + 1 })

/-- A free one of several values. -/
def pickFree (d : Desk) (l : List Nat) : Nat × Desk := (l.getD ((takeFree d).1 % l.length) 0, (takeFree d).2)

end Sys2Proof.Machine
end

