-- ==== Sys2Proof/Machine/Ledger.lean ====
section
/-!
DEFINITION. The Ledger (R198 to R202): its records, written in SEQ order into the ring in Front Desk SRAM.
-/
namespace Sys2Proof.Machine

/-- A Ledger record of 128 bytes (Tables 8.9 to 8.11). -/
def ledgerRecord (d : Desk) (type slot sq status qtag pseq : Nat) (body : Bytes) : Bytes :=
  leBytes 8 d.ledger.head ++ leBytes 1 type ++ leBytes 1 slot ++ leBytes 1 sq ++ leBytes 1 status ++
  leBytes 4 qtag ++ leBytes 4 pseq ++ leBytes 4 d.gctl.epoch.toNat ++ slice body 0 96 ++ leBytes 8 (rtcOf d)

/-- A record enters the ring. A record that it overwrites and that was never mirrored is lost (R202). -/
def ledgerPut (l : Ledger) (r : Bytes) : Ledger :=
  let gone := l.enable && decide (l.mirrored + 256 ≤ l.head)
  { l with
    ring := l.ring.put (fin 256 l.head) r
    head := l.head + 1
    mirrored := if gone then l.mirrored + 1 else l.mirrored
    lost := l.lost || gone
    lostCount := if gone then satAdd 32 l.lostCount 1 else l.lostCount }

/-- One record is written (R198). -/
def ledgerWrite (d : Desk) (type slot sq status qtag pseq : Nat) (body : Bytes) : Desk :=
  { d with ledger := ledgerPut d.ledger (ledgerRecord d type slot sq status qtag pseq body) }

/-- An EVENT record (Table 8.11): its code, the word at bytes 28–31, the step counter and the GCTL.MODE value. -/
def eventRecord (d : Desk) (slot sq qtag pseq : Nat) (code word step mode : Nat) : Desk :=
  ledgerWrite d 5 slot sq 0 qtag pseq
    (leBytes 2 code ++ leBytes 2 0 ++ leBytes 4 word ++ leBytes 8 step ++ leBytes 4 mode)

/-- The step counter of R102. After the last phase of sweep 2^48 − 1 the field would read 2^48, which it cannot hold: it reads 0
here (DESIGN CHOICE, log entry 69). -/
def stepCounter (sweep phase : Nat) : Nat := sweep % 2 ^ 48 + phase % 1024 * 2 ^ 48

/-- The step counter of an annealing state. -/
def annStep (a : Ann) : Nat := stepCounter a.sweep a.phase

end Sys2Proof.Machine
end

