-- ==== Sys2Proof/Machine/Complete.lean ====
section
/-!
DEFINITION. The commit point of a command (R232): its fence (R217), the head of its ring (R206), its entry and report
(R208, R216), its Ledger record (R199, R200), and the ABORTs that waited for it.
-/
namespace Sys2Proof.Machine

/-! ## Status codes (Table 9.20) -/

def stOk : Nat := 0x00
def stPlateau : Nat := 0x01
def stAborted : Nat := 0x02
def stExpired : Nat := 0x03
def stHung : Nat := 0x04
def stDeadlock : Nat := 0x05
def stGeometry : Nat := 0x06
def stDataLost : Nat := 0x07
def stBad : Nat := 0x08
def stWindow : Nat := 0x09
def stGone : Nat := 0x0A
def stTiming : Nat := 0x0B
def stRng : Nat := 0x0C
def stUnsupported : Nat := 0x0D
def stStrict : Nat := 0x0E
def stReplay : Nat := 0x0F
def stDone : Nat := 0x10

/-- Whether the signal of a status carries the ERROR flag (R217). -/
def statusErr (s : Nat) : Bool := !(s == stOk || s == stPlateau || s == stDone)

/-! ## Interrupts -/

/-- Whether a message for a vector may go out: MSI-X enabled, neither the function nor the vector masked, and the function a bus
master in D0 (R262, R265, R266). -/
def msixGoes (p : Port) (v : Fin 64) : Bool :=
  p.msixEnable && !p.msixMask && !(p.msix.at v).mask && p.busMaster && !p.d3hot

/-- An MSI-X message is sent, or left pending while it may not go out (R265). None is made for a partner that has left or leaves
(R279 step 1). -/
def raiseMsix (d : Desk) (p : Fin 4) (v : Nat) : Desk :=
  let port := d.ports.at p
  if !port.open_ then d
  else if msixGoes port (fin 64 v) then { d with out := d.out ++ [.msix p (v % 64)] }
  else
    let port' := { port with pba := port.pba.put (fin 64 v) true }
    { d with ports := d.ports.put p port' }

/-! ## Fences (R215, R217, R228) -/

/-- A fence is raised to a value; it never falls and holds at its largest value. -/
def fenceTo (f : Fence) (v : Nat) : Fence := { f with value := BitVec.ofNat 64 (max f.value.toNat (min v (2 ^ 64 - 1))) }

/-- A fence is raised by 1, with or without the ERROR flag. -/
def fenceSignal (d : Desk) (f : Nat) (err : Bool) : Desk :=
  { d with fences := d.fences.upd (fin 256 f) fun x =>
      let y := fenceTo x (x.value.toNat + 1)
      { y with err := y.err || err } }

/-! ## Completion queues (R207, R208) -/

/-- Length of a ring. -/
def Cq.len (c : Cq) : Nat := 2 ^ c.log2.toNat
def Sq.len (q : Sq) : Nat := 2 ^ q.log2.toNat

/-- Whether a completion ring is full. -/
def cqFull (c : Cq) : Bool := (c.tail.toNat + 1) % c.len == c.head.toNat

/-- The entry with the PHASE bit and the REPORT bit of byte 3. -/
def entryMarked (entry : Bytes) (phase report : Bool) : Bytes :=
  let b := (entry.getD 3 0)
  entry.set 3 (b ||| (if phase then 1 else 0) ||| (if report then 4 else 0))

/-- One host write by host address: the bytes land, or the window fault is recorded (R273, R275). -/
def hostStore (p : Port) (h : Nat) (bs : Bytes) (source : BitVec 2) : Port × Bool :=
  if transferOk p true h bs.length then ({ p with host := cellWrites p.host h bs }, true)
  else (windowFault p h true source 0 false, false)

/-- The report, if the queue takes reports, then the entry at the tail of its ring, then the MSI-X message; or the
window fault of R208. -/
def cqWrite (d : Desk) (n : Fin 64) (entry : Bytes) (report : Option Bytes) : Desk :=
  let c := d.cqs.at n
  let pn := queuePort n
  let i := c.tail.toNat
  let rep := if c.report then report else none
  let r1 : Port × Bool := match rep with
    | some r => hostStore (d.ports.at pn) (c.rpt.toNat + 128 * i) r 1
    | none => (d.ports.at pn, true)
  let r2 : Port × Bool :=
    if r1.2 then hostStore r1.1 (c.base.toNat + 64 * i) (entryMarked entry c.phase rep.isSome) 1 else r1
  let d1 := { d with ports := d.ports.put pn r2.1 }
  if r2.2 then
    let t := (i + 1) % c.len
    let c' := { c with tail := BitVec.ofNat 12 t, phase := if t = 0 then !c.phase else c.phase }
    let d2 := { d1 with cqs := d1.cqs.put n c' }
    if c.irq then raiseMsix d2 pn c.vector.toNat else d2
  else
    let c' := { c with enable := false, windowGone := true, waiting := [] }
    { d1 with cqs := d1.cqs.put n c' }

/-- An entry is written, waits for room, or is discarded (R207, R208). -/
def cqPost (d : Desk) (n : Fin 64) (entry : Bytes) (report : Option Bytes) : Desk :=
  let c := d.cqs.at n
  if !c.enable || !(d.ports.at (queuePort n)).open_ then d
  else if cqFull c || !c.waiting.isEmpty then
    let c' := { c with waiting := c.waiting ++ [⟨entry, report⟩] }
    { d with cqs := d.cqs.put n c' }
  else cqWrite d n entry report

/-- The entries that wait are written while there is room (R208); `fuel` bounds their number. -/
def cqDrain : Nat → Desk → Fin 64 → Desk
  | 0, d, _ => d
  | fuel + 1, d, n =>
    let c := d.cqs.at n
    match c.waiting with
    | [] => d
    | w :: ws =>
      if !c.enable || cqFull c || !(d.ports.at (queuePort n)).open_ then d
      else
        let c' := { c with waiting := ws }
        cqDrain fuel (cqWrite { d with cqs := d.cqs.put n c' } n w.entry w.report) n

/-! ## Submission queues -/

/-- The head advances past an index and past the indices committed ahead of it (R206, R231). -/
def passEarly : Nat → Sq → Sq
  | 0, q => q
  | fuel + 1, q =>
    if q.early.contains q.head then
      passEarly fuel { q with
        early := q.early.erase q.head
        head := BitVec.ofNat 12 ((q.head.toNat + 1) % q.len) }
    else q

/-- The packet at a ring index has committed: the head passes it, or the index is kept until the head comes to it. -/
def passIndex (q : Sq) (i : BitVec 12) : Sq :=
  let q1 := { q with visible := q.visible.filter fun v => v.1 != i }
  passEarly (q1.early.length + 1) { q1 with early := q1.early ++ [i] }

/-- The number of uncompleted packets in a ring, launches counting once. -/
def uncompleted (q : Sq) : Nat := (q.tail.toNat + q.len - q.head.toNat) % q.len - q.early.length

/-- The ring indices of the uncompleted packets, oldest first. -/
def openIndices (q : Sq) : List (BitVec 12) :=
  ((List.range ((q.tail.toNat + q.len - q.head.toNat) % q.len)).map fun k =>
    BitVec.ofNat 12 ((q.head.toNat + k) % q.len)).filter fun i => !q.early.contains i

/-- The packet in the ring slot of an index, as it stands in SQ ring memory (R204). -/
def ringPacket (d : Desk) (q : Sq) (i : BitVec 12) : Bytes := cellReads d.ring (q.base.toNat + 128 * i.toNat) 128

/-- When a ring index became visible to dispatch. -/
def visibleAt (q : Sq) (i : BitVec 12) (now : Nat) : Nat := ((q.visible.find? (fun v => v.1 == i)).map (·.2)).getD now

/-! ## Entries -/

/-- The completion entry of Table 9.17, with PHASE and REPORT still 0. -/
def entryBytes (d : Desk) (n : Fin 64) (c : Cmd) : Bytes :=
  let sat (v : Nat) : Nat := min v 0xFFFFFFFF
  let flags := (if c.accLong then 2 else 0) + (if c.depError then 8 else 0) +
    (if pktSignal c.pkt && statusErr c.status then 16 else 0) + (if c.stopWp then 32 else 0)
  let started := c.began
  leBytes 1 c.status ++ leBytes 1 c.stopReason ++ leBytes 1 c.limit ++ leBytes 1 flags ++ leBytes 1 n.val ++
  leBytes 1 0 ++ leBytes 2 (d.sqs.at n).head.toNat ++ leBytes 2 (pktQtag c.pkt) ++
  leBytes 2 (match c.launch with | some i => i.val + 1 | none => 0) ++ leBytes 4 (pktPseq c.pkt) ++
  leBytes 8 c.digest.toNat ++ leBytes 4 (sat ((c.dispatchedAt - c.visibleAt) / 1000)) ++
  leBytes 4 (sat ((if started then c.startedAt else d.now) - c.dispatchedAt)) ++
  leBytes 4 (if started then sat ((d.now - c.startedAt) / 1000) else 0) ++ slice c.result 0 28

/-- The body of a RUN record (Table 8.10). -/
def runBody (d : Desk) (c : Cmd) : Bytes :=
  let s := d.slots.at (pktSlot c.pkt)
  let resume := pktOp c.pkt == some .resume
  let a := s.ann
  let committed := s.state == .committed
  -- body bytes 16–103 of the original packet: of the packet itself, or PARAMS of a RESUME's source
  let p := if resume && c.began then List.replicate 16 0 ++ a.params else c.pkt
  let modes := field p 17 1
  -- of a command that did not run, the packet's own flag alone
  let flags := (if c.began then b2n c.strict + 2 * b2n c.fixed else b2n (pktStrict c.pkt)) + 4 * b2n (pktReplay c.pkt) +
    (if resume && !c.began then 0 else 8 * b2n (bit modes 3) + 16 * bits modes 1 2 + 64 * b2n (bit modes 0))
  let base := if resume then 0 else stepCounter (field p 24 6) 0
  if c.began then
    leBytes 16 a.seed.toNat ++ leBytes 8 s.stepStart ++ leBytes 8 (annStep a) ++ leBytes 2 s.t ++ leBytes 1 s.m ++
    leBytes 1 s.rank ++ leBytes 1 flags ++ leBytes 1 c.stopReason ++ leBytes 2 a.ckpt ++ leBytes 8 s.digest.toNat ++
    leBytes 8 a.schedDigest.toNat ++ leBytes 8 a.wpChain.toNat ++ leBytes 8 c.digest.toNat ++ slice c.sig 0 16 ++
    leBytes 4 a.wpCount ++ leBytes 4 s.gen
  else
    leBytes 16 (if resume then 0 else field p 32 16) ++ leBytes 8 base ++ leBytes 8 base ++
    leBytes 2 (if committed then s.t else 0) ++ leBytes 1 (if committed then s.m else 0) ++
    leBytes 1 (if committed then s.rank else 0) ++ leBytes 1 flags ++ leBytes 1 0 ++ leBytes 2 c.ckpt ++
    leBytes 8 (if committed then s.digest.toNat else 0) ++ List.replicate 24 0 ++ slice c.sig 0 16 ++ leBytes 4 0 ++
    leBytes 4 (if committed then s.gen else 0)

/-- The body of a COMMIT record (Table 8.11). -/
def commitBody (d : Desk) (c : Cmd) : Bytes :=
  let p := c.pkt
  let out := pktOp p == some .coupleOut
  leBytes 8 c.digest.toNat ++ leBytes 4 (d.slots.at (pktSlot p)).gen ++ leBytes 4 (field p 24 4) ++
  leBytes 2 (field p 20 2) ++ leBytes 1 (field p 18 1) ++ leBytes 1 (field p 19 1) ++
  leBytes 1 (if out then fieldBits p 17 1 4 1 else fieldBits p 17 1 0 1) ++ leBytes 3 0 ++
  leBytes 4 (if out then field p 28 4 else field p 96 4)

/-- The Ledger records that a completion makes (R199, R200): EVENT for TIMING_BROKEN, then RUN, COMMIT or MARK. -/
def commitRecords (d : Desk) (n : Fin 64) (c : Cmd) : Desk :=
  let slot := (pktSlot c.pkt).val
  let q := pktQtag c.pkt
  let ps := pktPseq c.pkt
  match pktOp c.pkt with
  | some o =>
    let d1 :=
      if c.status == stTiming then
        eventRecord d (if opNamesSlot o then slot else 0xFF) n.val q ps 4 0xFFFFFFFF
          (if opRun o && c.began then annStep (d.slots.at (pktSlot c.pkt)).ann else 0) 0
      else d
    if opRun o then ledgerWrite d1 1 slot n.val c.status q ps (runBody d c)
    else if o == .commitProblem || o == .coupleOut then ledgerWrite d1 3 slot n.val c.status q ps (commitBody d c)
    else if o == .ledgerMark && c.status == stOk then ledgerWrite d1 4 0xFF n.val c.status q ps (slice c.pkt 16 96)
    else d1
  | none => d

/-! ## Commit points -/

/-- A command's commit point: final status recorded, fence signalled, head advanced, entry and report written, Ledger
record made (R217, R206, R208, R199, R200). -/
def commitCore (d : Desk) (n : Fin 64) (c : Cmd) : Desk :=
  let d1 := if pktSignal c.pkt then fenceSignal d (pktSignalFence c.pkt) (statusErr c.status) else d
  let d2 :=
    if c.launch.isNone then { d1 with sqs := d1.sqs.upd n fun q => passIndex q c.index } else d1
  let lost := satAdd 32 d2.errs.dataLost 1
  let d3 := if c.status == stDataLost then { d2 with errs := { d2.errs with dataLost := lost } } else d2
  let d4 := cqPost d3 (fin 64 (d.sqs.at n).cq.toNat) (entryBytes d2 n c) c.report
  commitRecords d4 n c

/-- An ABORT learns that the command at a ring index of a queue has committed (R231, R232). -/
def noteCommit (n : Fin 64) (c : Cmd) (w : AbortWait) : AbortWait :=
  if w.target = n && c.launch.isNone && w.left.contains c.index then
    { w with
      left := w.left.erase c.index
      cmd := if c.index == w.oldest then { w.cmd with result := spliceBytes w.cmd.result 8 [BitVec.ofNat 8 c.status] }
             else w.cmd }
  else w

/-- The ABORTs that wait for nothing any more complete, oldest first; each may be what another waits for (R231). -/
def commitAborts : Nat → Desk → Desk
  | 0, d => d
  | k + 1, d => match d.aborts.find? fun w => w.left.isEmpty with
    | none => d
    | some w =>
      let d1 := commitCore { d with aborts := d.aborts.erase w } w.sq w.cmd
      commitAborts k { d1 with aborts := d1.aborts.map (noteCommit w.sq w.cmd) }

/-- The commit point of a command, and those of the ABORTs that waited for it alone. -/
def commitCmd (d : Desk) (n : Fin 64) (c : Cmd) : Desk :=
  let d1 := commitCore d n c
  commitAborts d1.aborts.length { d1 with aborts := d1.aborts.map (noteCommit n c) }

/-- A command that completes without running (R217). -/
def commitUnrun (d : Desk) (n : Fin 64) (c : Cmd) (status : Nat) : Desk :=
  commitCmd d n { c with status := status, stage := .ended }

/-- A fresh record of a packet decoded to run. An annealing command that counts no stall reports COMPUTE (R218). -/
def freshCmd (d : Desk) (q : Sq) (pkt : Bytes) (i : BitVec 12) (launch : Option (Fin 256)) (visible : Nat) : Cmd :=
  { pkt := pkt, index := i, launch := launch, stage := .dispatched, began := false, status := 0, stopReason := 0,
    stop := none, stopAt := 0, strict := pktStrict pkt, fixed := false, cls := 0, ckpt := 0,
    sig := List.replicate 16 0, depError := false, visibleAt := visible, dispatchedAt := d.now, startedAt := d.now,
    resumedAt := d.now, progressAt := d.now, tiles := q.allot, descs := [], sched := [], stats := [], done := 0, asked := 0,
    result := List.replicate 28 0, digest := 0, out := [], landed := [], kept := [], staging := [0, 0, 0, 0], accLong := false, stopWp := false, report := none,
    limit := (match pktOp pkt with | some o => b2n (opRun o) | none => 0), cycles := 0, resolverStall := 0, flipStall := 0, fault := false, remote := [], cache := [], itin := none, window := [] }

end Sys2Proof.Machine
end

