-- ==== Sys2Proof/Machine/Image.lean ====
section
/-!
DEFINITION. Problem images (Chapter 02): layouts, group resolution, the phase map, effective couplings and biases, and
the state that a commit leaves in the tiles (R58).
-/
namespace Sys2Proof.Machine

/-! ## Layouts -/

/-- Bytes of a block record by its FMT code (R43; 3 reads as C2). -/
def recordLen (fmt : Nat) : Nat := if fmt = 1 then 32784 else if fmt = 2 then 65552 else 16400

/-- Bytes of a block in CPS (R62). -/
def payloadLen (fmt : Nat) : Nat := recordLen fmt - 16

/-- Pass cycles c of a coupling format (R58). -/
def blockCycles (fmt : Nat) : Nat := if fmt = 1 then 2 else if fmt = 2 then 4 else 1

/-- The FMT code of the record at an address. -/
def recordFmt (cells : List Host.Cell) (a : Nat) : Nat :=
  let f := (cellRead cells (a + 8)).toNat % 4
  if f = 3 then 0 else f

/-- Addresses and lengths of `n` records from an address on, walked header by header (R43, R60). -/
def walkRecords (cells : List Host.Cell) : Nat → Nat → List (Nat × Nat)
  | 0, _ => []
  | n + 1, a => (a, recordLen (recordFmt cells a)) :: walkRecords cells n (a + recordLen (recordFmt cells a))

/-- The non-zero codes of one payload byte at offset `o` (Table 2.3). -/
def byteCodes (fmt o : Nat) (b : Byte) : List (Nat × Nat × Int) :=
  let v := b.toNat
  if fmt = 2 then [(o / 256, o % 256, signed 8 v)]
  else if fmt = 1 then
    ([0, 1].map fun j => (o / 128, 2 * (o % 128) + j, signed 4 (bits v (4 * j) 4))).filter fun e => e.2.2 != 0
  else
    ([0, 1, 2, 3].map fun j => (o / 64, 4 * (o % 64) + j, signed 2 (bits v (2 * j) 2))).filter fun e => e.2.2 != 0

/-- The block record at an address (R36, R43, R44). -/
def parseBlock (cells : List Host.Cell) (a : Nat) : Block :=
  let fmt := recordFmt cells a
  let here := cells.filter fun c => decide (a + 16 ≤ c.1) && decide (c.1 < a + recordLen fmt)
  { row := leNat (cellReads cells a 4) % 2 ^ 20
    col := leNat (cellReads cells (a + 4) 4) % 2 ^ 20
    fmt := fmt
    scale := (cellRead cells (a + 9)).toNat
    codes := here.flatMap fun c => byteCodes fmt (c.1 - a - 16) c.2
    addr := a
    off := 0 }

/-- Windows of `n` variables (R40). -/
def windowCount (n : Nat) : Nat := ceilDiv n 256

/-- Windows home to the module of a rank, ascending (R40, R118). -/
def homeWindows (n t m rank : Nat) : List Nat :=
  (List.range (windowCount n)).filter fun w => w % (t * m) / t == rank

/-- Most home windows on any job tile of the job: phases of the default map (R50). -/
def defaultPhases (n t m : Nat) : Nat := ceilDiv (windowCount n) (t * m)

/-- Bytes of the bias table (R46). -/
def biasLen (n t m : Nat) : Nat := (512 * windowCount n + t * m + 7) / 8 * 8

/-- Bytes of a phase entry (R49). -/
def phaseEntryLen (t m : Nat) : Nat := 8 * ceilDiv (t * m) 8

/-- Phases that a phase map's header names (Table 2.5). -/
def phaseCount (hdr : Bytes) : Nat := min 1024 (field hdr 0 4)

/-- The window a phase entry byte names for job tile `t` (R49, R50). -/
def phaseWindow (n tm t : Nat) (b : Byte) : Option Nat :=
  let w := b.toNat % 64 * tm + t
  if b.getLsbD 7 && decide (w < windowCount n) then some w else none

/-- The phase map a command uses: the recorded one, or the default map (R49, R50). -/
def phaseMap (n t m : Nat) (map : Option Bytes) : List (List (Option Nat)) :=
  let tm := t * m
  let dflt := (List.range (defaultPhases n t m)).map fun p =>
    (List.range tm).map fun k => if p * tm + k < windowCount n then some (p * tm + k) else none
  match map with
  | none => dflt
  | some bs =>
    if phaseCount bs = 0 then dflt
    else (List.range (phaseCount bs)).map fun p =>
      (List.range tm).map fun k => phaseWindow n tm k (bs.getD (16 + p * phaseEntryLen t m + k) 0)

/-- Positions of a window that are not padding (R40). -/
def windowMask (n w : Nat) : BitVec 256 :=
  BitVec.ofNat 256 (2 ^ (min 256 (n - 256 * w)) - 1)

/-- One group record against those already resolved (R48). -/
def resolveGroup (n : Nat) (done : List Group) (window : Nat) (members : BitVec 256) : List Group :=
  if windowCount n ≤ window then done
  else
    let taken := done.foldl (fun a g => if g.window = window then a ||| g.members else a) 0#256
    let left := members &&& windowMask n window &&& ~~~ taken
    if left = 0 then done else done ++ [⟨window, left⟩]

/-- The groups of a group table (R47, R48). -/
def resolveGroups (n count : Nat) (bs : Bytes) : List Group :=
  (List.range count).foldl (fun done i =>
    resolveGroup n done (fieldBits bs (40 * i) 4 0 20) (BitVec.ofNat 256 (field bs (40 * i + 8) 32))) []

/-- Positions set in a mask, ascending. -/
def positions (m : BitVec 256) : List Nat := (List.range 256).filter fun r => m.getLsbD r

/-! ## The image in the tiles -/

/-- Job tiles of the job. -/
def Image.tm (g : Image) : Nat := g.t * g.m

/-- The windows home to the module. -/
def Image.home (g : Image) : List Nat := homeWindows g.n g.t g.m g.rank

/-- Where a home window stands among the module's home windows. -/
def Image.pos (g : Image) (w : Nat) : Nat := g.home.idxOf w

/-- The job-relative tile of the module that is home to a window. -/
def Image.tileOf (g : Image) (w : Nat) : Nat := w % g.tm % g.t

/-- The sign of a stored coupling (R34, R35). -/
def Image.sign (g : Image) : Int := if g.qubo then -1 else 1

/-- The effective couplings of a block as (row variable, column variable, value), diagonal and padding dropped
(R35, R40, R45). -/
def Image.entries (g : Image) (b : Block) : List (Nat × Nat × Int) :=
  (b.codes.map fun e => (256 * b.row + e.1, 256 * b.col + e.2.1, g.sign * e.2.2 * (b.scale : Int))).filter
    fun e => e.1 != e.2.1 && decide (e.1 < g.n) && decide (e.2.1 < g.n)

/-- The effective coupling jv(i, j) of the image (R66). -/
def Image.jv (g : Image) (i j : Nat) : Int :=
  sumInt ((g.blocks.flatMap g.entries).filterMap fun e => if e.1 = i ∧ e.2.1 = j then some e.2.2 else none)

/-- Spin ±1 of a bit (R33). -/
def spin (b : Bool) : Int := if b then 1 else -1

/-- The spin of a variable in a list of windows of spins. -/
def spinAt (ws : List (BitVec 256)) (v : Nat) : Int := spin ((ws.getD (v / 256) 0).getLsbD (v % 256))

/-- The groups of a window. -/
def Image.groupsOf (g : Image) (w : Nat) : List Group := g.groups.filter fun x => x.window == w

/-- The repair of step 6 of R58: padding at +1, pinned members at +1, one member at +1 in each one-hot group. -/
def Image.repair (g : Image) (w : Nat) (x : BitVec 256) : BitVec 256 :=
  (g.groupsOf w).foldl (fun s q =>
    match positions q.members with
    | [] => s
    | r :: rest =>
      let up := (positions q.members).filter fun k => s.getLsbD k
      if rest.isEmpty || up.length != 1 then (s &&& ~~~ q.members) ||| (1#256 <<< r) else s)
    (x ||| ~~~ windowMask g.n w)

/-- The fields of the home variables of one replica, from all its spins (R41): h_i = Σ_j J_ij s_j, over the columns of the
module's own windows and of those windows of other ranks whose spins are known here (log entry 60). -/
def Image.fieldsOf (g : Image) (known : List Nat) (all : List (BitVec 256)) : List Int :=
  g.home.flatMap fun w =>
    let es := (g.blocks.filter fun b => b.row == w && (g.home.contains b.col || known.contains b.col)).flatMap g.entries
    (List.range 256).map fun r =>
      sumInt (es.filterMap fun e => if e.1 = 256 * w + r then some (e.2.2 * spinAt all e.2.1) else none)

/-- The energy of one replica by R42: stored values above the diagonal, effective biases and K. Of a job of several modules
it is this module's share: the pairs inside its own windows and its own biases (log entry 13). -/
def Image.energyOf (g : Image) (all : List (BitVec 256)) : Int :=
  let es := (g.blocks.filter fun b => g.home.contains b.col).flatMap g.entries
  let pair := sumInt (es.filterMap fun e =>
    if e.1 < e.2.1 then some (e.2.2 * spinAt all e.1 * spinAt all e.2.1) else none)
  let lin := sumInt ((List.range (256 * g.home.length)).map fun i =>
    let w := g.home.getD (i / 256) 0
    if 256 * w + i % 256 < g.n then geti g.bias i * spin ((all.getD w 0).getLsbD (i % 256)) else 0)
  g.k - pair - lin

/-- The job as one of its modules sees it: geometry, rank, domain, key, module map and commit digest. -/
def Image.view (g : Image) : Bytes :=
  leBytes 4 g.n ++ leBytes 2 g.t ++ leBytes 1 g.m ++ leBytes 1 g.rank ++ leBytes 1 (b2n g.qubo) ++ leBytes 4 g.jobKey ++
  g.modMap.flatMap (leBytes 1) ++ leBytes 8 g.digest.toNat

/-- What the other modules of a job add to this module's share of an energy or a sum; nothing in a job of one module. The spec
gives no record that carries these shares: each is an open function of the job (log entry 13). -/
def Image.rest (g : Image) (what : Nat) : Int := if g.m = 1 then 0 else Config.jobRest g.view what

/-- Stored row sums r_i of the home variables (R34). -/
def rowSums (n : Nat) (blocks : List Block) (home : List Nat) : List Int :=
  home.flatMap fun w =>
    let es := (blocks.filter fun b => b.row == w)
    (List.range 256).map fun r =>
      sumInt (es.flatMap fun b => b.codes.filterMap fun e =>
        if e.1 = r ∧ 256 * b.row + r ≠ 256 * b.col + e.2.1 ∧ 256 * b.col + e.2.1 < n ∧ 256 * w + r < n
        then some (e.2.2 * (b.scale : Int)) else none)

/-- Stored bias values of the home variables (R37, R46). -/
def storedBias (n t m : Nat) (home : List Nat) (table : Option Bytes) : List Int :=
  home.flatMap fun w => (List.range 256).map fun r =>
    match table with
    | none => 0
    | some bs =>
      if 256 * w + r < n then
        signed 16 (field bs (2 * (256 * w + r)) 2) * ((bs.getD (512 * windowCount n + w % (t * m)) 0).toNat : Int)
      else 0

/-- The parameters of a commit, from COMMIT_PROBLEM or COUPLE_OUT. -/
structure CommitParams where
  n : Nat
  t : Nat
  m : Nat
  rank : Nat
  qubo : Bool
  jobKey : Nat
  groups : Nat
  initAddr : Option Nat
  twin : Option Nat
  work : Option Nat
  mapAddr : Option Nat
deriving DecidableEq, Repr

/-- The bytes of an image's parts, each read once (R59). -/
structure Parts where
  blocks : List Block
  blockBytes : List Bytes
  bias : Option Bytes
  groups : Bytes
  phase : Option Bytes
  init : Option Bytes
  modMap : List Nat
deriving DecidableEq, Repr

/-- The digest of R59. -/
def imageDigest (p : CommitParams) (x : Parts) : BitVec 64 :=
  let c0 := crc64 (leBytes 4 p.n ++ leBytes 2 p.t ++ leBytes 1 p.m ++ leBytes 1 (b2n p.qubo))
  let c1 := x.blockBytes.foldl crc64From c0
  let c2 := crc64From c1 (x.bias.getD [])
  let c3 := crc64From c2 x.groups
  let c4 := crc64From c3 (x.phase.getD [])
  crc64From c4 (x.init.getD [])

/-- Stored bias codes of the home variables as SPS holds them (R46, R52): 0 without a table. -/
def biasCodes (home : List Nat) (table : Option Bytes) : List Int :=
  home.flatMap fun w => (List.range 256).map fun r =>
    match table with
    | none => 0
    | some bs => signed 16 (field bs (2 * (256 * w + r)) 2)

/-- The bias scales of a module's job tiles (R37, R46): 0 without a table. -/
def biasScales (n t rank : Nat) (table : Option Bytes) : List Nat :=
  (List.range t).map fun k => match table with
    | none => 0
    | some bs => (bs.getD (512 * windowCount n + rank * t + k) 0).toNat

/-- The starting spins of one replica (R58 step 6). Initial spins and groups count at the home windows only (R118); the bits of
another rank's windows mean nothing until its fill record comes (R117). -/
def startSpins (g : Image) (init : Option Bytes) (k : Nat) : List (BitVec 256) :=
  (List.range (windowCount g.n)).map fun i =>
    if g.home.contains i then
      g.repair i (match init with
        | none => BitVec.allOnes 256
        | some bs => BitVec.ofNat 256 (field bs (32 * windowCount g.n * k + 32 * i) 32))
    else 0

/-- The image that a commit leaves in the tiles (R58, R59). Of a job of several modules, K and the commit energies are this
module's share and an open rest (log entry 13). -/
def buildImage (p : CommitParams) (x : Parts) : Image :=
  let w := windowCount p.n
  let home := homeWindows p.n p.t p.m p.rank
  let blocks := x.blocks.filter fun b => decide (b.row < w) && home.contains b.row
  let stored := storedBias p.n p.t p.m home x.bias
  let r := rowSums p.n blocks home
  let bias := if p.qubo then (stored.zip r).map fun q => -(2 * q.1 + q.2) else stored
  let g : Image :=
    { n := p.n, t := p.t, m := p.m, rank := p.rank, qubo := p.qubo, jobKey := p.jobKey, modMap := x.modMap
      blocks := blocks, groups := resolveGroups p.n p.groups x.groups, bias := bias, k := 0
      e0 := [], phases := phaseMap p.n p.t p.m x.phase, digest := imageDigest p x, twin := p.twin
      codes := biasCodes home x.bias, scales := biasScales p.n p.t p.rank x.bias, records := x.blocks.map fun b => (b.addr, b.off) }
  let k : Int := if p.qubo then (sumInt r + g.rest 16) / 2 + 2 * (sumInt stored + g.rest 17) else 0
  let gk := { g with k := wrap64 k }
  { gk with e0 := (List.range 16).map fun k => wrap64 (gk.energyOf (startSpins gk x.init k) + gk.rest k) }

/-- The annealing state right after a commit (R58, R213). -/
def freshAnn (g : Image) (all : List (List (BitVec 256))) : Ann :=
  let mine := all.map fun ws => g.home.map fun w => ws.getD w 0
  { sweep := 0, phase := 0, seed := 0, opcode := 0, params := List.replicate 112 0, ckpt := 0, schedDigest := 0
    exch := 0, pi := List.range 16, e := g.e0, esum := List.replicate g.t (List.replicate 16 0)
    best := g.e0, bestSweep := List.replicate 16 0xFFFFFFFFFFFF, stuck := List.replicate 16 0
    wl := List.replicate 16 0, runBest := minInt g.e0, plateau := 0, wpCount := 0, wpChain := 0
    counters := ⟨0, 0, 0, 0, 0, 0, 0, 0, 0⟩, samples := 0, spins := mine, bestSpins := mine, pairs := [], moments := [] }

/-- Bytes of a tile's home blocks in CPS (R62). -/
def tileBytes (g : Image) (tile : Nat) : Nat :=
  sumNat ((g.blocks.filter fun b => g.tileOf b.row == tile).map fun b => payloadLen b.fmt)

/-- Whether a job tile of the module streams (R111). -/
def streams (g : Image) (tile : Nat) : Bool := decide (2097152 < tileBytes g tile)

/-- The order in which a reload fills the resident region of a tile (R112): indices of its home blocks. R112 gives the order of
diagonal blocks by home slot only; several of one window stand in list order here (DESIGN CHOICE, log entry 62). -/
def residentOrder (g : Image) (tile : Nat) : List Nat :=
  let mine := (List.range g.blocks.length).filter fun i => match g.blocks[i]? with
    | some b => g.tileOf b.row == tile
    | none => false
  let diag (i : Nat) : Bool := match g.blocks[i]? with
    | some b => b.row == b.col
    | none => false
  let key (f : Block → Nat) (i : Nat) : Nat := (g.blocks[i]?.map f).getD 0
  sortBy (key (·.row)) (mine.filter diag) ++
  sortBy (key (·.col)) (mine.filter fun i => !diag i)

/-- The blocks of a tile that are streamed: of a streaming tile, those that do not fit in its resident region of
1,536 KiB (R111, R112). -/
def streamedBlocks (g : Image) (tile : Nat) : List Nat :=
  if streams g tile then
    ((residentOrder g tile).foldl (fun (acc : Nat × List Nat) i =>
      let len := (g.blocks[i]?.map fun b => payloadLen b.fmt).getD 0
      if acc.1 + len ≤ 1572864 then (acc.1 + len, acc.2) else (acc.1, acc.2 ++ [i])) (0, [])).2
  else []

/-- The number of streaming job tiles (Table 9.18). -/
def streamCount (g : Image) : Nat := ((List.range g.t).filter (streams g)).length

end Sys2Proof.Machine
end

