-- ==== Sys2Proof/Machine/Anneal.lean ====
section
/-!
DEFINITION. The annealing engine on a slot: window visits (R64 to R73), phase boundaries (R75 to R79), the end of a
sweep (R83) with wanderlust (R94), stop tests (R103), replica exchange (R82) and correlation capture (R156).
-/
namespace Sys2Proof.Machine

/-! ## A visit -/

/-- What governs one visit of one replica. -/
structure VisitCtx where
  heat : Bool                          -- ACCEPT (R68)
  seed : BitVec 128
  sweep : Nat
  ord : Nat                            -- visit ordinal d (R65)
  w : Nat
  n : Nat
  groups : List Group                  -- groups of the window
  diag : List (Nat × Nat × Int)        -- effective couplings inside the window, by position
  reach : List (Nat × Nat)             -- (row, column) of non-zero codes of blocks of non-zero scale (R73)
  bias : List Int                      -- B of the window's positions
deriving DecidableEq, Repr

/-- The visit of one replica under way. -/
structure Visit where
  s : BitVec 256
  h : List Int
  flips : BitVec 256
  de : Int
  proposed : Nat
  accepted : Nat
  chained : Nat
  cycles : Nat
deriving DecidableEq, Repr

/-- The one-hot group that a position anchors (R64). -/
def anchorOf (c : VisitCtx) (r : Nat) : Option Group :=
  c.groups.find? fun g => (positions g.members).head? == some r && decide (1 < (positions g.members).length)

/-- Whether a position is visited (R64). -/
def isVisited (c : VisitCtx) (r : Nat) : Bool :=
  decide (256 * c.w + r < c.n) &&
  match c.groups.find? fun g => g.members.getLsbD r with
  | none => true
  | some _ => (anchorOf c r).isSome

/-- Effective coupling inside the window. -/
def jvIn (c : VisitCtx) (i j : Nat) : Int :=
  sumInt (c.diag.filterMap fun e => if e.1 = i ∧ e.2.1 = j then some e.2.2 else none)

/-- Spin of a position. -/
def posSpin (s : BitVec 256) (r : Nat) : Int := spin (s.getLsbD r)

/-- The set of positions flipped. -/
def flipSet (s : BitVec 256) (xs : List Nat) : BitVec 256 := xs.foldl (fun a x => a ^^^ (1#256 <<< x)) s

/-- commit(k, w, set, de) of R66, with the resolver's count of R73 and Table 3.5 at position `r`. -/
def commitMove (c : VisitCtx) (v : Visit) (r : Nat) (xs : List Nat) (de : Int) : Visit :=
  let s' := flipSet v.s xs
  let h' := c.diag.foldl (fun h e =>
    if xs.contains e.2.1 then h.set e.1 (wrap64 (geti h e.1 + 2 * e.2.2 * posSpin s' e.2.1)) else h) v.h
  let hit := ((c.reach.filter fun e => xs.contains e.2 && decide (r < e.1) && isVisited c e.1).map (·.1)).eraseDups
  let chain := !hit.isEmpty
  { s := s', h := h', flips := flipSet v.flips xs, de := wrap64 (v.de + de), proposed := v.proposed, accepted := v.accepted + 1
    chained := v.chained + b2n chain
    cycles := v.cycles + (if chain then 2 + ceilDiv hit.length 32 + (if xs.length = 2 then 1 else 0) else 0) }

/-- One position of a visit (R66). -/
def visitPos (c : VisitCtx) (k beta : Nat) (v0 : Visit) (r : Nat) : Visit :=
  if !isVisited c r then v0
  else
    let u := sweepDraw c.seed k c.sweep (256 * c.w + r) c.ord
    let v := { v0 with proposed := v0.proposed + 1 }
    match anchorOf c r with
    | some g =>
      let ms := positions g.members
      let a := (ms.find? fun x => v.s.getLsbD x).getD r
      let others := ms.filter fun x => x != a
      let p := u * others.length
      let b := getn others (p / 2 ^ 32)
      let de := wrap64 (2 * (geti v.h a + geti c.bias a) - 2 * (geti v.h b + geti c.bias b) + 2 * (jvIn c a b + jvIn c b a))
      if accept c.heat de beta (p % 2 ^ 32) then commitMove c v r [a, b] de else v
    | none =>
      let de := wrap64 (2 * posSpin v.s r * (geti v.h r + geti c.bias r))
      if accept c.heat de beta u then commitMove c v r [r] de else v

/-- One visit of one replica: ascending positions, each seeing every move before it (R66). -/
def visitReplica (c : VisitCtx) (k beta : Nat) (s : BitVec 256) (h : List Int) : Visit :=
  (List.range 256).foldl (visitPos c k beta) ⟨s, h, 0, 0, 0, 0, 0, 1⟩

/-- The parameters of a run, from bytes 16–127 of the original packet. -/
structure RunParams where
  heat : Bool
  rxMode : Nat
  firstWin : Bool
  targetValid : Bool
  sel : Bool
  rxInterval : Nat
  sweeps : Nat
  base : Nat
  target : Int
  plateau : Nat
  wpSlots : Nat
  mask : Nat
  wpAddr : Nat
  op : Nat
  auxAddr : Nat       -- SAMPLE_ADDR or PAIR_ADDR
  sInterval : Nat
  sMask : Nat
  sMax : Nat
  corrAddr : Nat
  momAddr : Nat
  npairs : Nat
  interval : Nat
  burnIn : Nat
deriving DecidableEq, Repr

/-- The parameters of Table 9.12, from PARAMS (offsets less 16) and the opcode. -/
def runParams (op : Nat) (p : Bytes) : RunParams :=
  let f := field p 1 1
  { heat := bit f 0, rxMode := bits f 1 2, firstWin := bit f 3, targetValid := bit f 4, sel := bit f 5
    rxInterval := field p 2 2, sweeps := field p 4 4, base := field p 8 6, target := signed 64 (field p 32 8)
    plateau := field p 40 4, wpSlots := field p 44 2, mask := field p 46 2, wpAddr := field p 48 8, op := op
    auxAddr := field p 56 8, sInterval := field p 64 2, sMask := field p 66 2, sMax := field p 68 4
    corrAddr := field p 64 8, momAddr := field p 72 8, npairs := field p 80 2, interval := field p 82 2
    burnIn := field p 84 4 }

/-- The window that a tile visits in the present phase, if any. -/
def phaseEntry (g : Image) (phase tile : Nat) : Option Nat :=
  ((g.phases.getD phase []).getD (g.rank * g.t + tile) none)

/-- The windows named in a phase. -/
def phaseWindows (g : Image) (phase : Nat) : List Nat := (g.phases.getD phase []).filterMap id

/-- The visit ordinal of a window in a phase (R65). -/
def visitOrdinal (g : Image) (phase w : Nat) : Nat :=
  ((g.phases.take phase).filter fun p => p.any fun x => x == some w).length

/-- The context of the visits of a window. -/
def visitCtx (g : Image) (p : RunParams) (a : Ann) (bias : List Int) (w : Nat) : VisitCtx :=
  let bs := g.blocks.filter fun b => b.row == w && b.col == w
  { heat := p.heat, seed := a.seed, sweep := a.sweep, ord := visitOrdinal g a.phase w, w := w, n := g.n
    groups := g.groupsOf w
    diag := (bs.flatMap g.entries).map fun e => (e.1 % 256, e.2.1 % 256, e.2.2)
    reach := (bs.filter fun b => b.scale != 0).flatMap fun b => b.codes.map fun e => (e.1, e.2.1)
    bias := (bias.drop (256 * g.pos w)).take 256 }

/-- Counters that hold at 2^64 − 1 (R85). -/
def addCount (a b : Nat) : Nat := satAdd 64 a b

/-- TCLK cycles of a visit (Table 3.5): column-buffer loads, the proposal pipeline, the resolver. -/
def visitCost (g : Image) (w rho : Nat) : Nat :=
  sumNat ((g.blocks.filter fun b => b.row == w && b.col == w).map fun b => 8 * blockCycles b.fmt) + 12 + rho

/-- The visit of one window for all sixteen replicas, with its flip notice (R73, R77). Nothing happens when the window
has been visited in this phase. -/
def visitWindow (g : Image) (p : RunParams) (s : Slot) (w : Nat) : Slot :=
  if s.visited.any (fun x => x.window == w) then s
  else
    let a := s.ann
    let i := g.pos w
    let c := visitCtx g p a s.biases w
    let vs := (List.range 16).map fun k =>
      visitReplica c k (getn s.betas k) ((a.spins.getD k []).getD i 0) (((s.fields.getD k []).drop (256 * i)).take 256)
    let tile := g.tileOf w
    let esum := a.esum.set tile ((List.range 16).map fun k =>
      wrap64 (geti (a.esum.getD tile []) k + (vs.getD k ⟨0, [], 0, 0, 0, 0, 0, 0⟩).de))
    let n := a.counters
    let sum (f : Visit → Nat) : Nat := sumNat (vs.map f)
    let counters := { n with
      visits := addCount n.visits 1, proposed := addCount n.proposed (sum (·.proposed))
      accepted := addCount n.accepted (sum (·.accepted)), chained := addCount n.chained (sum (·.chained))
      resolver := addCount n.resolver (sum (·.cycles)) }
    let rmask := (List.range 16).foldl (fun (m : BitVec 16) k =>
      if (vs.getD k ⟨0, [], 0, 0, 0, 0, 0, 0⟩).accepted = 0 then m else m ||| (1#16 <<< k)) 0
    { s with
      ann := { a with
        spins := (List.range 16).map fun k => (a.spins.getD k []).set i (vs.getD k ⟨0, [], 0, 0, 0, 0, 0, 0⟩).s
        esum := esum, counters := counters }
      visited := s.visited ++ [⟨w, rmask, vs.map (·.flips), visitCost g w (sum (·.cycles)), sum (·.cycles)⟩] }

/-! ## A phase boundary -/

/-- The sequence number of the barrier of the present phase (R78). -/
def barrierNo (g : Image) (a : Ann) : Nat := a.sweep * g.phases.length + a.phase

/-- The boundary-spin record of a window for the present barrier (R117). -/
def barrierRec (g : Image) (s : Slot) (w : Nat) : Option (List (BitVec 256)) :=
  (s.spinRecs.find? fun x => x.1 == barrierNo g s.ann && x.2.1 == w).map (·.2.2)

/-- Whether every notice of the present phase is held (R78), and with it the record of each window that a die had no room to
mirror (R117). -/
def phaseHeld (g : Image) (s : Slot) : Bool :=
  (phaseWindows g s.ann.phase).all fun w =>
    (s.visited.any fun x => x.window == w) && (!s.overflow.contains w || (barrierRec g s w).isSome)

/-- The flip mask of a window in the present phase for one replica. -/
def noticeFlips (s : Slot) (k w : Nat) : BitVec 256 :=
  match s.visited.find? fun x => x.window == w with
  | some x => if x.rmask.getLsbD k then x.flips.getD k 0 else 0
  | none => 0

/-- Field-array passes of one replica at the boundary (R79). -/
def passesOf (g : Image) (s : Slot) (k : Nat) : Nat :=
  (g.blocks.filter fun b => s.visited.any fun x => x.window == b.col && x.rmask.getLsbD k).length

/-- The boundary of one replica (R75, R79): new fields, the stale pairs found, and what they take from each tile's
partial energy. `mir` holds the column spins before the phase. -/
def boundaryReplica (g : Image) (s : Slot) (k : Nat) : List Int × Nat × List Int :=
  let mir := s.mirror.getD k []
  let newSpin (v : Nat) : Int :=
    let f := noticeFlips s k (v / 256)
    if f.getLsbD (v % 256) then -(spinAt mir v) else spinAt mir v
  let moved (v : Nat) : Bool := (noticeFlips s k (v / 256)).getLsbD (v % 256)
  let es := g.blocks.flatMap g.entries
  let h := es.foldl (fun (h : List Int) e =>
    if moved e.2.1 then
      let i := 256 * g.pos (e.1 / 256) + e.1 % 256
      h.set i (wrap64 (geti h i + 2 * e.2.2 * newSpin e.2.1))
    else h) (s.fields.getD k [])
  let live := (g.blocks.filter fun b => b.scale != 0 && b.row != b.col).flatMap g.entries
  let hit := live.filter fun e => moved e.1 && moved e.2.1
  let pairs := (hit.map fun e => (e.1, e.2.1)).eraseDups
  let take := (List.range g.t).map fun t => sumInt (hit.filterMap fun e =>
    if g.tileOf (e.1 / 256) = t then some (2 * e.2.2 * spinAt mir e.1 * spinAt mir e.2.1) else none)
  (h, pairs.length, take)

/-- The mirror entries XORed with the notices' flips (R116). -/
def mirrorAfter (s : Slot) : List (List (BitVec 256)) :=
  (List.range 16).map fun k =>
    s.visited.foldl (fun (ws : List (BitVec 256)) x => ws.set x.window (ws.getD x.window 0 ^^^ noticeFlips s k x.window))
      (s.mirror.getD k [])

/-- The spins of a window of another rank become known, or are told again: the mirror takes them, and the fields what they add
to what they took in before (R41, R116, R117). -/
def fillWindow (g : Image) (w : Nat) (spins : List (BitVec 256)) (s : Slot) : Slot :=
  let es := (g.blocks.filter fun b => b.col == w).flatMap g.entries
  let before (k : Nat) : BitVec 256 := (s.mirror.getD k []).getD w 0
  { s with
    fields := (List.range 16).map fun k => es.foldl (fun (h : List Int) e =>
      let i := 256 * g.pos (e.1 / 256) + e.1 % 256
      let old := if s.known.contains w then posSpin (before k) (e.2.1 % 256) else 0
      h.set i (wrap64 (geti h i + e.2.2 * (posSpin (spins.getD k 0) (e.2.1 % 256) - old)))) (s.fields.getD k [])
    mirror := (List.range 16).map fun k => (s.mirror.getD k []).set w (spins.getD k 0)
    known := if s.known.contains w then s.known else s.known ++ [w] }

/-- The records of this barrier stand in place of the mirror entries of the windows that had no room (R117). A record carries
the spins after the visit; the flips of its notice lead back to those before the phase. -/
def useRecords (g : Image) (s : Slot) : Slot :=
  s.overflow.foldl (fun s w => match barrierRec g s w with
    | some r =>
      let before := (List.range 16).map fun k => r.getD k 0 ^^^ noticeFlips s k w
      if s.known.contains w then
        { s with mirror := (List.range 16).map fun k => (s.mirror.getD k []).set w (before.getD k 0) }
      else fillWindow g w before s
    | none => s) s

/-- The field updates of the present phase, and the step to the next (R78, R79, R102). -/
def phaseBoundary (g : Image) (s0 : Slot) : Slot :=
  let s := useRecords g s0
  let rs := (List.range 16).map fun k => boundaryReplica g s k
  let a := s.ann
  let esum := (List.range g.t).map fun t => (List.range 16).map fun k =>
    wrap64 (geti (a.esum.getD t []) k - geti ((rs.getD k ([], 0, [])).2.2) t)
  let n := a.counters
  let counters := { n with
    stale := addCount n.stale (sumNat (rs.map (·.2.1)))
    passes := addCount n.passes (sumNat ((List.range 16).map fun k => passesOf g s k)) }
  let last := decide (g.phases.length ≤ a.phase + 1)
  let next := barrierNo g a + 1
  { s with
    ann := { a with esum := esum, counters := counters, phase := if last then a.phase else a.phase + 1 }
    fields := rs.map (·.1)
    mirror := mirrorAfter s
    sweepDue := last
    spinRecs := s.spinRecs.filter fun x => decide (next ≤ x.1)
    visited := (s.early.filter fun x => x.1 == next).map (·.2)
    early := s.early.filter fun x => decide (next < x.1) }

/-! ## The end of a sweep -/

/-- The energies of the replicas: K and the commit energy plus every tile's partial energies, and the sums of the
other ranks in ascending rank order (R63, R121). -/
def energiesNow (g : Image) (s : Slot) : List Int :=
  (List.range 16).map fun k =>
    wrap64 (geti g.e0 k + sumInt (s.ann.esum.map fun t => geti t k) +
      sumInt ((List.range g.m).filterMap fun r =>
        (s.rankSums.find? fun x => x.rank == r && x.sweep == s.ann.sweep && x.rank != g.rank).map fun x => geti x.sums k))

/-- The sums of this module's job tiles (Table 5.3). -/
def ownSums (s : Slot) : List Int := (List.range 16).map fun k => wrap64 (sumInt (s.ann.esum.map fun t => geti t k))

/-- Whether the sums of every other rank for this sweep are held (R121). -/
def sumsHeld (g : Image) (s : Slot) : Bool :=
  (List.range g.m).all fun r => r == g.rank || s.rankSums.any fun x => x.rank == r && x.sweep == s.ann.sweep

/-- The wanderlust update of R94 for one replica: best, its sweep, stuck, offset, and whether it improved. -/
def wanderOne (wStuck wStep wCap t : Nat) (e best : Int) (bestSweep stuck wl : Nat) : Int × Nat × Nat × Nat × Bool :=
  if e < best then (e, t, 0, 0, true)
  else
    let st := min 0xFFFFFFFF (stuck + 1)
    let wl' := if 0 < wStuck ∧ st % wStuck = 0 then min wCap (wl + wStep) else wl
    (best, bestSweep, st, wl', false)

/-- The wanderlust update of R94 after sweep t. -/
def wanderlust (sched : Bytes) (a : Ann) : Ann :=
  let w := (List.range 16).map fun k =>
    wanderOne (field sched 4 4) (field sched 8 4) (field sched 12 4) a.sweep (geti a.e k) (geti a.best k)
      (getn a.bestSweep k) (getn a.stuck k) (getn a.wl k)
  let rb := minInt (w.map (·.1))
  { a with
    best := w.map (·.1), bestSweep := w.map (·.2.1), stuck := w.map (·.2.2.1), wl := w.map (·.2.2.2.1)
    bestSpins := (List.range 16).map fun k =>
      if (w.getD k (0, 0, 0, 0, false)).2.2.2.2 then a.spins.getD k [] else a.bestSpins.getD k []
    runBest := if rb < a.runBest then rb else a.runBest
    plateau := if rb < a.runBest then 0 else min 0xFFFFFFFF (a.plateau + 1) }

/-- The lowest index of a replica that satisfies a test. -/
def lowest (f : Nat → Bool) : Nat := ((List.range 16).find? f).getD 0

/-- The stop test of R103 after sweep t: the stop reason and the winner. -/
def stopTest (p : RunParams) (a : Ann) : Option (Nat × Nat) :=
  if p.targetValid && (List.range 16).any (fun k => decide (geti a.e k ≤ p.target)) then
    some (1, lowest fun k => decide (geti a.e k ≤ p.target))
  else if (0 < p.sweeps ∧ a.sweep = p.base + p.sweeps - 1) ∨ a.sweep = 2 ^ 48 - 1 then
    some (0, lowest fun k => decide (geti a.best k = a.runBest))
  else if 0 < p.plateau ∧ p.plateau ≤ a.plateau then
    some (2, lowest fun k => decide (geti a.best k = a.runBest))
  else none

/-- One exchange of R82 on given energies and inverse temperatures of sweep `t`: the new assignment, pairs tested and
pairs swapped. -/
def exchange (seed : BitVec 128) (e t : Nat) (pi : List Nat) (betas : List Nat) (es : List Int) : List Nat × Nat × Nat :=
  let qs := (List.range 15).filter fun q => q % 2 == e % 2
  qs.foldl (fun acc q =>
    let a := pi.idxOf q
    let b := pi.idxOf (q + 1)
    let x := ((getn betas a : Int) - (getn betas b : Int)) * (geti es b - geti es a)
    let ok := if x ≤ 0 then true else if 2 ^ 29 ≤ x then false
      else decide (sweepDraw seed q t 0xFFFFFFFF 0 < tableA (x.toNat / 2 ^ 17))
    if ok then ((acc.1.set a (q + 1)).set b q, acc.2.1 + 1, acc.2.2 + 1) else (acc.1, acc.2.1 + 1, acc.2.2))
    (pi, 0, 0)

/-- The exchange at a barrier, when it is due (R82, R83 step 3). -/
def exchangeAtBarrier (p : RunParams) (betas : List Nat) (a : Ann) : Ann :=
  if p.rxMode = 1 ∧ (a.sweep + 1) % p.rxInterval = 0 then
    let r := exchange a.seed a.exch a.sweep a.pi betas a.e
    { a with
      pi := r.1, exch := a.exch + 1
      counters := { a.counters with
        rxAttempts := addCount a.counters.rxAttempts r.2.1, rxAccepts := addCount a.counters.rxAccepts r.2.2 } }
  else a

/-- The inverse temperatures of the sweep that runs next (R88). -/
def nextBetas (sched : Bytes) (a : Ann) : List Nat :=
  (List.range 16).map fun k => replicaBeta sched (getn a.pi k) a.sweep (getn a.wl k)

/-- Whether replica k is included in correlation capture (R155). -/
def included (p : RunParams) (a : Ann) (k : Nat) : Bool := if p.sel then bit p.mask (getn a.pi k) else bit p.mask k

/-- Whether the sweep is sampled for correlations (R155). -/
def corrSweep (p : RunParams) (t : Nat) : Bool :=
  decide (p.base + p.burnIn ≤ t) && decide (0 < p.interval) && (t - p.base - p.burnIn) % p.interval == 0

/-- The spin of a variable for replica k, from the mirror, padding at +1 (R155). A window beyond the slot's has no
spins, and the spec states no statistics for it: an open value (log entry 7). -/
def corrSpin (s : Slot) (k v : Nat) : Int :=
  let ws := s.mirror.getD k []
  if v / 256 < ws.length then spinAt ws v else spin ((Config.freeValue (2 ^ 64 + v)).getLsbD 0)

/-- Correlation capture at the end of a sampled sweep (R156): statistics of the pairs of this module, first moments of
its home windows, and the count of samples. -/
def correlate (g : Image) (p : RunParams) (pairs : List (Nat × Nat)) (s : Slot) : Ann :=
  let a := s.ann
  let ks := (List.range 16).filter fun k => included p a k
  let stat := (pairs.zip a.pairs).map fun q =>
    if g.home.contains q.1.1 then
      (List.range 256).map fun i => (List.range 256).map fun j =>
        wrap64 (geti (q.2.getD i []) j +
          sumInt (ks.map fun k => corrSpin s k (256 * q.1.1 + i) * corrSpin s k (256 * q.1.2 + j)))
    else q.2
  let mom := (g.home.zip a.moments).map fun q =>
    (List.range 256).map fun r => wrap64 (geti q.2 r + sumInt (ks.map fun k => corrSpin s k (256 * q.1 + r)))
  { a with pairs := stat, moments := mom, samples := a.samples + ks.length }

/-- The map entries or pair entries of a list (R149, R154). -/
def pairList (bs : Bytes) : List (Nat × Nat) :=
  (List.range (bs.length / 8)).map fun i => (fieldBits bs (8 * i) 4 0 20, fieldBits bs (8 * i + 4) 4 0 20)

/-- The state at the dispatch of a fresh run (R81, R93): π, counters, wanderlust state, seed, parameters. -/
def startRun (g : Image) (s : Slot) (op : Nat) (params : Bytes) (ckpt : Nat) (sched : Bytes) : Slot :=
  let p := runParams op params
  let e := (List.range 16).map fun k => geti s.ann.e k
  let a : Ann := { s.ann with
    sweep := p.base, phase := 0, seed := BitVec.ofNat 128 (field params 16 16), opcode := op, params := params
    ckpt := ckpt, schedDigest := crc64 sched, exch := 0, pi := List.range 16, e := e, best := e
    bestSweep := List.replicate 16 0xFFFFFFFFFFFF, stuck := List.replicate 16 0, wl := List.replicate 16 0
    runBest := minInt e, plateau := 0, wpCount := 0, wpChain := 0, counters := ⟨0, 0, 0, 0, 0, 0, 0, 0, 0⟩
    samples := 0, bestSpins := s.ann.spins
    pairs := List.replicate p.npairs (List.replicate 256 (List.replicate 256 0))
    moments := List.replicate g.home.length (List.replicate 256 0) }
  let a := if op = 0x18 then a else { a with pairs := [], moments := [] }
  { s with
    ann := a, ran := true, visited := [], early := [], sweepDue := false, boundaries := [], rankSums := []
    betas := nextBetas sched a, betasPrev := [], piNext := none, winner := 0, winPhase := 0xFFFF, rxDone := 0
    filled := [], shares := [], entryPoint := some a, buffers := [], replayId := 0, replaySteps := []
    fetched := [], primed := false
    stepStart := stepCounter p.base 0 }

/-- The mirror at a fill: this module's windows from the tiles, other windows as they stood (R116). -/
def fillMirror (g : Image) (s : Slot) : Slot :=
  { s with mirror := (List.range 16).map fun k => (List.range (windowCount g.n)).map fun w =>
      if g.home.contains w then (s.ann.spins.getD k []).getD (g.pos w) 0 else (s.mirror.getD k []).getD w 0 }

/-- The fields and biases rebuilt from the image and the spins of the mirror (R171, R106). -/
def rebuildFields (g : Image) (s : Slot) : Slot :=
  { s with
    fields := (List.range 16).map fun k => g.fieldsOf s.known (s.mirror.getD k [])
    biases := g.bias, rowsLoaded := false }

/-- Whether the fill record of every window of another rank that the dies mirror has come (R117). -/
def fillsHeld (s : Slot) : Bool := s.due.all fun w => s.filled.contains w

end Sys2Proof.Machine
end

