-- ==== Sys2Proof/Machine/Acm.lean ====
section
/-!
DEFINITION. Accumulator memory (Chapter 07): the rows of a committed slot (R161), the accumulation groups of a tile with its active
and shadow sets (R22, R162 to R164), and the rows that keep their bits when no group holds them (R160).

The rows that a slot's open groups hold are stored once, in the slot: `rowLanes` and `statLanes` say which lane words they are. Every
other row is stored in the tile (`TileUnit.rows`).
-/
namespace Sys2Proof.Machine

/-! ## Groups -/

/-- ACC_GRPn_CFG (Table 7.3). -/
def GroupReg.cfg (g : GroupReg) : Word :=
  BitVec.ofNat 32 (g.firstRow % 2048 + g.rows % 2048 * 2 ^ 11 + g.mode % 4 * 2 ^ 22 + b2n g.open_ * 2 ^ 24 +
    b2n g.add * 2 ^ 25 + b2n g.accLong * 2 ^ 26)

/-- ACC_GRPn_TERMS (Table 7.4). -/
def GroupReg.termsWord (g : GroupReg) : Word := BitVec.ofNat 32 (min g.terms 0xFFFFFFFF)

/-- A group that is not in use: the reset value of Table 7.3. -/
def GroupReg.unused : GroupReg := ⟨0, 0, 0, false, false, false, 0⟩

/-- A set of groups: those of a list from group 0 on, the others not in use. The spec gives the groups no numbers (log entry 37). -/
def groupSet (l : List GroupReg) : Tab 4 GroupReg := Tab.gen 4 fun n => l.getD n .unused

/-- The home windows of job tile `t` of a job, ascending: the home slots of R40. -/
def tileWindows (g : Image) (t : Nat) : List Nat := g.home.filter fun w => w % g.tm == t

/-- Home windows of a job tile: H of R161. -/
def homeCount (g : Image) (t : Nat) : Nat := (tileWindows g t).length

/-- The pairs of a CORRELATE that a job tile holds, by their place in the list (R153). -/
def tilePairs (g : Image) (t : Nat) (pairs : List (Nat × Nat)) : List Nat :=
  (List.range pairs.length).filter fun p => let w := (pairs.getD p (0, 0)).1; g.home.contains w && w % g.tm == t

/-- The group of an anneal: fields and biases, MODE 2, over rows 0 to 17H − 1 (R162). -/
def fieldGroup (g : Image) (t : Nat) : GroupReg := ⟨0, 17 * homeCount g t, 2, true, false, false, 0⟩

/-- The group that CORRELATE adds: first moments and the pairs held by the tile (R161, R162). -/
def statGroup (g : Image) (t : Nat) (pairs : List (Nat × Nat)) (add : Bool) (terms : Nat) : GroupReg :=
  ⟨17 * homeCount g t, homeCount g t + 256 * (tilePairs g t pairs).length, 1, true, add, false, terms⟩

/-- The groups of a CORRELATE lie in rows of their own (R162). -/
theorem fieldGroup_below (g : Image) (t : Nat) (pairs : List (Nat × Nat)) (add : Bool) (terms : Nat) :
    (fieldGroup g t).firstRow + (fieldGroup g t).rows ≤ (statGroup g t pairs add terms).firstRow := by
  simp [fieldGroup, statGroup]

/-- Sampled sweeps that a CORRELATE has ended (R155). -/
def sampledSweeps (p : RunParams) (a : Ann) : Nat :=
  if 0 < p.interval then ceilDiv (a.sweep - (p.base + p.burnIn)) p.interval else 0

/-- Whether the group of a run opens with ADD: a CORRELATE with the flag, and a RESUME, which reloads its statistics (R163, R196). -/
def statAdd (c : Cmd) : Bool := pktOp c.pkt == some .resume || pktAdd c.pkt

/-- TERMS of the group of a CORRELATE: one term for each sampled sweep, and with ADD the loaded value before them. Every term is
added to every lane word of the group's rows (R163, R164): what the included replicas of a sweep add is one term (DEDUCED, log entry
37). -/
def statTerms (c : Cmd) (a : Ann) : Nat := sampledSweeps (runParams a.opcode a.params) a + b2n (statAdd c)

/-- The pairs of a CORRELATE. -/
def cmdPairs (c : Cmd) : List (Nat × Nat) := pairList (c.descs.getD 0 [])

/-! ## Rows of a slot -/

/-- Where row `r` of a job tile lies in the slot's state: a field row of a replica, or a bias row, of a home window
(Table 7.2). -/
inductive TileRow where
  | fields (k pos : Nat)
  | bias (pos : Nat)
deriving DecidableEq, Repr

/-- Row `r` of a job tile. -/
def tileRow (g : Image) (t r : Nat) : TileRow :=
  let ws := tileWindows g t
  if r < 16 * ws.length then .fields (r % 16) (g.pos (ws.getD (r / 16) 0))
  else .bias (g.pos (ws.getD (r - 16 * ws.length) 0))

/-- The 256 lanes of a row. -/
def rowLanes (s : Slot) (r : TileRow) : List Int :=
  match r with
  | .fields k pos => (List.range 256).map fun i => geti (s.fields.getD k []) (256 * pos + i)
  | .bias pos => (List.range 256).map fun i => geti s.biases (256 * pos + i)

/-- A list with a run of values put at an index. -/
def spliceInts (l : List Int) (o : Nat) (xs : List Int) : List Int := l.take o ++ xs ++ l.drop (o + xs.length)

/-- A row with new lanes. -/
def setRow (s : Slot) (r : TileRow) (xs : List Int) : Slot :=
  match r with
  | .fields k pos => { s with fields := s.fields.set k (spliceInts (s.fields.getD k []) (256 * pos) xs) }
  | .bias pos => { s with biases := spliceInts s.biases (256 * pos) xs }

/-- The 256 lanes of row `r`, from 17H on, of a job tile at work on a CORRELATE (Table 7.2). -/
def statLanes (g : Image) (a : Ann) (t : Nat) (pairs : List (Nat × Nat)) (r : Nat) : List Int :=
  let h := homeCount g t
  if r < 18 * h then a.moments.getD (g.pos ((tileWindows g t).getD (r - 17 * h) 0)) []
  else (a.pairs.getD ((tilePairs g t pairs).getD ((r - 18 * h) / 256) 0) []).getD ((r - 18 * h) % 256) []

/-- Lanes as the 64-bit words of a row (R159). -/
def laneWords (l : List Int) : List (BitVec 64) := (List.range 256).map fun i => BitVec.ofInt 64 (geti l i)

/-! ## Rows that keep their bits (R160) -/

/-- Rows left behind, before those that they cover in part; those that they cover whole are gone. -/
def leaveRows (u : TileUnit) (x : RowRun) : TileUnit :=
  if x.count = 0 then u
  else { u with rows := x :: u.rows.filter fun y => !(decide (x.first ≤ y.first) && decide (y.first + y.count ≤ x.first + x.count)) }

/-- The field and bias rows of a slot that a tile holds, as they stand. -/
def heldRows (d : Desk) (h : Held) : RowRun :=
  let s := d.slots.at h.slot
  match s.image with
  | some g =>
    if s.gen = h.gen then
      ⟨0, 17 * homeCount g h.job, .words ((List.range (17 * homeCount g h.job)).flatMap fun r => laneWords (rowLanes s (tileRow g h.job r)))⟩
    else ⟨0, 0, .words []⟩
  | none => ⟨0, 0, .words []⟩

/-- A tile's unit changed. -/
def updUnit (d : Desk) (l : Nat) (f : TileUnit → TileUnit) : Desk :=
  { d with tiles := { d.tiles with units := d.tiles.units.upd (fin 256 l) f } }

/-- A tile takes up other state, or none: the rows of the state that it held keep their bits, and its two sets change places (R22,
R160, R162). -/
def holdTile (d : Desk) (l : Nat) (h : Option Held) (groups : Tab 4 GroupReg) : Desk :=
  let old := d.tiles.holds.at (fin 256 l)
  let d1 := updUnit d l fun u =>
    let u1 := match old with
      | some x => if h = some x then u else leaveRows u (heldRows d x)
      | none => u
    { u1 with active := groups, shadow := u.active }
  { d1 with tiles := { d1.tiles with holds := d1.tiles.holds.put (fin 256 l) h } }

/-- The tiles that hold the state of a slot lose it: its rows keep their bits (R160). -/
def leaveSlot (d : Desk) (i : Fin 64) : Desk :=
  (List.range 256).foldl (fun d l => match d.tiles.holds.at (fin 256 l) with
    | some h => if h.slot = i then holdTile d l none (groupSet []) else d
    | none => d) d

/-- The slot state that job tile number `t` of a command on slot `i` takes up. -/
def heldBy (d : Desk) (i : Fin 64) (t : Nat) : Held :=
  let s := d.slots.at i
  ⟨i, s.gen, match s.image with | some g => g.rank * g.t + t | none => t⟩

/-- The groups that a command on slot `i` finds open on its job tile number `t`. -/
def slotGroups (d : Desk) (i : Fin 64) (t : Nat) : Tab 4 GroupReg :=
  match (d.slots.at i).image with
  | some g => groupSet [fieldGroup g (g.rank * g.t + t)]
  | none => groupSet []

/-- The command takes over its tiles: the state they hold is that of its slot, or none (R61). -/
def takeTiles (d : Desk) (tiles : List Nat) (slot : Option (Fin 64)) : Desk :=
  (List.range tiles.length).foldl (fun x t =>
    holdTile x (tiles.getD t 0) (slot.map fun i => heldBy d i t)
      (match slot with | some i => slotGroups d i t | none => groupSet [])) d

/-- Front Desk writes the shadow sets of tiles for the command that will run on them next (R22). -/
def writeShadow (d : Desk) (tiles : List Nat) (slot : Option (Fin 64)) : Desk :=
  (List.range tiles.length).foldl (fun x t => updUnit x (tiles.getD t 0) fun u => { u with shadow :=
    match slot with
    | some i => slotGroups d i t
    | none => groupSet [] }) d

/-- The group of a CORRELATE as its annealing state now makes it, on each of its job tiles. -/
def openGroup (d : Desk) (c : Cmd) (g : Image) (a : Ann) : Desk :=
  if a.opcode = 0x18 then
    (List.range c.tiles.length).foldl (fun x t => updUnit x (c.tiles.getD t 0) fun u => { u with
      active := u.active.put 1 (statGroup g (g.rank * g.t + t) (cmdPairs c) (statAdd c) (statTerms c a)) }) d
  else d

/-- The group of a CORRELATE closes: its rows keep their bits (R160, R164). -/
def closeGroup (d : Desk) (c : Cmd) (g : Image) (a : Ann) : Desk :=
  if a.opcode = 0x18 then
    (List.range c.tiles.length).foldl (fun x t => updUnit x (c.tiles.getD t 0) fun u =>
      let j := g.rank * g.t + t
      let r := statGroup g j (cmdPairs c) (statAdd c) (statTerms c a)
      { leaveRows u ⟨r.firstRow, r.rows,
          .words ((List.range r.rows).flatMap fun k => laneWords (statLanes g a j (cmdPairs c) (r.firstRow + k)))⟩ with
        active := u.active.put 1 { r with open_ := false } }) d
  else d

end Sys2Proof.Machine
end

