-- ==== Sys2Proof/Machine/Snap.lean ====
section
/-!
DEFINITION. Waypoints as bytes (Table 8.8): their layout, digest and chain (R192, R193), and the state that a copy
restores (R196).
-/
namespace Sys2Proof.Machine

/-- Sixteen values of `n` bytes. -/
def sixteen (n : Nat) (l : List Int) : Bytes := (List.range 16).flatMap fun k => intBytes n (geti l k)

/-- Sixteen naturals of `n` bytes. -/
def sixteenNat (n : Nat) (l : List Nat) : Bytes := (List.range 16).flatMap fun k => leBytes n (getn l k)

/-- The nine counters of Table 3.4, in table order. -/
def counterBytes (c : Counters) : Bytes :=
  leBytes 8 c.visits ++ leBytes 8 c.proposed ++ leBytes 8 c.accepted ++ leBytes 8 c.chained ++ leBytes 8 c.resolver ++
  leBytes 8 c.stale ++ leBytes 8 c.passes ++ leBytes 8 c.rxAttempts ++ leBytes 8 c.rxAccepts

/-- The nine counters read back. -/
def countersOf (b : Bytes) : Counters :=
  ⟨field b 0 8, field b 8 8, field b 16 8, field b 24 8, field b 32 8, field b 40 8, field b 48 8, field b 56 8,
   field b 64 8⟩

/-- π as sixteen 4-bit values (Table 8.8). -/
def piNat (l : List Nat) : Nat := (List.range 16).foldl (fun a k => a + getn l k % 16 * 16 ^ k) 0

/-- π read back. -/
def piOf (v : Nat) : List Nat := (List.range 16).map fun k => bits v (4 * k) 4

/-- One window of spins, 32 bytes (R51). -/
def windowBytes (w : BitVec 256) : Bytes := leBytes 32 w.toNat

/-- The spins of one replica over the home windows, ascending (R192, R213). -/
def replicaBytes (ws : List (BitVec 256)) : Bytes := ws.flatMap windowBytes

/-- A spin section: replicas in order (R192). -/
def spinSection (all : List (List (BitVec 256))) : Bytes := all.flatMap replicaBytes

/-- WP_DIGEST (R193). -/
def wpDigest (a : Ann) : BitVec 64 := crc64 (leBytes 8 (annStep a) ++ spinSection a.spins)

/-- The waypoint of Table 8.8. -/
def waypointBytes (d : Desk) (slot : Fin 64) (g : Image) (gen : Nat) (a : Ann) (flags : Nat) : Bytes :=
  leBytes 8 (annStep a) ++ leBytes 8 (wpDigest a).toNat ++ leBytes 8 g.digest.toNat ++ leBytes 16 a.seed.toNat ++
  leBytes 4 gen ++ leBytes 4 d.gctl.epoch.toNat ++ leBytes 4 a.exch ++ leBytes 4 g.home.length ++ leBytes 1 slot.val ++
  leBytes 1 g.rank ++ leBytes 1 g.m ++ leBytes 1 flags ++ leBytes 1 a.opcode ++ leBytes 1 0 ++ leBytes 2 a.ckpt ++
  leBytes 8 (piNat a.pi) ++ intBytes 8 a.runBest ++ leBytes 4 a.plateau ++ leBytes 4 a.wpCount ++ sixteen 8 a.e ++
  sixteen 8 ((List.range 16).map fun k => sumInt (a.esum.map fun t => geti t k)) ++ sixteen 8 a.best ++
  sixteenNat 8 a.bestSweep ++ sixteenNat 4 a.stuck ++ sixteenNat 4 a.wl ++ counterBytes a.counters ++
  leBytes 8 (if a.opcode = 0x18 then a.samples else 0) ++ slice a.params 0 112 ++ leBytes 8 a.schedDigest.toNat ++
  leBytes 8 a.wpChain.toNat ++ List.replicate 88 0 ++ spinSection a.spins ++ spinSection a.bestSpins

/-- Bytes of a waypoint: 1,024 + 1,024 × Hm (R192). -/
def waypointLen (g : Image) : Nat := 1024 + 1024 * g.home.length

/-- A spin section read back: 16 replicas of the home windows, padding read as 1 whatever is stored (R51). -/
def spinsOf (g : Image) (b : Bytes) : List (List (BitVec 256)) :=
  let hm := g.home.length
  (List.range 16).map fun k => (List.range hm).map fun i =>
    BitVec.ofNat 256 (field b (32 * (hm * k + i)) 32) ||| ~~~ windowMask g.n (getn g.home i)

/-- Sample records that a SAMPLE has written when its step counter stands at sweep `t` (R214): one for each selected replica at
each sampled sweep, at most S_MAX. A copy does not hold their number (Table 8.8); it follows from the parameters. -/
def sampleCount (p : RunParams) (t : Nat) : Nat :=
  min p.sMax (((List.range 16).filter fun k => bit p.sMask k).length * (t / p.sInterval - p.base / p.sInterval))

/-- The state that a waypoint copy restores (R196). The partial energies of the module stand in its first tile's
share: only their sum is recorded (log entry 15). -/
def annOfBytes (g : Image) (b : Bytes) : Ann :=
  let hm := g.home.length
  let s16 (o : Nat) : List Int := (List.range 16).map fun k => signed 64 (field b (o + 8 * k) 8)
  let p := runParams (field b 60 1) (slice b 808 112)
  { sweep := field b 0 8 % 2 ^ 48, phase := fieldBits b 0 8 48 10, seed := BitVec.ofNat 128 (field b 24 16)
    opcode := field b 60 1, params := slice b 808 112, ckpt := field b 62 2
    schedDigest := BitVec.ofNat 64 (field b 920 8), exch := field b 48 4, pi := piOf (field b 64 8)
    e := s16 88
    esum := s16 216 :: List.replicate (g.t - 1) (List.replicate 16 0)
    best := s16 344
    bestSweep := (List.range 16).map fun k => field b (472 + 8 * k) 8 % 2 ^ 48
    stuck := (List.range 16).map fun k => field b (600 + 4 * k) 4
    wl := (List.range 16).map fun k => field b (664 + 4 * k) 4
    runBest := signed 64 (field b 72 8), plateau := field b 80 4, wpCount := field b 84 4
    wpChain := BitVec.ofNat 64 (field b 928 8), counters := countersOf (slice b 728 72)
    samples := if p.op = 0x11 then sampleCount p (field b 0 8 % 2 ^ 48) else field b 800 8
    spins := spinsOf g (b.drop 1024), bestSpins := spinsOf g (b.drop (1024 + 512 * hm)), pairs := [], moments := [] }

/-- Whether π is a permutation of the temperature slots (R196). -/
def piWhole (l : List Nat) : Bool := (List.range 16).all fun q => l.contains q

/-- The repair of the restored spins (R196 step 2). -/
def repairAnn (g : Image) (a : Ann) : Ann :=
  { a with spins := a.spins.map fun ws => (g.home.zip ws).map fun q => g.repair q.1 q.2 }

end Sys2Proof.Machine
end

