-- ==== Sys2Proof/Machine/Run.lean ====
section
/-!
DEFINITION. Runs on a slot at Front Desk: phases and sweep ends with their records, waypoints (R191 to R194), stops
(R415, R191, R195) and the completion of a run (Table 9.18, Table 9.19).
-/
namespace Sys2Proof.Machine

/-! ## Small access -/

/-- A slot changed. -/
def updSlot (d : Desk) (i : Fin 64) (f : Slot → Slot) : Desk := { d with slots := d.slots.upd i f }

/-- The command under way in a queue replaced. -/
def setCur (d : Desk) (n : Fin 64) (c : Option Cmd) : Desk := { d with sqs := d.sqs.upd n fun q => { q with cur := c } }

/-- The command under way in a queue, when it is of one of the given opcodes. -/
def curOf (d : Desk) (n : Fin 64) (ops : List Op) : Option Cmd :=
  match (d.sqs.at n).cur with
  | some c => match pktOp c.pkt with
    | some o => if ops.contains o then some c else none
    | none => none
  | none => none

/-- The same while TCLK runs: tiles make no visit and no boundary while a trip holds the dies (R338 step 1). -/
def tileCur (d : Desk) (n : Fin 64) (ops : List Op) : Option Cmd := if d.tclkOff then none else curOf d n ops

/-- The slot a command names. -/
def cmdSlot (c : Cmd) : Fin 64 := pktSlot c.pkt

/-- Whether a command is at work and nothing has asked it to stop. -/
def atWork (c : Cmd) : Bool := c.stage == .working && c.stop.isNone

/-- Whether an allotment spans compute dies. -/
def spansDies (tiles : List Nat) : Bool := tiles.any fun t => t / 64 != tiles.headD 0 / 64

/-- The parameters of the run on a slot. -/
def slotParams (s : Slot) : RunParams := runParams s.ann.opcode s.ann.params

/-- A message of this module. -/
def ownMsg (e : Env) (cls rtype : Nat) (dst : Nat) (key : Nat) (body : Bytes) : Msg :=
  ⟨cls, rtype, e.elec.moduleId, BitVec.ofNat 6 dst, false, BitVec.ofNat 32 key, body, 0⟩

/-- A FLIP or BSPIN record for every other rank of the job (R119 to R121). -/
def toRanks (e : Env) (g : Image) (cls rtype : Nat) (body : Bytes) : List Msg :=
  ((List.range g.m).filter fun r => r != g.rank).map fun r => ownMsg e cls rtype (getn g.modMap r) g.jobKey body

/-- A flip notice (Table 3.3). -/
def noticeBytes (slot : Fin 64) (a : Ann) (x : Notice) : Bytes :=
  leBytes 4 x.window ++ leBytes 4 (x.rmask.toNat + a.phase * 2 ^ 16) ++ leBytes 8 (a.sweep + slot.val * 2 ^ 48) ++
  (List.range 16).flatMap fun k => windowBytes (x.flips.getD k 0)

/-- A fill record (Table 5.2) of a home window. -/
def fillBytes (slot : Fin 64) (g : Image) (a : Ann) (w : Nat) : Bytes :=
  leBytes 4 w ++ leBytes 4 (2 ^ 10) ++ leBytes 8 (a.sweep + slot.val * 2 ^ 48) ++
  (List.range 16).flatMap fun k => windowBytes ((a.spins.getD k []).getD (g.pos w) 0)

/-- The record of a home window for the dies that had no room to mirror it (Table 5.2, FILL = 0): the spins after the visit of
the present phase. -/
def overflowBytes (slot : Fin 64) (g : Image) (a : Ann) (w : Nat) : Bytes :=
  leBytes 4 w ++ leBytes 4 (a.phase % 1024) ++ leBytes 8 (a.sweep + slot.val * 2 ^ 48) ++
  (List.range 16).flatMap fun k => windowBytes ((a.spins.getD k []).getD (g.pos w) 0)

/-- The sums of this rank at a boundary inside a sweep, for rank 0 (R122). The spec gives no layout for them: they travel as
Table 5.3 with the phase in its reserved bits, as record type 5 (DESIGN CHOICE, log entry 23). -/
def shareBytes (g : Image) (s : Slot) (sweep phase : Nat) : Bytes :=
  leBytes 8 (sweep + g.rank * 2 ^ 48 + phase % 1024 * 2 ^ 54) ++ sixteen 8 (ownSums s)

/-- A sweep-end record (Table 5.3). -/
def sumBytes (g : Image) (s : Slot) : Bytes :=
  leBytes 8 (s.ann.sweep + g.rank * 2 ^ 48) ++ sixteen 8 (ownSums s)

/-! ## Statistics and waypoints -/

/-- The writes of the statistics gathered so far (R157): (address, bytes). -/
def statWrites (g : Image) (p : RunParams) (pairs : List (Nat × Nat)) (a : Ann) : List (Nat × Bytes) :=
  ((pairs.zip (List.range pairs.length)).filterMap fun q =>
    let rows := a.pairs.getD q.2 []
    let bytes := (List.range 256).flatMap fun i => (List.range 256).flatMap fun j => intBytes 8 (geti (rows.getD i []) j)
    if g.home.contains q.1.1 then some (p.corrAddr + 524288 * q.2, bytes)
    else if windowCount g.n ≤ q.1.1 then some (p.corrAddr + 524288 * q.2, List.replicate 524288 0)
    else none) ++
  (g.home.zip a.moments).map fun q => (p.momAddr + 2048 * q.1, (List.range 256).flatMap fun r => intBytes 8 (geti q.2 r))

/-- The statistics of a CORRELATE are written to CORR_ADDR and MOM_ADDR, without any host request when `host` is false
(R275); nothing for another command. -/
def writeStats (e : Env) (d : Desk) (n : Fin 64) (c : Cmd) (g : Image) (a : Ann) (host : Bool) : Desk × Cmd :=
  if a.opcode = 0x18 then
    let ws := statWrites g (runParams a.opcode a.params) (cmdPairs c) a
    cmdWrites e d n c 3 (ws.filter fun w => host || !(addrOwn e w.1 && decide (hostBase ≤ addrDevice w.1)))
  else (d, c)

/-- The address of the host copy of a waypoint of ordinal `j`, if the packet names one (R194). -/
def copyAddr (g : Image) (p : RunParams) (j : Nat) : Option Nat :=
  if p.wpAddr = 0 ∨ p.wpSlots = 0 then none
  else some (p.wpAddr + j % p.wpSlots * (ceilDiv (waypointLen g) 4096 * 4096))

/-- A waypoint becomes whole on chip, is copied, and is recorded in the Ledger (R191 to R194, R200). -/
def takeWaypoint (e : Env) (d : Desk) (n : Fin 64) (c : Cmd) (g : Image) (a : Ann) (stop host : Bool) : Desk × Cmd :=
  let i := cmdSlot c
  let s := d.slots.at i
  let p := runParams a.opcode a.params
  let flags := b2n stop + 2 * b2n (a.opcode == 0x18)
  let d1 := updSlot d i fun s => { s with buffers := (a :: s.buffers).take 2 }
  let at_ := if host then copyAddr g p (if stop then a.wpCount else a.wpCount - 1) else none
  let r1 : Desk × Cmd := match at_ with
    | some x => cmdWrite e d1 n c 3 x (waypointBytes d i g s.gen a flags)
    | none => (d1, c)
  let r2 := writeStats e r1.1 n r1.2 g a host
  let d3 := ledgerWrite r2.1 2 i.val n.val 0 (pktQtag c.pkt) (pktPseq c.pkt)
    (leBytes 8 (annStep a) ++ leBytes 8 (wpDigest a).toNat ++ leBytes 8 (at_.getD 0) ++ leBytes 1 (b2n stop))
  (d3, if stop then { r2.2 with stopWp := true } else r2.2)

/-! ## Completion of a run -/

/-- The causes under which a run's waits are open to the model (R126): the paths its streaming tiles fetch over, and the waits
for other modules. -/
def waitCauses (g : Image) (tiles : List Nat) : List Nat :=
  (((List.range g.t).flatMap fun t => (streamedBlocks g t).map fun (i : Nat) =>
    let a : Nat := ((g.blocks[i]?).map fun (b : Block) => b.addr).getD 0
    match unitOf a with
    | some (.lp _) => 5
    | _ => if dieOf a = getn tiles t / 64 then 4 else 6) ++ (if g.m = 1 then [] else [7, 11])).eraseDups

/-- LIMIT of a run (R126, R218): of the two counts that the model keeps the larger, RESOLVER on a tie, COMPUTE where both are 0;
where the run also fetches or waits for other modules, that or one of those causes, by a free value (log entry 11). -/
def runLimit (g : Image) (c : Cmd) (d : Desk) : Nat × Desk :=
  let own := if c.resolverStall = 0 ∧ c.flipStall = 0 then 1 else if c.flipStall ≤ c.resolverStall then 2 else 3
  match waitCauses g c.tiles with
  | [] => (own, d)
  | l => pickFree d (own :: l)

/-- RESULT of a run (Table 9.18). -/
def runResult (s : Slot) (reason : Nat) : Bytes :=
  leBytes 8 (annStep s.ann) ++ intBytes 8 (geti s.ann.best s.winner) ++ leBytes 6 (getn s.ann.bestSweep s.winner) ++
  leBytes 1 s.winner ++ leBytes 1 0 ++ leBytes 2 (if reason = 3 then s.winPhase else 0xFFFF)

/-- The completion report (Table 9.19). -/
def runReport (s : Slot) (cycles : Nat) : Bytes :=
  counterBytes s.ann.counters ++ leBytes 8 s.ann.samples ++ leBytes 8 cycles ++ leBytes 8 s.stepStart ++
  leBytes 8 s.ann.wpChain.toNat ++ leBytes 4 s.ann.wpCount ++ List.replicate 20 0

/-- TIMED_CYCLES of a run (R86, R184): the exact count of a resident run on one die. A run that crosses dies or modules, or
fetches, takes at least that count: under fixed timing the excess is a function of the program, otherwise a free value (log
entry 11). -/
def timedCycles (d : Desk) (c : Cmd) (g : Image) : Nat × Desk :=
  if !spansDies c.tiles && g.m = 1 && streamCount g = 0 then (c.cycles, d)
  else if c.fixed then (satAdd 64 c.cycles (Config.waitCycles (c.pkt ++ leBytes 8 g.digest.toNat ++ c.sig)), d)
  else (satAdd 64 c.cycles (takeFree d).1, (takeFree d).2)

/-- The work of a run has ended with a status and a stop reason: what its entry reports is fixed. A run that ends at no stop
condition reports replica 0 as its winner (DESIGN CHOICE, log entry 63): the spec names a winner at stop conditions only. -/
def endRun (d : Desk) (n : Fin 64) (c : Cmd) (g : Image) (status reason : Nat) : Desk :=
  let s := d.slots.at (cmdSlot c)
  let t := timedCycles d c g
  let l := runLimit g c t.2
  let c' := { c with
    stage := .ended, status := status, stopReason := reason, result := runResult s reason
    digest := crc64 (replicaBytes (s.ann.bestSpins.getD s.winner [])), report := some (runReport s t.1), limit := l.1 }
  setCur (closeGroup l.2 c g s.ann) n (some c')

/-! ## Phases -/

/-- The windows that this module's tiles visit in the present phase. -/
def ownPhase (g : Image) (a : Ann) : List Nat := (List.range g.t).filterMap fun t => phaseEntry g a.phase t

/-- The boundaries with a test still to come. -/
def untested (s : Slot) : List Boundary := s.boundaries.filter fun b => !b.untested.isEmpty

/-- Whether the module's own tiles have visited in the present phase: the run is past its preemption point (R80). -/
def midPhase (g : Image) (s : Slot) : Bool := s.visited.any fun x => (ownPhase g s.ann).contains x.window

/-- Whether a visit may begin: the run has its fills (R117), the sweep end is done, no FIRSTWIN stop is out, and at most
one boundary awaits its test (R105 step 4). A phase that has begun is finished all the same: its other visits go on after the
stop (log entry 64). -/
def mayVisit (g : Image) (s : Slot) : Bool :=
  !s.sweepDue && fillsHeld s && (midPhase g s || (s.winPhase == 0xFFFF && decide ((untested s).length ≤ 1)))

/-- Windows that the mirrors of one die hold (R116). -/
def mirrorWindows : Nat := 32768

/-- The visit of one window by the run of SQ `n`, its notice sent to the other ranks (R73, R77, R78). Which dies of another
module have no room to mirror the window is not known here: its spins go with the notice where the job has more windows than
one die mirrors (log entry 61). -/
def deskVisit (e : Env) (d : Desk) (c : Cmd) (g : Image) (w : Nat) : Desk :=
  let i := cmdSlot c
  let s := d.slots.at i
  if mayVisit g s && (ownPhase g s.ann).contains w && !(s.visited.any fun x => x.window == w) then
    let s' := visitWindow g (slotParams s) s w
    let note := s'.visited.getLastD ⟨0, 0, [], 0, 0⟩
    let more := if mirrorWindows < windowCount g.n then toRanks e g 1 0 (overflowBytes i g s'.ann w) else []
    { updSlot d i (fun _ => s') with tx := d.tx ++ toRanks e g 0 0 (noticeBytes i s.ann note) ++ more }
  else d

/-- TCLK cycles of the broadcast of a phase (Table 3.5). -/
def broadcastCost (g : Image) (phase : Nat) (spans : Bool) : Nat :=
  let v := (phaseWindows g phase).length
  if v = 0 then 0 else ceilDiv (528 * v) 128 + (if spans then 40 else 0)

/-- TCLK cycles of the field updates of a phase: the longest of any tile (R86). -/
def updateCost (g : Image) (s : Slot) : Nat :=
  maxNat ((List.range g.t).map fun t =>
    sumNat ((g.blocks.filter fun b => g.tileOf b.row == t).map fun b =>
      blockCycles b.fmt * ((List.range 16).filter fun k =>
        s.visited.any fun x => x.window == b.col && x.rmask.getLsbD k).length))

/-- TCLK cycles of a phase (Table 3.5, R86). -/
def phaseCost (g : Image) (s : Slot) (spans : Bool) : Nat :=
  maxNat (s.visited.map (·.cost)) + (if spans then 60 else 20) + broadcastCost g s.ann.phase spans + updateCost g s

/-- The energies at a boundary inside a sweep, once every rank's sums for it are held (R105 step 2, R122): this rank's and the
others', in ascending rank order. -/
def boundaryEnergies (g : Image) (s : Slot) (b : Boundary) : Option (List Int) :=
  let share (r : Nat) : Option (List Int) :=
    if r = g.rank then some [] else (s.shares.find? fun x => x.rank == r && x.sweep == b.sweep && x.phase == b.phase).map (·.sums)
  if (List.range g.m).all fun r => (share r).isSome then
    some ((List.range 16).map fun k =>
      wrap64 (geti b.energies k + sumInt ((List.range g.m).map fun r => geti ((share r).getD []) k)))
  else none

/-- The boundary of the present phase of the run of SQ `n`, when every notice is held (R78, R79, R105 step 1). -/
def deskBoundary (e : Env) (d : Desk) (n : Fin 64) (c : Cmd) (g : Image) : Desk :=
  let i := cmdSlot c
  let s := d.slots.at i
  if s.sweepDue || !phaseHeld g s || !fillsHeld s then d
  else
    let spans := spansDies c.tiles
    let p := slotParams s
    let s1 := { phaseBoundary g s with fetched := [], primed := true }
    let c1 := { c with
      cycles := c.cycles + phaseCost g s spans
      resolverStall := c.resolverStall + sumNat (s.visited.map fun x => x.rho - 16)
      flipStall := c.flipStall + g.t * broadcastCost g s.ann.phase spans
      progressAt := d.now }
    let test := p.firstWin && !c.strict && !s1.sweepDue
    let lead := g.rank == 0
    let b : Boundary := ⟨s.ann.sweep, s.ann.phase, if lead then energiesNow g s1 else [], s1.ann.spins,
      if lead then List.range 16 else []⟩
    let kept := if lead then s1.boundaries else s1.boundaries.drop (s1.boundaries.length - 1)
    let s2 := if test then { s1 with boundaries := kept ++ [b] } else s1
    let d1 := setCur (updSlot d i fun _ => { s2 with point := if s2.sweepDue then s2.point else some s2.ann }) n (some c1)
    if s2.sweepDue then { d1 with tx := d1.tx ++ toRanks e g 0 1 (sumBytes g s2) }
    else if test && !lead then
      { d1 with tx := d1.tx ++ [ownMsg e 0 5 (getn g.modMap 0) g.jobKey (shareBytes g s2 s.ann.sweep s.ann.phase)] }
    else d1

/-! ## Sample records (R214) -/

/-- One sample record of replica k. -/
def sampleBytes (a : Ann) (k : Nat) : Bytes :=
  leBytes 8 (a.sweep + k * 2 ^ 48) ++ intBytes 8 (geti a.e k) ++ replicaBytes (a.spins.getD k [])

/-- The sample records due after a sweep: writes, and the count of records after them. -/
def sampleWrites (g : Image) (p : RunParams) (a : Ann) : List (Nat × Bytes) × Nat :=
  if p.op = 0x11 ∧ (a.sweep + 1) % p.sInterval = 0 then
    let ks := ((List.range 16).filter fun k => bit p.sMask k).take (p.sMax - a.samples)
    (((ks.zip (List.range ks.length)).map fun q =>
      (p.auxAddr + (a.samples + q.2) * (16 + 32 * g.home.length), sampleBytes a q.1)), a.samples + ks.length)
  else ([], a.samples)

/-! ## Sweep ends -/

/-- Whether a stop that has been asked for keeps a run from ending of itself: every one but a time slice. -/
def blocksEnd (k : Option Stop) : Bool :=
  match k with
  | none => false
  | some .slice => false
  | some _ => true

/-- Step 2 of R83: energies, samples, correlations, wanderlust. -/
def sweepTrack (g : Image) (p : RunParams) (c : Cmd) (s : Slot) : Ann :=
  let a0 := { s.ann with e := energiesNow g s }
  let a1 := if p.op = 0x18 && corrSweep p a0.sweep then correlate g p (cmdPairs c) { s with ann := a0 } else a0
  { wanderlust c.sched a1 with samples := if p.op = 0x11 then (sampleWrites g p a0).2 else a1.samples }

/-- TCLK cycles that correlation capture adds to a sampled sweep (R156): 256 for each pair and 1 for each window, on the tile
that holds most. -/
def captureCost (g : Image) (pairs : List (Nat × Nat)) : Nat :=
  maxNat ((List.range g.t).map fun t =>
    256 * (pairs.filter fun q => g.home.contains q.1 && g.tileOf q.1 == t).length +
      (g.home.filter fun w => g.tileOf w == t).length)

/-- The end of the present sweep of the run of SQ `n` (R83), once the last phase has ended and every rank's sums are
held (R121). A pending exchange of R84 is adopted by every tile of the module at this boundary, the first after it came (DESIGN
CHOICE, log entry 65). -/
def deskSweepEnd (e : Env) (d : Desk) (n : Fin 64) (c : Cmd) (g : Image) : Desk :=
  let i := cmdSlot c
  let s := d.slots.at i
  if !s.sweepDue || !sumsHeld g s || !(untested s).isEmpty || s.winPhase != 0xFFFF then d
  else
    let p := slotParams s
    let a0 := { s.ann with e := energiesNow g s }
    let w := if p.op = 0x11 then cmdWrites e d n c 3 (sampleWrites g p a0).1 else (d, c)
    let a1 := sweepTrack g p c s
    let reduce := if spansDies c.tiles then 72 else 24
    let capture := if p.op = 0x18 && corrSweep p s.ann.sweep then captureCost g (cmdPairs c) else 0
    let c1 := { w.2 with cycles := w.2.cycles + reduce + capture, progressAt := d.now }
    let next := (s.ann.sweep + 1) * g.phases.length
    let sums := s.rankSums.filter fun x => decide (a1.sweep < x.sweep)
    match stopTest p a1 with
    | some (reason, winner) =>
      let a2 := { a1 with sweep := a1.sweep + 1, phase := 0 }
      let d1 := updSlot w.1 i fun s => { s with
        ann := a2, sweepDue := false, winner := winner, rankSums := sums, point := some a2, fetched := [], primed := false }
      let r := writeStats e (openGroup d1 c1 g a2) n c1 g a2 true
      -- a stop taken before this point decides the status (R415)
      if blocksEnd r.2.stop then setCur r.1 n (some r.2)
      else endRun r.1 n r.2 g (if reason = 2 then stPlateau else stOk) reason
    | none =>
      let a2 := exchangeAtBarrier p s.betas a1
      let a3 := { a2 with sweep := a2.sweep + 1, phase := 0, pi := s.piNext.getD a2.pi }
      let due := 0 < a3.ckpt ∧ a3.sweep % a3.ckpt = 0
      let a4 := if due then
          let a := { a3 with wpCount := a3.wpCount + 1 }
          { a with wpChain := crc64 (leBytes 8 a.wpChain.toNat ++ leBytes 8 (wpDigest a).toNat) }
        else a3
      let d1 := updSlot w.1 i fun s => { s with
        ann := a4, sweepDue := false, rankSums := sums, piNext := none, betasPrev := s.betas
        betas := nextBetas c.sched a4, point := some a4, shares := s.shares.filter fun x => decide (a4.sweep ≤ x.sweep)
        visited := s.visited ++ ((s.early.filter fun x => x.1 == next && !(s.visited.any fun y => y.window == x.2.window)).map (·.2))
        early := s.early.filter fun x => decide (next < x.1) }
      let r := if due then takeWaypoint e (openGroup d1 c1 g a4) n c1 g a4 false true else (openGroup d1 c1 g a4, c1)
      let extra := (if a2.exch ≠ a1.exch then 16 else 0) +
        (if due then 576 + 64 * maxNat ((List.range g.t).map fun t => (g.home.filter fun x => g.tileOf x == t).length) else 0)
      setCur r.1 n (some { r.2 with cycles := r.2.cycles + extra })

/-! ## FIRSTWIN (R105) -/

/-- A FIRSTWIN stop takes hold when no tile is inside a phase: the run ends with stop reason 3, its statistics written (R157),
unless a terminal stop was taken first (R415). -/
def finishFirstWin (e : Env) (d : Desk) (n : Fin 64) (c : Cmd) (g : Image) : Desk :=
  let i := cmdSlot c
  let s := d.slots.at i
  if s.winPhase = 0xFFFF || midPhase g s || blocksEnd c.stop then d
  else
    let a := if s.sweepDue then { s.ann with sweep := s.ann.sweep + 1, phase := 0 } else s.ann
    let r := writeStats e (updSlot d i fun s => { s with ann := a, sweepDue := false }) n c g a true
    if blocksEnd r.2.stop then setCur r.1 n (some r.2) else endRun r.1 n r.2 g stOk 3

/-- A stop record of rank 0 (Table 12.7). -/
def stopBytes (sweep phase winner : Nat) : Bytes := leBytes 8 (stepCounter sweep phase) ++ leBytes 1 winner

/-- The test of replica k at the oldest untested boundary, once its sums are complete; a win is told to the other ranks (R105
steps 2, 3 and 5, R122). A terminal stop taken before decides the status, and nothing is tested after it (R415). -/
def boundaryTest (e : Env) (d : Desk) (n : Fin 64) (c : Cmd) (g : Image) (k : Nat) : Desk :=
  let i := cmdSlot c
  let s := d.slots.at i
  match s.boundaries with
  | [] => d
  | b :: rest =>
    match boundaryEnergies g s b with
    | none => d
    | some es =>
      if !b.untested.contains k || terminal c.stop then d
      else if (slotParams s).targetValid && decide (geti es k ≤ (slotParams s).target) then
        let a := { s.ann with
          best := s.ann.best.set k (geti es k), bestSweep := s.ann.bestSweep.set k b.sweep
          bestSpins := s.ann.bestSpins.set k (b.spins.getD k []) }
        let d1 := { d with tx := d.tx ++ toRanks e g 0 3 (stopBytes b.sweep b.phase k) }
        finishFirstWin e (updSlot d1 i fun s => { s with ann := a, boundaries := [], winner := k, winPhase := b.phase }) n c g
      else
        let left := b.untested.erase k
        updSlot d i fun s => { s with boundaries := if left.isEmpty then rest else { b with untested := left } :: rest }

/-- Every test of the oldest boundary, in ascending replica order. -/
def boundaryTests (e : Env) (d : Desk) (n : Fin 64) (g : Image) : Desk :=
  (List.range 16).foldl (fun d k => match (d.sqs.at n).cur with
    | some c => if c.stage == .working then boundaryTest e d n c g k else d
    | none => d) d

/-- Whether a run goes on: at work and not told to stop, or still short of the preemption point it is to stop at. -/
def goesOn (g : Image) (c : Cmd) (s : Slot) : Bool :=
  c.stage == .working && (c.stop.isNone || midPhase g s || s.sweepDue)

/-- The sweep end of a run that a FIRSTWIN stop has not ended. -/
def afterWin (e : Env) (d : Desk) (n : Fin 64) (g : Image) : Desk :=
  match (d.sqs.at n).cur with
  | some c => if c.stage == .working then deskSweepEnd e d n c g else d
  | none => d

/-- One phase of the run of SQ `n`: the visits of the module's tiles in ascending order, the boundary, the tests of
FIRSTWIN, and the end of the sweep when it is due. -/
def runPhase (e : Env) (d : Desk) (n : Fin 64) : Desk :=
  match (d.sqs.at n).cur with
  | none => d
  | some c =>
    match (d.slots.at (cmdSlot c)).image with
    | none => d
    | some g =>
      let s := d.slots.at (cmdSlot c)
      if !goesOn g c s then d
      else
        let d1 := if s.sweepDue then d else (ownPhase g s.ann).foldl (fun d w => deskVisit e d c g w) d
        let d2 := deskBoundary e d1 n c g
        let d3 := boundaryTests e d2 n g
        match (d3.sqs.at n).cur with
        | some c3 => if c3.stage == .working then afterWin e (finishFirstWin e d3 n c3 g) n g else d3
        | none => d3

/-! ## Stops at a preemption point (R415, R191, R195) -/

/-- The recovery point of a run (R348): its latest whole item. -/
def recoveryPoint (s : Slot) : Option Ann := s.buffers.head?.orElse fun _ => s.entryPoint

/-- The status that a terminal stop gives (R415). -/
def stopStatus (k : Stop) : Nat :=
  match k with
  | .abort => stAborted
  | .suspend _ => stOk
  | .departure => stGone
  | .rankGone => stGone
  | .hang => stHung
  | .windowFault => stWindow
  | .timing => stTiming
  | .dataLost => stDataLost
  | .lastSpare => stGeometry
  | .slice => stOk
  | .replay => stOk

/-- The exchanges of R84 done by the end of a sweep, from the exchange count of an annealing state: they follow each other every
RX_INTERVAL sweeps. -/
def rxDoneOf (a : Ann) : Nat :=
  let p := runParams a.opcode a.params
  if p.rxMode = 2 then (p.base / p.rxInterval + a.exch) * p.rxInterval else 0

/-- A slot returns to an annealing state: spins, energies and counters restored, mirrors filled, fields rebuilt
(R348, R106). The fetch buffers are empty (R114). Boundaries of FIRSTWIN still untested are dropped (DESIGN CHOICE, log entry
66). -/
def restoreAnn (g : Image) (c : Cmd) (s : Slot) (a : Ann) : Slot :=
  let s1 := fillMirror g { s with
    ann := a, visited := [], early := [], spinRecs := [], sweepDue := false, boundaries := [], rankSums := [], shares := []
    piNext := none, rxDone := rxDoneOf a, winPhase := 0xFFFF, betas := nextBetas c.sched a, point := some a, fetched := [], primed := false }
  rebuildFields g s1

/-- A run that has begun stops for good: its stop waypoint, its suspension record, what its entry reports. A run that met
a fault stops at its recovery point (R191, R352). -/
def stopRun (e : Env) (d : Desk) (n : Fin 64) (c : Cmd) (g : Image) (k : Stop) : Desk :=
  let i := cmdSlot c
  let s := d.slots.at i
  let back := c.fault || k == .dataLost || k == .lastSpare
  let src : Option Ann := if back then recoveryPoint s else some s.ann
  match src with
  | none =>
    -- no recovery point is whole: no stop waypoint, and the statistics as they stand (R157, R191)
    let r := writeStats e d n c g s.ann (k != .windowFault)
    endRun r.1 n { r.2 with stop := c.stop } g (stopStatus k) 0
  | some a =>
    let d1 := if back then updSlot d i fun s => restoreAnn g c s a else d
    let r := takeWaypoint e d1 n c g a true (k != .windowFault)
    let record := match k with
      | .suspend _ => true
      | .timing => true
      | _ => false
    let q := if back then (none, rxDoneOf a, []) else (s.piNext, s.rxDone, s.betasPrev)
    let d2 := if record then updSlot r.1 i fun s => { s with
      susp := some ⟨a, c.sched, s.gen, q.1, q.2.1, q.2.2⟩, suspLost := false } else r.1
    -- the copy's own window fault comes after the first terminal stop and changes nothing (R415)
    endRun d2 n { r.2 with stop := c.stop } g (stopStatus k) (match k with | .suspend _ => 4 | _ => 0)

end Sys2Proof.Machine
end

