-- ==== Sys2Proof/Machine/Place.lean ====
section
/-!
DEFINITION. Allotments of logical tiles (R221) and serviceable geometries (R355).
-/
namespace Sys2Proof.Machine

/-- Whether a logical tile is serviceable (R355, R360): none is while a trip is latched (R339). -/
def tileServed (g : Grade) (d : Desk) (l : Nat) : Bool :=
  !d.tripLatched && decide (l / 64 < gradeDies g) && !d.tiles.disabled.at (fin 4 (l / 64)) && (d.tiles.serves.at (fin 256 l)).isSome

/-- Whether another submission queue holds a logical tile in its allotment. -/
def tileHeld (d : Desk) (n : Fin 64) (l : Nat) : Bool :=
  (List.range 64).any fun m => m != n.val && (d.sqs.at (fin 64 m)).allot.contains l

/-- The candidate tiles of a die: `keep` says which may be used. -/
def dieTiles (keep : Nat → Bool) (die : Nat) : List Nat := ((List.range 64).map fun i => 64 * die + i).filter keep

/-- `k` tiles out of `free`: those that satisfy `pref` first, then the lowest-numbered, in ascending order. -/
def chooseTiles (free : List Nat) (pref : Nat → Bool) (k : Nat) : List Nat :=
  let take := ((free.filter pref) ++ (free.filter fun l => !pref l)).take k
  free.filter fun l => take.contains l

/-- The placement of T tiles of R221 step 2 among the tiles that `keep` admits. -/
def placeTiles (keep pref : Nat → Bool) (t : Nat) : Option (List Nat) :=
  let dies := List.range 4
  if t ≤ 64 then
    (dies.find? fun k => decide (t ≤ (dieTiles keep k).length)).map fun k => chooseTiles (dieTiles keep k) pref t
  else
    let whole := ceilDiv t 64 - 1
    let last := t - 64 * whole
    let full := (dies.filter fun k => (dieTiles keep k).length == 64).take whole
    if full.length < whole then none
    else
      (dies.find? fun k => !full.contains k && decide (last ≤ (dieTiles keep k).length)).map fun k =>
        full.flatMap (dieTiles keep) ++ chooseTiles (dieTiles keep k) (fun _ => false) last

/-- Whether a geometry of T tiles is serviceable: it could be placed with no other job running (R355). -/
def serviceable (g : Grade) (d : Desk) (t : Nat) : Bool := (placeTiles (tileServed g d) (fun _ => false) t).isSome

/-- Whether a tile holds the state of a slot's current generation (R221). -/
def tileHolds (d : Desk) (slot : Option (Fin 64)) (l : Nat) : Bool :=
  match slot with
  | none => false
  | some i => (d.tiles.holds.at (fin 256 l)).any fun h => h.slot == i && h.gen == (d.slots.at i).gen

/-- The tiles of T that SQ `n` would run on: its allotment, or a placement on free tiles (R221 steps 1 and 2). -/
def allotFor (g : Grade) (d : Desk) (n : Fin 64) (slot : Option (Fin 64)) (t : Nat) : Option (List Nat) :=
  if (d.sqs.at n).allot.length = t then some (d.sqs.at n).allot
  else placeTiles (fun l => tileServed g d l && !tileHeld d n l) (tileHolds d slot) t

/-- T of a command's allotment: the geometry it names or that of its slot, T of a tensor command, and for a data or
problem command the present allotment or one tile (R221). -/
def cmdGeometry (d : Desk) (n : Fin 64) (o : Op) (p : Bytes) : Nat :=
  let cur := max 1 (d.sqs.at n).allot.length
  match o with
  | .commitProblem => if field p 24 4 = 0 then cur else field p 20 2
  | .coupleOut => field p 20 2
  | .matmul | .conv2d | .attend | .vectorOp | .reduce => field p 48 2
  | .anneal | .sample | .correlate | .resume | .readState | .tileLoad | .tileStore => (d.slots.at (pktSlot p)).t
  | _ => cur

end Sys2Proof.Machine
end

