-- ==== Sys2Proof/Machine/Fp.lean ====
section
/-!
DEFINITION. Number formats (Table 6.1) and their arithmetic: exact values, binary32 with round_half_even (R130,
R142), conversions (Table 6.2), the MX block rule (R129) and the compensated sums of R166.
-/
namespace Sys2Proof.Machine

/-- The exact value of a tensor element: NaN, an infinity, or ±m·2^e (a zero keeps its sign). -/
inductive Num where
  | nan
  | inf (neg : Bool)
  | fin (neg : Bool) (m : Nat) (e : Int)
deriving DecidableEq, Repr

/-- 2^e as a quotient of naturals. -/
def pow2 (e : Int) : Nat × Nat := if 0 ≤ e then (2 ^ e.toNat, 1) else (1, 2 ^ (-e).toNat)

/-- +0. -/
def Num.zero : Num := .fin false 0 0

/-- An integer as an exact value. -/
def Num.ofInt (v : Int) : Num := .fin (decide (v < 0)) v.natAbs 0

/-- Whether the value is NaN. -/
def Num.isNan : Num → Bool
  | .nan => true
  | _ => false

/-- Whether the value is finite. -/
def Num.isFinite : Num → Bool
  | .fin _ _ _ => true
  | _ => false

/-- The exact product (R135: infinity times zero is NaN). -/
def Num.mul : Num → Num → Num
  | .nan, _ => .nan
  | _, .nan => .nan
  | .inf a, .inf b => .inf (a != b)
  | .inf a, .fin b m _ => if m = 0 then .nan else .inf (a != b)
  | .fin a m _, .inf b => if m = 0 then .nan else .inf (a != b)
  | .fin a m e, .fin b n f => .fin (a != b) (m * n) (e + f)

/-- The exact sum. A zero sum of values that are not all −0 is +0, as round_half_even has it. -/
def Num.add : Num → Num → Num
  | .nan, _ => .nan
  | _, .nan => .nan
  | .inf a, .inf b => if a = b then .inf a else .nan
  | .inf a, .fin _ _ _ => .inf a
  | .fin _ _ _, .inf b => .inf b
  | .fin a m e, .fin b n f =>
    let g := min e f
    let x : Int := (if a then -1 else 1) * ((m * 2 ^ (e - g).toNat : Nat) : Int)
    let y : Int := (if b then -1 else 1) * ((n * 2 ^ (f - g).toNat : Nat) : Int)
    let s := x + y
    if s = 0 then .fin (a && b && m == 0 && n == 0) 0 g else .fin (decide (s < 0)) s.natAbs g

/-- The negated value. -/
def Num.neg : Num → Num
  | .nan => .nan
  | .inf a => .inf (!a)
  | .fin a m e => .fin (!a) m e

/-- The magnitude. -/
def Num.abs : Num → Num
  | .nan => .nan
  | .inf _ => .inf false
  | .fin _ m e => .fin false m e

/-- The value scaled by 2^s. -/
def Num.scale (s : Int) : Num → Num
  | .fin a m e => .fin a m (e + s)
  | x => x

/-- The order of R170: infinities at the ends, −0 below +0; NaN is below nothing. -/
def Num.lt : Num → Num → Bool
  | .nan, _ => false
  | _, .nan => false
  | .inf a, .inf b => a && !b
  | .inf a, .fin _ _ _ => a
  | .fin _ _ _, .inf b => !b
  | .fin a m e, .fin b n f =>
    let g := min e f
    let x : Int := (if a then -1 else 1) * ((m * 2 ^ (e - g).toNat : Nat) : Int)
    let y : Int := (if b then -1 else 1) * ((n * 2 ^ (f - g).toNat : Nat) : Int)
    decide (x < y) || (x == y && x == 0 && a && !b)

/-- floor(log2(num/den)) of a positive quotient. -/
def ilog2 (num den : Nat) : Int :=
  let l : Int := (Nat.log2 num : Int) - (Nat.log2 den : Int)
  let p := pow2 l
  if num * p.2 < den * p.1 then l - 1 else l

/-- A quotient rounded to `p` significant bits with no unit below 2^qmin: (m, q) for m·2^q, round_half_even. -/
def roundSig (p : Nat) (qmin : Int) (num den : Nat) : Nat × Int :=
  if num = 0 then (0, qmin) else
  let q := max qmin (ilog2 num den - ((p : Int) - 1))
  let t := pow2 q
  (rheNat (num * t.2) (den * t.1), q)

/-- A binary float format: exponent bits, fraction bits. -/
structure Fmt where
  ebits : Nat
  mbits : Nat
deriving DecidableEq, Repr

/-- The exponent bias. -/
def Fmt.bias (f : Fmt) : Int := ((2 ^ (f.ebits - 1) : Nat) : Int) - 1

/-- The unit of the subnormals. -/
def Fmt.qmin (f : Fmt) : Int := 1 - f.bias - (f.mbits : Int)

/-- binary32, BF16, E4M3, E5M2 and E2M1 (Table 6.1). -/
def f32 : Fmt := ⟨8, 23⟩
def bf16 : Fmt := ⟨8, 7⟩
def e4m3 : Fmt := ⟨4, 3⟩
def e5m2 : Fmt := ⟨5, 2⟩
def e2m1 : Fmt := ⟨2, 1⟩

/-- The code of m·2^q in a format, without range check: `m` has at most mbits + 2 bits. -/
def Fmt.pack (f : Fmt) (neg : Bool) (m : Nat) (q : Int) : Nat :=
  let sign := if neg then 2 ^ (f.ebits + f.mbits) else 0
  let m' := if 2 ^ (f.mbits + 1) ≤ m then m / 2 else m
  let q' := if 2 ^ (f.mbits + 1) ≤ m then q + 1 else q
  if m' < 2 ^ f.mbits then sign + m'
  else sign + (q' - f.qmin + 1).toNat * 2 ^ f.mbits + (m' - 2 ^ f.mbits)

/-- The exact value of a code whose exponent field is not special. -/
def Fmt.value (f : Fmt) (c : Nat) : Num :=
  let neg := bit c (f.ebits + f.mbits)
  let e := bits c f.mbits f.ebits
  let m := bits c 0 f.mbits
  if e = 0 then .fin neg m f.qmin else .fin neg (m + 2 ^ f.mbits) (f.qmin + (e : Int) - 1)

/-- The exact value of a binary32 word. -/
def Num.of32 (w : Word) : Num :=
  let c := w.toNat
  if bits c 23 8 = 255 then (if bits c 0 23 = 0 then .inf (bit c 31) else .nan) else f32.value c

/-- The canonical NaN (R130). -/
def nan32 : Word := 0x7FC00000#32

/-- A positive quotient rounded to binary32, with its sign. -/
def ratTo32 (neg : Bool) (num den : Nat) : Word :=
  let r := roundSig 24 (-149) num den
  if 2 ^ 24 * (pow2 104).1 ≤ r.1 * (pow2 (r.2)).1 / (pow2 (r.2)).2 then
    (if neg then 0xFF800000#32 else 0x7F800000#32)
  else BitVec.ofNat 32 (f32.pack neg r.1 r.2)

/-- The binary32 word nearest an exact value, ties to even: fp32_rne of R136. A value beyond the binary32 range, as an MX element may
have (R130 calls its conversion exact, and binary32 has no such value), becomes infinity of its sign (DESIGN CHOICE, log entry 71). -/
def Num.to32 : Num → Word
  | .nan => nan32
  | .inf neg => if neg then 0xFF800000#32 else 0x7F800000#32
  | .fin neg m e => ratTo32 neg (m * (pow2 e).1) (pow2 e).2

/-- binary32 addition (R142). -/
def fadd (a b : Word) : Word := (Num.add (.of32 a) (.of32 b)).to32

/-- binary32 subtraction. -/
def fsub (a b : Word) : Word := (Num.add (.of32 a) (Num.neg (.of32 b))).to32

/-- binary32 multiplication. -/
def fmul (a b : Word) : Word := (Num.mul (.of32 a) (.of32 b)).to32

/-- The sign bit. -/
def fneg (a : Word) : Bool := a.getLsbD 31

/-- Whether a word is NaN. -/
def fisNan (a : Word) : Bool := (Num.of32 a).isNan

/-- Whether a word is a zero of either sign. -/
def fisZero (a : Word) : Bool := (a &&& 0x7FFFFFFF#32) == 0

/-- Whether a word is finite. -/
def fisFinite (a : Word) : Bool := (Num.of32 a).isFinite

/-- binary32 division (R142). -/
def fdiv (a b : Word) : Word :=
  match Num.of32 a, Num.of32 b with
  | .nan, _ => nan32
  | _, .nan => nan32
  | .inf _, .inf _ => nan32
  | .inf x, .fin y _ _ => (Num.inf (x != y)).to32
  | .fin x _ _, .inf y => if x != y then 0x80000000#32 else 0#32
  | .fin x m e, .fin y n f =>
    if n = 0 then (if m = 0 then nan32 else (Num.inf (x != y)).to32)
    else
      let t := pow2 (e - f)
      ratTo32 (x != y) (m * t.1) (n * t.2)

/-- rsqrt: the word nearest 1/√x (R142); for ±0 and below, an open value. -/
def frsqrt (a : Word) : Word :=
  match Num.of32 a with
  | .nan => nan32
  | .inf neg => if neg then Config.rsqrtOpen a else 0#32
  | .fin neg m e =>
    if m = 0 || neg then Config.rsqrtOpen a
    else
      -- s = floor(2^400/√x), one half added when it is not exact, so that the rounding below is correct
      let t := pow2 (800 - e)
      let n := t.1 / (m * t.2)
      let s := isqrt 520 n 0
      let exact : Bool := decide (s * s * m * t.2 = t.1)
      ratTo32 false (2 * s + (if exact then 0 else 1)) (2 ^ 401)

/-- An exact finite value in fixed point (exact above 2^−realBits). -/
def Num.toFix : Num → Int
  | .fin neg m e =>
    let t := pow2 (e + (realBits : Int))
    (if neg then -1 else 1) * ((m * t.1 / t.2 : Nat) : Int)
  | _ => 0

/-- exp (R142). -/
def fexp (a : Word) : Word :=
  match Num.of32 a with
  | .nan => nan32
  | .inf neg => if neg then 0#32 else 0x7F800000#32
  | .fin neg m e =>
    let x := (Num.fin neg m e).toFix
    if (200 * realOne : Nat) < x.natAbs then (if neg then 0#32 else 0x7F800000#32)
    else
      let p := expFix x
      let t := pow2 (p.2 - (realBits : Int))
      ratTo32 false (p.1 * t.1) t.2

/-- The sigmoid 1/(1 + e^−x), rounded once (R142). -/
def fsigmoid (a : Word) : Word :=
  match Num.of32 a with
  | .nan => nan32
  | .inf neg => if neg then 0#32 else 0x3F800000#32
  | .fin neg m e =>
    let x := (Num.fin neg m e).toFix
    if (200 * realOne : Nat) < x.natAbs then (if neg then 0#32 else 0x3F800000#32)
    else
      -- E/(1 + E) with E = e^x = p.1·2^p.2 in fixed point
      let p := expFix x
      let t := pow2 p.2
      ratTo32 false (p.1 * t.1) (p.1 * t.1 + realOne * t.2)

/-- tanh, rounded once (R142): (e^2x − 1)/(e^2x + 1). -/
def ftanh (a : Word) : Word :=
  match Num.of32 a with
  | .nan => nan32
  | .inf neg => if neg then 0xBF800000#32 else 0x3F800000#32
  | .fin neg m e =>
    let x := ((Num.fin false m e).toFix).toNat
    if m = 0 then (if neg then 0x80000000#32 else 0#32)
    else if 50 * realOne < x then (if neg then 0xBF800000#32 else 0x3F800000#32)
    else
      let p := expFix ((2 * x : Nat) : Int)
      let t := p.1 * 2 ^ p.2.toNat
      ratTo32 neg (t - realOne) (t + realOne)

/-- erf, rounded once (R142). -/
def ferf (a : Word) : Word :=
  match Num.of32 a with
  | .nan => nan32
  | .inf neg => if neg then 0xBF800000#32 else 0x3F800000#32
  | .fin neg m e =>
    let x := ((Num.fin false m e).toFix).toNat
    if m = 0 then (if neg then 0x80000000#32 else 0#32)
    else if 6 * realOne < x then (if neg then 0xBF800000#32 else 0x3F800000#32)
    else
      let s := (erfSeries (x * x / realOne)).toNat
      let t := pow2 e
      ratTo32 neg (twoOverSqrtPi * s * m * t.1) (realOne * realOne * t.2)

/-- MAX of Table 6.5, with the order of R170 for zeros. -/
def fmax (a b : Word) : Word :=
  if fisNan a || fisNan b then nan32
  else if Num.lt (.of32 a) (.of32 b) then b else a

/-- MIN of Table 6.5. -/
def fmin (a b : Word) : Word :=
  if fisNan a || fisNan b then nan32
  else if Num.lt (.of32 b) (.of32 a) then b else a

/-- RELU of Table 6.5. -/
def frelu (a : Word) : Word := if fisNan a then nan32 else if Num.lt (.of32 a) .zero then 0#32 else a

/-- GELU of Table 6.5. -/
def fgelu (a : Word) : Word :=
  fmul (fmul 0x3F000000#32 a) (fadd 0x3F800000#32 (ferf (fmul a 0x3F3504F3#32)))

/-- SILU of Table 6.5. -/
def fsilu (a : Word) : Word := fmul a (fsigmoid a)

/-! ## Compensated sums (R166) -/

/-- A MODE 0 lane word, with the count of its terms (R164). -/
structure Lane where
  s : Word
  c : Word
  terms : Nat
deriving DecidableEq, Repr

/-- The empty group (R163). -/
def Lane.empty : Lane := ⟨0, 0, 0⟩

/-- add_term of R166. -/
def Lane.addTerm (g : Lane) (x : Word) : Lane :=
  let t := fadd g.s x
  let c :=
    if fisFinite g.s && fisFinite x && fisFinite t then
      let e := if Num.lt (Num.abs (.of32 g.s)) (Num.abs (.of32 x)) then fadd (fsub x t) g.s else fadd (fsub g.s t) x
      fadd g.c e
    else g.c
  ⟨t, c, g.terms + 1⟩

/-- group_value of R166. -/
def Lane.value (g : Lane) : Word := if fisFinite g.s then fadd g.s g.c else g.s

/-- scale_group of R166. -/
def Lane.scaleBy (g : Lane) (a : Word) : Lane := ⟨fmul g.s a, fmul g.c a, g.terms⟩

/-- Whether the group has set ACC_LONG (R164). -/
def Lane.long (g : Lane) : Bool := decide (2 ^ 24 < g.terms)

/-! ## Formats (Table 6.1) -/

/-- Bits of an element of each FMT code. -/
def fmtBits (f : Nat) : Nat :=
  match f with
  | 0 => 2 | 1 => 4 | 2 => 4 | 3 => 8 | 4 => 8 | 5 => 8 | 6 => 8 | 7 => 16 | 8 => 32 | 9 => 16 | 10 => 32 | 11 => 64
  | 12 => 8 | 13 => 16 | 14 => 1 | _ => 0

/-- Whether a format has shared scales. -/
def fmtMx (f : Nat) : Bool := f == 2 || f == 3 || f == 4

/-- Whether a format is an integer or SPIN format (R135, R143). -/
def fmtInteger (f : Nat) : Bool := f == 0 || f == 1 || (9 ≤ f && f ≤ 14)

/-- Whether the field array takes a format (Table 6.1). -/
def fmtArray (f : Nat) : Bool := decide (f ≤ 7) || f == 14

/-- Pass cycles c of an array format (Table 6.1). -/
def fmtCycles (f : Nat) : Nat :=
  match f with
  | 0 => 1 | 14 => 1 | 1 => 2 | 2 => 2 | 3 => 4 | 4 => 4 | 5 => 4 | 6 => 4 | _ => 8

/-- The element format of the float element codes. -/
def elemFmt (f : Nat) : Fmt :=
  match f with
  | 2 => e2m1 | 3 => e4m3 | 5 => e4m3 | 4 => e5m2 | 6 => e5m2 | 7 => bf16 | _ => f32

/-- The exact value of an element code (R127, R128); `scale` is the E8M0 code of its block, used by MX formats. -/
def elemValue (f code scale : Nat) : Num :=
  match f with
  | 0 => .ofInt (signed 2 code)
  | 1 => .ofInt (signed 4 code)
  | 9 => .ofInt (signed 16 code)
  | 10 => .ofInt (signed 32 code)
  | 11 => .ofInt (signed 64 code)
  | 12 => .ofInt (code % 256 : Nat)
  | 13 => .ofInt (code % 65536 : Nat)
  | 14 => .ofInt (if bit code 0 then 1 else -1)
  | _ =>
    let fm := elemFmt f
    let v : Num :=
      if f = 2 then fm.value code
      else if f = 3 || f = 5 then (if code % 128 = 127 then .nan else fm.value code)
      else if bits code fm.mbits fm.ebits = 2 ^ fm.ebits - 1 then
        (if bits code 0 fm.mbits = 0 then .inf (bit code (fm.ebits + fm.mbits)) else .nan)
      else fm.value code
    if fmtMx f then (if scale = 255 then .nan else v.scale ((scale : Int) - 127)) else v

/-- An element as FP32 (R130). -/
def elemTo32 (f code scale : Nat) : Word := (elemValue f code scale).to32

/-- The largest finite magnitude of an element format, as a code without sign. -/
def fmtLargest (f : Nat) : Nat :=
  match f with
  | 2 => 7 | 3 => 0x7E | 5 => 0x7E | 4 => 0x7B | 6 => 0x7B | _ => 0x7F7F

/-- A finite magnitude num/den rounded to an element format, saturating to its largest finite magnitude. -/
def roundElem (f : Nat) (neg : Bool) (num den : Nat) : Nat :=
  let fm := elemFmt f
  let r := roundSig (fm.mbits + 1) fm.qmin num den
  let c := fm.pack false r.1 r.2
  let sign := if neg then 2 ^ (fm.ebits + fm.mbits) else 0
  sign + min c (fmtLargest f)

/-- An FP32 value rounded half to even to an integer and saturated to [lo, hi] (Table 6.2). -/
def toIntSat (lo hi : Int) (w : Word) : Int :=
  match Num.of32 w with
  | .nan => 0
  | .inf neg => if neg then lo else hi
  | .fin neg m e =>
    let t := pow2 e
    let v : Int := (rheNat (m * t.1) t.2 : Int)
    max lo (min hi (if neg then -v else v))

/-- Conversion from FP32 into a format that is not MX (Table 6.2), as an element code. -/
def convertElem (f : Nat) (w : Word) : Nat :=
  let int (b : Nat) : Nat :=
    unsigned b (toIntSat (-((2 ^ (b - 1) : Nat) : Int)) (((2 ^ (b - 1) : Nat) : Int) - 1) w)
  match f with
  | 0 => int 2
  | 1 => int 4
  | 9 => int 16
  | 10 => int 32
  | 11 => int 64
  | 12 => (toIntSat 0 255 w).toNat
  | 13 => (toIntSat 0 65535 w).toNat
  | 14 => if fisNan w then 1 else if fneg w && !fisZero w then 0 else 1
  | 7 =>
    match Num.of32 w with
    | .nan => 0x7FC0
    | .inf neg => if neg then 0xFF80 else 0x7F80
    | .fin neg m e =>
      let t := pow2 e
      let r := roundSig 8 bf16.qmin (m * t.1) t.2
      min (bf16.pack false r.1 r.2) 0x7F80 + (if neg then 0x8000 else 0)
  | 5 | 6 =>
    match Num.of32 w with
    | .nan => if f = 5 then 0x7F else 0x7E
    | .inf neg => fmtLargest f + (if neg then 0x80 else 0)
    | .fin neg m e => let t := pow2 e; roundElem f neg (m * t.1) t.2
  | _ => if fisNan w then nan32.toNat else w.toNat

/-- emax of an MX element format (R129). -/
def mxEmax (f : Nat) : Int := if f = 2 then 2 else if f = 3 then 8 else 15

/-- An MX block of up to 32 FP32 values: the scale code and the element codes (R129). -/
def convertMx (f : Nat) (vs : List Word) : Nat × List Nat :=
  let ns := vs.map Num.of32
  if ns.any (fun v => !v.isFinite) then (255, vs.map (fun _ => 0))
  else
    let amax := ns.foldl (fun a v => if Num.lt a v.abs then v.abs else a) .zero
    match amax with
    | .fin _ m e =>
      if m = 0 then (0, vs.map (fun _ => 0))
      else
        let x := max (-127) (min 127 (ilog2 (m * (pow2 e).1) (pow2 e).2 - mxEmax f))
        ((x + 127).toNat, ns.map (fun v => match v with
          | .fin neg m e => let t := pow2 (e - x); roundElem f neg (m * t.1) t.2
          | _ => 0))
    | _ => (255, vs.map (fun _ => 0))

end Sys2Proof.Machine
end

