-- ==== Sys2Proof/Machine/Tensor.lean ====
section
/-!
DEFINITION. Tensor descriptors (Table 6.3): their fields, the bytes they reach (R132, R133), and the shapes each
operation asks of them (R137 to R143, R149, R173).
-/
namespace Sys2Proof.Machine

/-- A tensor descriptor (Table 6.3). -/
structure Tensor where
  addr : Nat
  scaleAddr : Nat
  fmt : Nat
  tscale : Word
  d0 : Nat
  d1 : Nat
  d2 : Nat
  d3 : Nat
  s1 : Nat
  s2 : Nat
  s3 : Nat
deriving DecidableEq, Repr

/-- The descriptor in 64 bytes. -/
def tensorOf (b : Bytes) : Tensor :=
  ⟨field b 0 8, field b 8 8, field b 16 4 % 16, BitVec.ofNat 32 (field b 20 4), field b 24 4, field b 28 4, field b 32 4,
   field b 36 4, field b 40 8, field b 48 8, field b 56 8⟩

/-- Bytes of one row (R132). -/
def Tensor.rowLen (x : Tensor) : Nat := ceilDiv (x.d0 * fmtBits x.fmt) 8

/-- Rows of the tensor: e1 fastest, then e2, then e3. -/
def Tensor.rows (x : Tensor) : Nat := x.d1 * x.d2 * x.d3

/-- (e1, e2, e3) of row `r` in logical order. -/
def Tensor.coords (x : Tensor) (r : Nat) : Nat × Nat × Nat := (r % x.d1, r / x.d1 % x.d2, r / (x.d1 * x.d2))

/-- Row base of R132. -/
def Tensor.rowAddr (x : Tensor) (e1 e2 e3 : Nat) : Nat := x.addr + e1 * x.s1 + e2 * x.s2 + e3 * x.s3

/-- Shared scales of one row. -/
def Tensor.rowScales (x : Tensor) : Nat := if fmtMx x.fmt then ceilDiv x.d0 32 else 0

/-- Address of the scales of a row (R132). -/
def Tensor.scaleRow (x : Tensor) (e1 e2 e3 : Nat) : Nat :=
  x.scaleAddr + ((e3 * x.d2 + e2) * x.d1 + e1) * ceilDiv x.d0 32

/-- The checks of R133 on the descriptor itself, RSVD fields included (R14). -/
def tensorForm (b : Bytes) : Bool :=
  let x := tensorOf b
  x.fmt != 15 && field b 16 4 / 16 == 0 && (fmtMx x.fmt || x.scaleAddr == 0) &&
  x.d0 != 0 && x.d1 != 0 && x.d2 != 0 && x.d3 != 0 &&
  x.addr % 32 == 0 && x.s1 % 32 == 0 && x.s2 % 32 == 0 && x.s3 % 32 == 0 && decide (x.rowLen ≤ x.s1)

/-- The bytes a descriptor reaches, against the address map (R133): the whole span first, row by row otherwise. -/
def tensorVerdict (e : Env) (d : Desk) (port : Fin 4) (write : Bool) (x : Tensor) : Verdict :=
  let span := (x.d1 - 1) * x.s1 + (x.d2 - 1) * x.s2 + (x.d3 - 1) * x.s3 + x.rowLen
  let rows :=
    if rangeVerdict e d port write x.addr span = .ok then .ok
    else worst ((List.range x.rows).map fun r =>
      let c := x.coords r
      rangeVerdict e d port write (x.rowAddr c.1 c.2.1 c.2.2) x.rowLen)
  let scales := if fmtMx x.fmt then rangeVerdict e d port write x.scaleAddr (x.rows * ceilDiv x.d0 32) else .ok
  rows.both scales

/-- The bytes of a tensor in memory, scales included. -/
def Tensor.size (x : Tensor) : Nat := x.rows * (x.rowLen + x.rowScales)

/-- Whether both operands make an integer group (R135). -/
def integerPair (a b : Tensor) : Bool := fmtInteger a.fmt && fmtInteger b.fmt

/-- A BIAS tensor: FP32 of `n` elements (R139). -/
def biasShape (x : Option Tensor) (n : Nat) : Bool :=
  match x with
  | none => true
  | some b => b.fmt == 8 && b.d0 == n && b.d1 == 1 && b.d2 == 1 && b.d3 == 1

/-- ADD over an integer group needs an integer output (R137). -/
def addShape (add : Bool) (a b c : Tensor) : Bool := !add || !integerPair a b || c.fmt == 10 || c.fmt == 11

/-- MATMUL's shapes (R139). -/
def matmulShape (add : Bool) (a b c : Tensor) (bias : Option Tensor) : Bool :=
  fmtArray a.fmt && fmtArray b.fmt && a.d0 == b.d0 && c.d0 == b.d1 && c.d1 == a.d1 && a.d2 == c.d2 && a.d3 == c.d3 &&
  ((b.d2 == 1 && b.d3 == 1) || (b.d2 == a.d2 && b.d3 == a.d3)) && biasShape bias b.d1 && addShape add a b c

/-- The parameters of a CONV2D (Table 9.13). -/
structure Conv where
  sh : Nat
  sw : Nat
  dl : Nat
  pt : Nat
  pb : Nat
  pl : Nat
  pr : Nat
  g : Nat
deriving DecidableEq, Repr

/-- CONV2D's parameters from its packet. -/
def convOf (p : Bytes) : Conv :=
  ⟨field p 64 1, field p 65 1, field p 66 1, field p 67 1, field p 68 1, field p 69 1, field p 70 1, field p 72 4⟩

/-- CONV2D's parameter ranges (R140). -/
def convRange (c : Conv) : Bool :=
  1 ≤ c.sh && c.sh ≤ 8 && 1 ≤ c.sw && c.sw ≤ 8 && 1 ≤ c.dl && c.dl ≤ 8 && c.pt ≤ 15 && c.pb ≤ 15 && c.pl ≤ 15 &&
  c.pr ≤ 15 && 1 ≤ c.g

/-- One output extent of R140. -/
def convOut (n p0 p1 dl k s : Nat) : Int := ((n : Int) + p0 + p1 - dl * ((k : Int) - 1) - 1) / (s : Int) + 1

/-- CONV2D's shapes (R140). -/
def convShape (add : Bool) (c : Conv) (x w o : Tensor) (bias : Option Tensor) : Bool :=
  fmtArray x.fmt && fmtArray w.fmt && x.d0 % c.g == 0 && w.d3 % c.g == 0 && w.d0 == x.d0 / c.g && o.d0 == w.d3 &&
  (o.d1 : Int) == convOut x.d1 c.pl c.pr c.dl w.d1 c.sw && (o.d2 : Int) == convOut x.d2 c.pt c.pb c.dl w.d2 c.sh &&
  o.d3 == x.d3 && biasShape bias w.d3 && addShape add x w o

/-- ATTEND's shapes (R141). -/
def attendShape (q k v o : Tensor) : Bool :=
  fmtArray q.fmt && fmtArray k.fmt && fmtArray v.fmt && k.d0 == q.d0 && v.d1 == q.d0 && o.d0 == q.d0 &&
  v.d0 == k.d1 && k.d2 == v.d2 && o.d1 == q.d1 && o.d2 == q.d2 && k.d3 == q.d3 && v.d3 == q.d3 && o.d3 == q.d3 &&
  q.d1 ≤ 16384 && k.d1 ≤ 16384 && q.d0 ≤ 256 && q.d0 % 32 == 0 && q.d2 % k.d2 == 0

/-- Whether an operand's extent is the output's or is broadcast (R142). -/
def castTo (x n : Nat) : Bool := x == n || x == 1

/-- Whether an operand is broadcast over an output in every dimension. -/
def broadcasts (x z : Tensor) : Bool := castTo x.d0 z.d0 && castTo x.d1 z.d1 && castTo x.d2 z.d2 && castTo x.d3 z.d3

/-- Whether VECTOR_OP needs Y, and whether it needs W (Table 6.5). -/
def vecNeeds (op : Nat) : Bool × Bool :=
  if op = 0x0E || op = 0x10 then (true, true)
  else if (2 ≤ op && op ≤ 6) || op = 0x0F then (true, false)
  else (false, false)

/-- VECTOR_OP's shapes (R142): operands an operation does not use are not looked at. -/
def vectorShape (op : Nat) (x : Tensor) (y w : Option Tensor) (z : Tensor) : Bool :=
  let rope (o : Option Tensor) : Bool := match o with
    | none => false
    | some t => t.d0 == z.d0 / 2 && castTo t.d1 z.d1 && castTo t.d2 z.d2 && castTo t.d3 z.d3
  let opnd (o : Option Tensor) (need : Bool) : Bool := !need || (match o with
    | none => false
    | some t => broadcasts t z)
  op ≤ 0x11 &&
  (if op = 0x11 then castTo x.d0 z.d0 && z.d1 == 2 * x.d1 && z.d2 == 2 * x.d2 && castTo x.d3 z.d3
   else if op = 0x10 then x.d0 == z.d0 && z.d0 % 2 == 0 && broadcasts x z && rope y && rope w
   else broadcasts x z && opnd y (vecNeeds op).1 && opnd w (vecNeeds op).2)

/-- REDUCE's shapes (R143, R170). -/
def reduceShape (op : Nat) (x z : Tensor) (i : Option Tensor) : Bool :=
  let like (t : Tensor) : Bool := t.d0 == 1 && t.d1 == x.d1 && t.d2 == x.d2 && t.d3 == x.d3
  op ≤ 2 && like z &&
  (op = 0 || (x.d0 < 2 ^ 31 && (match i with
    | none => false
    | some t => t.fmt == 10 && like t)))

end Sys2Proof.Machine
end

