-- ==== Sys2Proof/Machine/Checks.lean ====
section
/-!
DEFINITION. The dispatch checks of Table 9.22: packet encodings (Tables 9.7 to 9.16, R14, R212), addresses and slot
states (R28, R56, R60, R133, R414), units (R7), strict rules (R180), REPLAY and RESUME sources (R188, R196), fixed
timing (R185) and geometry (R355).
-/
namespace Sys2Proof.Machine

/-! ## The header (check 1) -/

/-- Whether bytes [o, o + n) of a packet are all 0. -/
def zeroBytes (p : Bytes) (o n : Nat) : Bool := ((p.drop o).take n).all fun b => b == 0

/-- The header of Table 9.7 and the trailers of R210; `stored` says that the packet stands in an itinerary. -/
def headerOk (p : Bytes) (stored : Bool) : Bool :=
  match pktOp p with
  | none => false
  | some o =>
    !bit (field p 1 1) 7 &&
    (!pktAdd p || o == .matmul || o == .conv2d || o == .correlate) &&
    (stored || !pktPatchRefs p) &&
    (if o == .ledgerMark then !pktReplay p && zeroBytes p 112 8 else pktReplay p || zeroBytes p 104 16) &&
    (pktDeadlineValid p || zeroBytes p 120 8)

/-! ## Bodies (check 3) -/

/-- The bytes of a body that Tables 9.9 to 9.16 name, as (first byte, count). Every other byte of 16–103 is RSVD. -/
def bodyFields (o : Op) (p : Bytes) : List (Nat × Nat) :=
  let joint := field p 18 1 != 1
  match o with
  | .loadCouplings => [(16, 2), (24, 32)]
  | .loadBiases | .loadGroups => [(16, 1), (24, 32)]
  | .commitProblem => [(16, 6), (24, 48), (80, 8)] ++ (if bit (field p 17 1) 1 then [(72, 8)] else []) ++
      (if joint then [(88, 12)] else [])
  | .setSchedule | .setPhaseMap | .resume => [(16, 1), (24, 8)]
  | .suspend => [(16, 1)]
  | .readState => [(16, 3), (24, 8)]
  | .anneal => [(16, 46), (64, 8)]
  | .sample => [(16, 46), (64, 24)]
  | .correlate => [(16, 88)]
  | .matmul => [(16, 37)]
  | .conv2d => [(16, 37), (64, 7), (72, 4)]
  | .attend => [(16, 34), (56, 4), (64, 2)]
  | .vectorOp => [(16, 34), (52, 1), (56, 8)]
  | .reduce => [(16, 24), (48, 2), (52, 1)]
  | .coupleOut => [(16, 6), (24, 4), (48, 16)] ++ (if bit (field p 17 1) 3 then [(40, 8)] else []) ++
      (if joint then [(28, 12)] else [])
  | .copy => [(16, 24)]
  | .fill => [(16, 24)]
  | .tileLoad | .tileStore => [(16, 1), (18, 14)]
  | .seedDraw => if bit (field p 16 1) 0 then [(16, 1), (18, 2)] else [(16, 1), (24, 8)]
  | .fenceSignal => [(16, 2), (24, 8)]
  | .fenceWait => [(16, 1), (24, 8)]
  | .itineraryStore => [(16, 1), (18, 4), (24, 16)]
  | .itineraryLaunch => [(16, 1)]
  | .patch => [(16, 3), (24, 64)]
  | .query => [(16, 1), (18, 2)]
  | .ledgerMark => [(16, 88)]
  | .abort => [(16, 2), (20, 4)]
  | .imageStage => [(24, 24)]
  | .imageInstall => [(16, 1)]
  | .attest => [(24, 40)]
  | .lifecycle => [(16, 1), (24, 12)]

/-- Whether every RSVD byte of the body is 0 (R14, R212). -/
def bodyClear (o : Op) (p : Bytes) : Bool :=
  let fs := bodyFields o p
  (List.range 88).all fun i =>
    fs.any (fun f => decide (f.1 ≤ 16 + i) && decide (16 + i < f.1 + f.2)) || p.getD (16 + i) 0 == 0

/-- The ranges of INDEX of Table 9.24. -/
def queryRange (p : Bytes) : Bool :=
  let i := field p 18 2
  match field p 16 1 with
  | 0 => i == 0
  | 1 => i < 64
  | 2 => i < 256
  | 3 => i < 64
  | 4 => i < 256
  | 5 => 1 ≤ i && i ≤ 256
  | 6 => i < 4
  | _ => false

/-- ACT codes of R136. -/
def actOk (a : Nat) : Bool := a == 0 || (7 ≤ a && a ≤ 0x0B)

/-- KSPLIT of R138. -/
def ksplitOk (p : Bytes) : Bool :=
  let k := field p 50 1
  (k == 1 || k == 2 || k == 4 || k == 8 || k == 16) && field p 48 2 % k == 0

/-- T of a tensor command. -/
def tensorT (p : Bytes) : Bool := 1 ≤ field p 48 2 && field p 48 2 ≤ 256

/-- The parameters of a run within their ranges (Table 9.12, R82, R101, R104). -/
def runOk (o : Op) (p : Bytes) : Bool :=
  let f := field p 17 1
  let r := runParams (field p 0 1) (p.drop 16)
  !bit f 6 && !bit f 7 && (o == .correlate || !bit f 5) && r.rxMode != 3 &&
  (if r.rxMode == 0 then r.rxInterval == 0 else r.rxInterval != 0) &&
  field p 30 2 == 0 && (r.sweeps == 0 || r.base + r.sweeps ≤ 2 ^ 48) &&
  (r.sweeps != 0 || r.targetValid || r.plateau != 0) && (!r.firstWin || r.targetValid) &&
  (o == .correlate || r.mask == 0) && (o != .sample || r.sInterval != 0) && (o != .correlate || r.interval != 0)

/-- N, T, M and RANK of a commit (R60, Table 9.10). -/
def commitOk (p : Bytes) : Bool :=
  let m := field p 18 1
  let t := field p 20 2
  1 ≤ m && m ≤ 64 && field p 19 1 < m && 1 ≤ t && t ≤ 256 && field p 24 4 ≤ 16384 * t * m

/-- The fields of a body within the ranges their tables state (R212). -/
def fieldsOk (o : Op) (p : Bytes) : Bool :=
  let b16 := field p 16 1
  let b17 := field p 17 1
  (!opNamesSlot o || b16 < 64) &&
  match o with
  | .loadCouplings => b17 < 8 && field p 48 8 != 0
  | .loadBiases | .loadGroups => field p 48 8 != 0
  | .commitProblem => b17 < 4 && commitOk p
  | .setSchedule | .setPhaseMap | .suspend | .resume => true
  | .readState => b17 ≤ 2 && field p 18 1 < 16
  | .anneal | .sample | .correlate => runOk o p
  | .matmul => tensorT p && ksplitOk p && field p 51 1 ≤ 1 && actOk (field p 52 1)
  | .conv2d => tensorT p && ksplitOk p && field p 51 1 ≤ 1 && actOk (field p 52 1) && convRange (convOf p)
  | .attend => tensorT p && field p 64 1 ≤ 1 && (field p 65 1 == 2 || field p 65 1 == 3 || field p 65 1 == 7)
  | .vectorOp => tensorT p && field p 52 1 ≤ 0x11
  | .reduce => tensorT p && field p 52 1 ≤ 2
  | .coupleOut => b17 < 32 && b17 % 4 ≤ 1 && commitOk p
  | .copy => field p 32 8 != 0
  | .fill => true
  | .tileLoad | .tileStore => true
  | .seedDraw => b16 ≤ 1 && field p 19 1 ≤ 240
  | .fenceSignal => b17 ≤ 1
  | .fenceWait => true
  | .itineraryStore => 1 ≤ field p 18 2 && field p 18 2 ≤ 4096 && field p 20 2 ≤ 4096
  | .itineraryLaunch => true
  | .patch => 1 ≤ field p 18 1 && field p 18 1 ≤ 64 && field p 17 1 + field p 18 1 ≤ 256
  | .query => queryRange p
  | .ledgerMark => true
  | .abort => b16 < 64 && b17 ≤ 1
  | .imageStage => field p 32 8 + field p 40 8 ≤ 33554432
  | .imageInstall => b16 ≤ 1
  | .attest => true
  | .lifecycle => b16 ≤ 4 && field p 32 4 == 2884

/-- BAD_PACKET where a condition fails. -/
def need (ok : Bool) : Verdict := if ok then .ok else .unmapped

/-- Bytes of a schedule table (R89). -/
def schedLen (hdr : Bytes) : Nat := 96 + 16 * schedSegments hdr

/-- The schedule table that a slot records, as it stands in memory; 96 bytes of zero when none is recorded (R92). -/
def schedBytes (d : Desk) (s : Slot) : Bytes :=
  match s.schedAddr with
  | none => List.replicate 96 0
  | some a =>
    let hdr := cellReads d.mem.cells (addrDevice a) 96
    cellReads d.mem.cells (addrDevice a) (schedLen hdr)

/-- The addresses of a run (R28): host copies, samples, pairs, statistics, and the schedule table it reads. -/
def runVerdict (e : Env) (d : Desk) (port : Fin 4) (g : Image) (r : RunParams) : Verdict :=
  let hm := g.home.length
  let w0 := g.home.headD 0
  let w1 := g.home.getLastD 0
  worst [
    if r.wpAddr = 0 ∨ r.wpSlots = 0 then .ok
      else rangeVerdict e d port true r.wpAddr (r.wpSlots * (ceilDiv (waypointLen g) 4096 * 4096)),
    if r.op = 0x11 ∧ r.sMax ≠ 0 then rangeVerdict e d port true r.auxAddr (r.sMax * (16 + 32 * hm)) else .ok,
    if r.op = 0x18 ∧ r.npairs ≠ 0 then
      (rangeVerdict e d port false r.auxAddr (8 * r.npairs)).both
        (rangeVerdict e d port true r.corrAddr (524288 * r.npairs))
      else .ok,
    if r.op = 0x18 ∧ hm ≠ 0 then
      (if rangeVerdict e d port true (r.momAddr + 2048 * w0) (2048 * (w1 - w0 + 1)) = .ok then .ok
       else worst (g.home.map fun w => rangeVerdict e d port true (r.momAddr + 2048 * w) 2048))
      else .ok]

/-- The schedule table of a slot lies in mapped memory. -/
def schedVerdict (e : Env) (d : Desk) (s : Slot) : Verdict :=
  match s.schedAddr with
  | none => .ok
  | some a => imageVerdict e d a (schedBytes d s).length

/-- The group table that a commit counts on (R60). -/
def groupsVerdict (e : Env) (d : Desk) (s : Slot) (groups : Nat) : Verdict :=
  if groups = 0 then .ok
  else match s.groupBase with
    | some a => imageVerdict e d a (40 * groups)
    | none => .unmapped

/-- The bias table, phase map and group table that a commit reads (R28). -/
def partsVerdict (e : Env) (d : Desk) (s : Slot) (n t m groups : Nat) (bias : Bool) : Verdict :=
  worst [
    match s.biasBase with
      | some a => if bias then imageVerdict e d a (biasLen n t m) else .ok
      | none => .ok,
    match s.phaseAddr with
      | some a =>
        let hdr := cellReads d.mem.cells (addrDevice a) 16
        imageVerdict e d a (16 + phaseCount hdr * phaseEntryLen t m)
      | none => .ok,
    groupsVerdict e d s groups]

/-- COMMIT_PROBLEM's checks at dispatch (R60, R414). -/
def commitVerdict (e : Env) (d : Desk) (p : Bytes) : Verdict :=
  let s := d.slots.at (pktSlot p)
  let n := field p 24 4
  let t := field p 20 2
  let m := field p 18 1
  let count (k : Nat) : Nat := field p (32 + 4 * k) 4
  let blocks := sumNat ((List.range 8).map count)
  worst [
    worst ((List.range 8).map fun k =>
      if count k = 0 then .ok
      else match s.extents.getD k none with
        | none => .unmapped
        | some a => imageVerdict e d a (16400 * count k)),
    imageVerdict0 e d (field p 64 8) (max 1 (512 * windowCount n)),
    if bit (field p 17 1) 1 then imageVerdict e d (field p 72 8) (max 1 (16400 * blocks)) else .ok,
    imageVerdict0 e d (field p 80 8) (8 * blocks + 4096),
    if m = 1 then .ok else imageVerdict e d (field p 88 8) 64,
    if n = 0 then groupsVerdict e d s (field p 28 4) else partsVerdict e d s n t m (field p 28 4) true]

/-- Bytes of what READ_STATE writes (R213). -/
def readStateLen (g : Image) (which : Nat) : Nat := if which = 0 then waypointLen g else 32 * g.home.length

/-- The schedule table that a dispatch reads (R92), as a range. -/
def schedRange (d : Desk) (s : Slot) : Nat × Nat :=
  match s.schedAddr with
  | none => (0, 0)
  | some a => (a, (schedBytes d s).length)

/-- The statistics that a run loads from CORR_ADDR and MOM_ADDR (R158): of the home pairs, then the home moments. -/
def statRanges (g : Image) (p : RunParams) (pairs : List (Nat × Nat)) : List (Nat × Nat) :=
  ((pairs.zip (List.range pairs.length)).filterMap fun q =>
    if g.home.contains q.1.1 then some (p.corrAddr + 524288 * q.2, 524288) else none) ++
  g.home.map fun w => (p.momAddr + 2048 * w, 2048)

/-- The ranges that Front Desk reads at a dispatch, by level: the second level's addresses stand in what the first
reads. A count of 0 stands for an absent operand (R92, R133, R149, R154, R158, R196). -/
def dispatchReads (d : Desk) (o : Op) (p : Bytes) (level : Nat) (got : List Bytes) : List (Nat × Nat) :=
  let ptr (a : Nat) : Nat × Nat := (a, if a = 0 then 0 else 64)
  let opt (i : Nat) : Nat × Nat := ptr (field p i 8)
  let must (i : Nat) : Nat × Nat := (field p i 8, 64)
  match level, o with
  | 0, .matmul | 0, .conv2d => [must 16, must 24, must 32, opt 40]
  | 0, .attend => [must 16, must 24, must 32, must 40]
  | 0, .vectorOp => [must 16, opt 24, opt 32, must 40]
  | 0, .reduce => [must 16, must 24, opt 32]
  | 0, .coupleOut => [(field p 56 8, 64)]
  | 0, .anneal | 0, .sample => [schedRange d (d.slots.at (pktSlot p))]
  | 0, .correlate => [(field p 72 8, 8 * field p 96 2), schedRange d (d.slots.at (pktSlot p))]
  | 0, .tileLoad | 0, .tileStore => [must 24]
  | 0, .resume =>
    match (d.slots.at (pktSlot p)).image with
    | some g => if field p 24 8 = 0 then [(0, 0)] else [(field p 24 8, waypointLen g)]
    | none => []
  | 1, .correlate =>
    match (d.slots.at (pktSlot p)).image with
    | some g =>
      if pktAdd p then statRanges g (runParams (field p 0 1) (p.drop 16)) (pairList (got.getD 0 [])) else []
    | none => []
  | 1, .coupleOut =>
    let b := got.getD 0 []
    if b.isEmpty then [] else [(field b 0 8, 64), ptr (field b 8 8), (field b 16 8, 8 * field b 48 4)]
  | 1, .resume =>
    let s := d.slots.at (pktSlot p)
    let a : Option (Nat × Bytes) :=
      if field p 24 8 = 0 then s.susp.map fun x => (x.ann.opcode, x.ann.params)
      else some (field (got.getD 0 []) 60 1, slice (got.getD 0 []) 808 112)
    let table := if field p 24 8 = 0 then (0, 0) else schedRange d s
    match a with
    | some (op, ps) => [if op = 0x18 then ((runParams op ps).auxAddr, 8 * (runParams op ps).npairs) else (0, 0), table]
    | none => [(0, 0), table]
  | _, _ => []

/-- The verdict on the ranges of one level of reads. -/
def readsVerdict (e : Env) (d : Desk) (port : Fin 4) (rs : List (Nat × Nat)) : Verdict :=
  worst (rs.map fun r => if r.2 = 0 then .ok else rangeVerdict e d port false r.1 r.2)

/-- Whether a launch names an empty itinerary (R226). -/
def emptyLaunch (d : Desk) (o : Op) (p : Bytes) : Bool :=
  o == .itineraryLaunch && (d.itins.at (fin 256 (field p 16 1))).packets.isEmpty

/-- Check 3 on what the packet itself says: fields, slot state, addresses. -/
def packetVerdict (e : Env) (d : Desk) (n : Fin 64) (o : Op) (p : Bytes) : Verdict :=
  let port := queuePort n
  let s := d.slots.at (pktSlot p)
  if !bodyClear o p || !fieldsOk o p then .unmapped
  else if (opSlotUser o || opSlotQuiet o) && s.state != .committed then .unmapped
  else
    (readsVerdict e d port (dispatchReads d o p 0 [])).both
    (match o with
    | .loadCouplings | .loadBiases | .loadGroups =>
      worst [rangeVerdict e d port false (field p 24 8) (field p 48 8), imageVerdict e d (field p 32 8) 1,
        imageVerdict e d (field p 32 8 + field p 40 8) (field p 48 8)]
    | .commitProblem => commitVerdict e d p
    | .setSchedule | .setPhaseMap => imageVerdict0 e d (field p 24 8) 1
    | .anneal | .sample | .correlate =>
      match s.image with
      | some g => (schedVerdict e d s).both (runVerdict e d port g (runParams (field p 0 1) (p.drop 16)))
      | none => .ok
    | .readState =>
      match s.image with
      | some g =>
        if readStateLen g (field p 17 1) = 0 then .ok
        else rangeVerdict e d port true (field p 24 8) (readStateLen g (field p 17 1))
      | none => .ok
    | .resume => if field p 24 8 = 0 then need (s.susp.isSome || s.suspLost) else schedVerdict e d s
    | .tileLoad | .tileStore =>
      match s.image with
      | some g =>
        let t := field p 18 2
        let h := (g.home.filter fun w => w % g.tm == t).length
        need (g.rank * g.t ≤ t && t < g.rank * g.t + g.t && field p 20 2 + field p 22 2 ≤ 17 * h)
      | none => .ok
    | .coupleOut =>
      worst [
        if bit (field p 17 1) 3 then imageVerdict e d (field p 40 8) 1 else .ok,
        imageVerdict0 e d (field p 48 8) 4096,
        if field p 18 1 = 1 then .ok else imageVerdict e d (field p 32 8) 64]
    | .copy =>
      (rangeVerdict e d port false (field p 16 8) (field p 32 8)).both
        (rangeVerdict e d port true (field p 24 8) (field p 32 8))
    | .fill => if field p 24 8 = 0 then .ok else rangeVerdict e d port true (field p 16 8) (field p 24 8)
    | .seedDraw => if bit (field p 16 1) 0 then .ok else rangeVerdict e d port true (field p 24 8) 16
    | .itineraryLaunch => need (!emptyLaunch d o p)
    | .itineraryStore =>
      (rangeVerdict e d port false (field p 24 8) (128 * field p 18 2)).both
        (if field p 20 2 = 0 then .ok else rangeVerdict e d port false (field p 32 8) (8 * field p 20 2))
    | .imageStage => if field p 40 8 = 0 then .ok else rangeVerdict e d port false (field p 24 8) (field p 40 8)
    | .attest =>
      (rangeVerdict e d port true (field p 24 8) 5704).both
        (if addrOwn e (field p 24 8) && decide (hostBase ≤ addrDevice (field p 24 8)) then
          need (windowTarget (d.ports.at port) true (addrDevice (field p 24 8)) 5704).isSome
        else .ok)
    | .lifecycle => rangeVerdict e d port false (field p 24 8) (field p 32 4)
    | _ => .ok)

/-- An optional descriptor among those read. -/
def optTensor (got : List Bytes) (i : Nat) : Option Tensor :=
  if (got.getD i []).isEmpty then none else some (tensorOf (got.getD i []))

/-- The tensor operands of a command, each with whether it is written. -/
def tensorOperands (o : Op) (got : List Bytes) : List (Tensor × Bool) :=
  let at_ (i : Nat) (w : Bool) : List (Tensor × Bool) := ((optTensor got i).map fun t => (t, w)).toList
  match o with
  | .matmul | .conv2d => at_ 0 false ++ at_ 1 false ++ at_ 2 true ++ at_ 3 false
  | .attend => at_ 0 false ++ at_ 1 false ++ at_ 2 false ++ at_ 3 true
  | .vectorOp => at_ 0 false ++ at_ 1 false ++ at_ 2 false ++ at_ 3 true
  | .reduce => at_ 0 false ++ at_ 1 true ++ at_ 2 true
  | .coupleOut => at_ 1 false ++ at_ 2 false
  | .tileLoad => at_ 0 false
  | .tileStore => at_ 0 true
  | _ => []

/-- The shapes a command asks of its descriptors. -/
def shapesOk (o : Op) (p : Bytes) (got : List Bytes) : Bool :=
  let t (i : Nat) : Tensor := tensorOf (got.getD i [])
  match o with
  | .matmul => matmulShape (pktAdd p) (t 0) (t 1) (t 2) (optTensor got 3)
  | .conv2d => convShape (pktAdd p) (convOf p) (t 0) (t 1) (t 2) (optTensor got 3)
  | .attend => attendShape (t 0) (t 1) (t 2) (t 3)
  | .vectorOp => vectorShape (field p 52 1) (t 0) (optTensor got 1) (optTensor got 2) (t 3)
  | .reduce => reduceShape (field p 52 1) (t 0) (t 1) (optTensor got 2)
  | .tileLoad | .tileStore => (t 0).fmt == 11 && (t 0).d0 == 256 && (t 0).d1 == field p 22 2 && (t 0).d2 == 1 && (t 0).d3 == 1
  | _ => true

/-- The records a COUPLE_OUT writes, in order, each with the map entry it comes from and whether it is transposed
(R150). -/
def coupleRecords (n t m rank : Nat) (sym : Bool) (map : List (Nat × Nat)) : List (Nat × Bool) :=
  let home (w : Nat) : Bool := w < windowCount n && w % (t * m) / t == rank
  (map.zip (List.range map.length)).flatMap fun q =>
    (if home q.1.1 then [(q.2, false)] else []) ++
    (if sym && q.1.1 != q.1.2 && home q.1.2 then [(q.2, true)] else [])

/-- Pairs of CORRELATE within the room of every tile (R154). -/
def pairRoom (g : Image) (pairs : List (Nat × Nat)) : Bool :=
  (List.range g.t).all fun k =>
    let h := (g.home.filter fun w => g.tileOf w == k).length
    decide ((pairs.filter fun q => g.home.contains q.1 && g.tileOf q.1 == k).length ≤ (1280 - 18 * h) / 256)

/-- Check 3 on what Front Desk has read for the command: descriptors, parameter block, pair list, waypoint copy. `whole` says that
everything has been read; what could not be read, of a command that needs an absent unit, stands empty and is not judged (R8). -/
def contentVerdict (e : Env) (d : Desk) (n : Fin 64) (o : Op) (p : Bytes) (got : List Bytes) (whole : Bool) : Verdict :=
  let port := queuePort n
  let s := d.slots.at (pktSlot p)
  let forms := (match o with
    | .matmul | .conv2d | .attend | .vectorOp | .reduce | .tileLoad | .tileStore => got
    | .coupleOut => (got.drop 1).take 2
    | _ => []).all fun b => b.isEmpty || tensorForm b
  (need (forms && (!whole || shapesOk o p got))).both
  (match o with
  | .coupleOut =>
    let b := got.getD 0 []
    if b.isEmpty then .ok else
    let nn := field p 24 4
    let t := field p 20 2
    let m := field p 18 1
    let src := tensorOf (got.getD 1 [])
    let recs := coupleRecords nn t m (field p 19 1) (bit (field p 17 1) 2) (pairList (got.getD 3 []))
    let len := recs.length * recordLen (fieldBits p 17 1 0 2)
    worst [
      need (field b 60 4 == 0),
      need ((!whole && (got.getD 1 []).isEmpty) ||
        (src.d0 == 256 && src.d1 == 256 && src.d2 == field b 48 4 && src.d3 == 1)),
      match optTensor got 2 with
        | some x => need (x.d0 == nn && x.d1 == 1 && x.d2 == 1 && x.d3 == 1)
        | none => need (!whole || field b 32 8 == 0),
      worst ((tensorOperands o got).map fun x => tensorVerdict e d port x.2 x.1),
      if len = 0 then imageVerdict e d (field b 24 8) 1 else imageVerdict e d (field b 24 8) len,
      if (optTensor got 2).isSome then imageVerdict e d (field b 32 8) (max 1 (biasLen nn t m)) else .ok,
      imageVerdict0 e d (field b 40 8) (max 1 (512 * windowCount nn)),
      if bit (field p 17 1) 3 then imageVerdict e d (field p 40 8) (max 1 len) else .ok,
      imageVerdict0 e d (field p 48 8) (8 * recs.length + 4096),
      partsVerdict e d s nn t m (Config.coupleGroups p b) false]
  | .correlate =>
    match s.image with
    | some g => need (pairRoom g (pairList (got.getD 0 [])))
    | none => .ok
  | .resume =>
    match s.image with
    | some g =>
      let a : Nat × Bytes :=
        if field p 24 8 = 0 then (s.susp.map fun x => (x.ann.opcode, x.ann.params)).getD (0, [])
        else (field (got.getD 0 []) 60 1, slice (got.getD 0 []) 808 112)
      runVerdict e d port g (runParams a.1 a.2)
    | none => .ok
  | _ => worst ((tensorOperands o got).map fun x => tensorVerdict e d port x.2 x.1))

/-! ## Units (check 4) -/

/-- Whether a command needs a unit that is absent on the grade, besides those its addresses need (R7). -/
def lacksUnit (e : Env) (o : Op) (p : Bytes) (t : Nat) (got : List Bytes) : Bool :=
  let g := e.fuses.grade
  let corr := o == .correlate || (o == .resume && field (got.getD 0 []) 60 1 == 0x18 && field p 24 8 != 0)
  let joint := (o == .commitProblem || o == .coupleOut) && field p 18 1 != 1
  (corr && !gradeCorr g) || (joint && gradeSl g == 0) || decide (64 * gradeDies g < t)

/-! ## Strict rules, signature, source, fixed timing (checks 5 to 7) -/

/-- The parameters a run goes by: its own, or those of a RESUME's source. -/
def sourceParams (s : Slot) (o : Op) (p : Bytes) (got : List Bytes) : RunParams :=
  if o == .resume then
    if field p 24 8 = 0 then
      (s.susp.map fun x => runParams x.ann.opcode x.ann.params).getD (runParams 0 [])
    else runParams (field (got.getD 0 []) 60 1) (slice (got.getD 0 []) 808 112)
  else runParams (field p 0 1) (p.drop 16)

/-- Whether a command asks for a feature of Table 8.3. -/
def timingDependent (s : Slot) (o : Op) (p : Bytes) (got : List Bytes) : Bool :=
  opRun o && ((sourceParams s o p got).rxMode == 2 || (sourceParams s o p got).firstWin)

/-- The least of the caps as last written, in watts (R333): in force from the next tick of the controller (R409). -/
def leastCap (g : Grade) (np : Porter) : Nat :=
  min (max 400 (min np.pcapHost.toNat (gradeWatts g))) (if np.trayCap = 0 then gradeWatts g else np.trayCap.toNat)

/-- The planned TCLK fp of R340, in MHz. -/
def plannedClock (np : Porter) : Nat := 2000 - 25 * np.steps

/-- Every command dispatched and not completed, launches and waiting ABORTs apart. -/
def liveCmds (d : Desk) : List (Fin 64 × Cmd) :=
  (List.range 64).flatMap fun i =>
    let q := d.sqs.at (fin 64 i)
    (q.cur.toList ++ q.pre.toList).map fun c => (fin 64 i, c)

/-- Whether a fixed-timing command is uncompleted (R179): dispatched, launching, or an ABORT that waits for its targets. -/
def fixedLive (d : Desk) : Bool :=
  ((liveCmds d).any fun x => x.2.fixed) || (d.sqs.toList.any fun q => q.launch.any fun l => l.cmd.fixed) ||
  d.aborts.any fun w => w.cmd.fixed

/-- Whether a command is inside its timed region (R184): only a run or a tensor command has one, from its start of work to the end of
its work. -/
def inTimed (c : Cmd) : Bool :=
  c.fixed && c.began && c.stage == .working && (match pktOp c.pkt with | some o => opRun o || opTensor o | none => false)

/-- GCTL.TCLK_MHZ: the clock in force, which is set to 1,800 with the first fixed-timing command (R179), and which a step of R335 may then
lower. -/
def tclkMhz (np : Porter) (fixed : Bool) : Nat := if fixed && !np.fixedHold then 1800 else np.f

/-- Whether a logical tile of the grade is unserviceable (Table 15.5). -/
def tileLost (g : Grade) (d : Desk) (l : Nat) : Bool := decide (l / 64 < gradeDies g) && !tileServed g d l

/-- The disabled-unit map: LOST0 to LOST7 (R360). -/
def lostMap (g : Grade) (d : Desk) : Bytes :=
  leBytes 32 ((List.range 256).foldl (fun a l => if tileLost g d l then a + 2 ^ l else a) 0)

/-- The timing signature of Table 8.6. -/
def signature (e : Env) (d : Desk) (fixed : Bool) (cls : Nat) : Bytes :=
  let c := min cls 2
  leBytes 1 c ++ leBytes 1 (b2n fixed) ++
  (if 1 ≤ c then leBytes 2 (tclkMhz e.np (fixed || fixedLive d)) ++ leBytes 2 e.np.cap
   else List.replicate 4 0) ++ [0, 0] ++
  (if 2 ≤ c then leBytes 4 d.gctl.fwVersion.toNat ++ leBytes 4 ((crc64 (lostMap e.fuses.grade d)).toNat % 2 ^ 32)
   else List.replicate 8 0)

/-- The annealing state and the schedule copy that a RESUME continues (R196). -/
def resumeSource (d : Desk) (s : Slot) (g : Image) (p : Bytes) (copy : Bytes) : Option (Ann × Bytes) :=
  if field p 24 8 = 0 then s.susp.map fun x => (x.ann, x.sched) else some (annOfBytes g copy, schedBytes d s)

/-- Check 6 for RESUME (R196 step 1). -/
def sourceOk (d : Desk) (s : Slot) (g : Image) (p : Bytes) (copy : Bytes) : Bool :=
  match resumeSource d s g p copy with
  | none => false
  | some (a, sched) =>
    piWhole a.pi && a.schedDigest == crc64 sched &&
    (field p 24 8 == 0 ||
      (field copy 16 8 == s.digest.toNat && field copy 44 4 == d.gctl.epoch.toNat &&
       field copy 52 4 == g.home.length && field copy 58 1 == g.m && field copy 57 1 == g.rank))

/-- M of the slot that a command names: the packet's own where it is a commit (R185). -/
def slotM (s : Slot) (o : Op) (p : Bytes) : Nat :=
  if !opNamesSlot o then 1 else if o == .commitProblem || o == .coupleOut then field p 18 1 else s.m

/-- Check 7 (R185). -/
def fixedBad (e : Env) (s : Slot) (o : Op) (p : Bytes) (t : Nat) (got : List Bytes) : Bool :=
  let r := sourceParams s o p got
  let remote (x : Tensor) : Bool := !addrOwn e x.addr || (fmtMx x.fmt && !addrOwn e x.scaleAddr)
  decide (plannedClock e.np < 1800) ||
  decide (1 < slotM s o p) ||
  ((opSlotUser o || opSlotQuiet o) && (match s.image with | some g => streamCount g != 0 | none => false)) ||
  (opRun o && r.wpAddr != 0 && r.wpSlots != 0) || (tensorOperands o got).any (fun x => remote x.1) ||
  (opTensor o && decide (2097152 * t + 33554432 * ceilDiv t 64 < sumNat ((tensorOperands o got).map fun x => x.1.size)))

/-- The status of the first check of orders 3 to 8 that fails, given what has been read; none if all pass. -/
def lateChecks (e : Env) (d : Desk) (n : Fin 64) (o : Op) (p : Bytes) (got : List Bytes) : Option Nat :=
  let s := d.slots.at (pktSlot p)
  let v := (packetVerdict e d n o p).both (contentVerdict e d n o p got true)
  let t := cmdGeometry d n o p
  let strict := d.gctl.detStrict || pktStrict p
  let sig := signature e d d.gctl.fixedTiming d.gctl.timingClass.toNat
  if v = .unmapped then some stBad
  else if v = .absent || (opTile o && lacksUnit e o p t got) then some stUnsupported
  else if strict && timingDependent s o p got then some stStrict
  else if pktReplay p && decide (slice p 104 16 ≠ sig) then some stReplay
  else if o == .resume && (match s.image with | some g => !sourceOk d s g p (got.getD 0 []) | none => true) then
    some stReplay
  else if d.gctl.fixedTiming && fixedBad e s o p t got then some stTiming
  else if opTile o && !serviceable e.fuses.grade d t then some stGeometry
  else none

end Sys2Proof.Machine
end

