-- ==== Sys2Proof/Machine/TensorOps.lean ====
section
/-!
DEFINITION. Tensor arithmetic: terms (R135), groups (R137, R138, R163 to R167), the epilogue (R136), and the output
elements of MATMUL (R139), CONV2D (R140), ATTEND (R141), VECTOR_OP (R142) and REDUCE (R143, R170).
-/
namespace Sys2Proof.Machine

/-! ## Operands at hand -/

/-- An operand with the rows that have been read: (row number, elements, scales). -/
structure Opnd where
  t : Tensor
  rows : List (Nat × Bytes × Bytes)
deriving DecidableEq, Repr

/-- The code of element `e0` in a row's bytes (R132). -/
def rowCode (f : Nat) (bs : Bytes) (e0 : Nat) : Nat :=
  let b := fmtBits f
  if b < 8 then bits (bs.getD (e0 * b / 8) 0).toNat (e0 * b % 8) b else field bs (e0 * (b / 8)) (b / 8)

/-- A row of an operand, empty if it has not been read. -/
def Opnd.row (o : Opnd) (r : Nat) : Bytes × Bytes := ((o.rows.find? fun x => x.1 == r).map (·.2)).getD ([], [])

/-- The number of a row by its coordinates. -/
def Opnd.rowNo (o : Opnd) (e1 e2 e3 : Nat) : Nat := (e3 * o.t.d2 + e2) * o.t.d1 + e1

/-- The exact value of an element. -/
def Opnd.num (o : Opnd) (e0 r : Nat) : Num :=
  let x := o.row r
  elemValue o.t.fmt (rowCode o.t.fmt x.1 e0) (x.2.getD (e0 / 32) 0).toNat

/-- An element as FP32 (R130). -/
def Opnd.f32 (o : Opnd) (e0 r : Nat) : Word := (o.num e0 r).to32

/-- The integer value of an element of an integer or SPIN format. -/
def Num.toInt (x : Num) : Int :=
  match x with
  | .fin neg m e => (if neg then -1 else 1) * ((m * (pow2 e).1 / (pow2 e).2 : Nat) : Int)
  | _ => 0

/-- Row `r` of a list of FP32 values of operand `o`, with broadcast along DIM0 (R142). -/
def Opnd.lane (o : Opnd) (e0 r : Nat) : Word := o.f32 (if o.t.d0 = 1 then 0 else e0) r

/-- The row of operand `o` that serves output coordinates, with broadcast (R142). -/
def Opnd.castRow (o : Opnd) (c : Nat × Nat × Nat) : Nat :=
  o.rowNo (if o.t.d1 = 1 then 0 else c.1) (if o.t.d2 = 1 then 0 else c.2.1) (if o.t.d3 = 1 then 0 else c.2.2)

/-- The row of operand `o` that serves output coordinates of UPSAMPLE2 (R142). -/
def Opnd.halfRow (o : Opnd) (c : Nat × Nat × Nat) : Nat :=
  o.rowNo (c.1 / 2) (c.2.1 / 2) (if o.t.d3 = 1 then 0 else c.2.2)

/-! ## Terms and groups -/

/-- An accumulation group: exact integer, or compensated FP32 (R135). -/
inductive AccGroup where
  | int (acc : Int) (terms : Nat)
  | fp (g : Lane)
deriving DecidableEq, Repr

/-- A term of a chunk. -/
inductive Term where
  | int (v : Int)
  | fp (w : Word)
deriving DecidableEq, Repr

/-- The empty group. -/
def AccGroup.empty (integer : Bool) : AccGroup := if integer then .int 0 0 else .fp Lane.empty

/-- One more term. -/
def AccGroup.add (g : AccGroup) (t : Term) : AccGroup :=
  match g, t with
  | .int a n, .int v => .int (wrap64 (a + v)) (n + 1)
  | .fp l, .fp w => .fp (l.addTerm w)
  | g, _ => g

/-- A group's value as a further term of another (R138). -/
def AccGroup.term (g : AccGroup) : Term :=
  match g with
  | .int a _ => .int a
  | .fp l => .fp l.value

/-- Whether the group set ACC_LONG (R164). -/
def AccGroup.long (g : AccGroup) : Bool :=
  match g with
  | .int _ _ => false
  | .fp l => l.long

/-- FP32 of an exact sum; an exact zero term is +0 (R135). -/
def termWord (x : Num) : Word := if fisZero x.to32 && (match x with | .fin _ m _ => m == 0 | _ => false) then 0#32 else x.to32

/-- The term of a chunk of products (R135). -/
def chunkTerm (integer : Bool) (ps : List (Num × Num)) : Term :=
  let s := ps.foldl (fun a p => Num.add a (Num.mul p.1 p.2)) .zero
  if integer then .int s.toInt else .fp (termWord s)

/-- The term +0 of a tap in the padding. -/
def zeroTerm (integer : Bool) : Term := if integer then .int 0 else .fp 0#32

/-- The K-blocks of range `j` of KSPLIT ranges over `n` K-blocks: (first, count) (R138). -/
def splitRange (n ks j : Nat) : Nat × Nat :=
  let q := n / ks
  let r := n % ks
  (j * q + min j r, if j < r then q + 1 else q)

/-- The group of an output element from its terms in order, cut into KSPLIT ranges of K-blocks of eight terms; `first`
is the ADD term (R137, R138). Also whether any group set ACC_LONG. -/
def reduceTerms (integer : Bool) (ks : Nat) (first : Option Term) (terms : List Term) : AccGroup × Bool :=
  let n := ceilDiv terms.length 8
  let part (j : Nat) (g0 : AccGroup) : AccGroup :=
    let r := splitRange n ks j
    ((terms.drop (8 * r.1)).take (8 * r.2)).foldl AccGroup.add g0
  let start := match first with
    | some t => (AccGroup.empty integer).add t
    | none => AccGroup.empty integer
  let g0 := part 0 start
  let ps := (List.range (ks - 1)).map fun j => part (j + 1) (AccGroup.empty integer)
  let g := ps.foldl (fun g p => g.add p.term) g0
  (g, g.long || ps.any AccGroup.long)

/-! ## The epilogue -/

/-- An output element: an exact integer, or an FP32 value still to be converted. -/
inductive Val where
  | int (v : Int)
  | word (w : Word)
deriving DecidableEq, Repr

/-- The activations of R136. -/
def activate (act : Nat) (w : Word) : Word :=
  match act with
  | 7 => frelu w | 8 => fgelu w | 9 => fsilu w | 10 => fsigmoid w | 11 => ftanh w | _ => w

/-- The epilogue of R136. -/
def epilogue (ts : Word) (fmt act : Nat) (bias : Option Word) (g : AccGroup) : Val :=
  let tail (v : Word) : Val :=
    let v1 := fmul v ts
    let v2 := match bias with | some b => fadd v1 b | none => v1
    .word (activate act v2)
  match g with
  | .int acc _ =>
    if (fmt = 10 ∨ fmt = 11) ∧ bias.isNone ∧ act = 0 ∧ ts = 0x3F800000#32 then
      .int (if fmt = 10 then satSigned 32 acc else acc)
    else tail (Num.ofInt acc).to32
  | .fp l => tail l.value

/-! ## Rows of output -/

/-- The element codes and scale codes of a run of values in a format (R129, R130). -/
def encodeVals (f : Nat) : Nat → List Val → List Nat × List Nat
  | 0, _ => ([], [])
  | fuel + 1, vs =>
    match vs with
    | [] => ([], [])
    | _ =>
      let word (v : Val) : Word := match v with | .word w => w | .int x => (Num.ofInt x).to32
      if fmtMx f then
        let b := convertMx f ((vs.take 32).map word)
        let rest := encodeVals f fuel (vs.drop 32)
        (b.2 ++ rest.1, b.1 :: rest.2)
      else (vs.map fun v => match v with | .int x => unsigned (fmtBits f) x | .word w => convertElem f w, [])

/-- Codes packed into bytes, unused bits 0 (R132). -/
def packCodes (f : Nat) (cs : List Nat) : Bytes :=
  let b := fmtBits f
  if b < 8 then
    let per := 8 / b
    (List.range (ceilDiv cs.length per)).map fun i =>
      BitVec.ofNat 8 (((List.range per).foldl (fun a j => a + getn cs (i * per + j) % 2 ^ b * 2 ^ (b * j)) 0))
  else cs.flatMap (leBytes (b / 8))

/-- A run of values as bytes, elements then scales. -/
def packVals (f : Nat) (vs : List Val) : Bytes × Bytes :=
  let e := encodeVals f (vs.length + 1) vs
  (packCodes f e.1, e.2.map fun s => BitVec.ofNat 8 s)

/-! ## MATMUL -/

/-- The existing output element as a first term (R137). -/
def addTermOf (add integer : Bool) (c : Opnd) (n r : Nat) : Option Term :=
  if add then some (if integer then .int (c.num n r).toInt else .fp (c.f32 n r)) else none

/-- C[r][n] (R139), and whether a group set ACC_LONG. -/
def matmulElem (p : Bytes) (a b c : Opnd) (bias : Option Opnd) (n r : Nat) : Val × Bool :=
  let integer := integerPair a.t b.t
  let k := a.t.d0
  let co := c.t.coords r
  let ar := a.rowNo co.1 co.2.1 co.2.2
  let br := if b.t.d2 = 1 ∧ b.t.d3 = 1 then b.rowNo n 0 0 else b.rowNo n co.2.1 co.2.2
  let terms := (List.range (ceilDiv k 32)).map fun j =>
    chunkTerm integer ((List.range (min 32 (k - 32 * j))).map fun i => (a.num (32 * j + i) ar, b.num (32 * j + i) br))
  let g := reduceTerms integer (field p 50 1) (addTermOf (pktAdd p) integer c n r) terms
  (epilogue (fmul a.t.tscale b.t.tscale) c.t.fmt (field p 52 1) (bias.map fun x => x.f32 n 0) g.1, g.2)

/-! ## CONV2D -/

/-- The chunks of a CONV2D's channels at one tap, as (first channel within the group, length): 32 at a time, cut where the input's MX
blocks end when the group starts inside one (R135, R140; log entry 51). -/
def convChunks (mx : Bool) (base cg : Nat) : List (Nat × Nat) :=
  (List.range (ceilDiv cg 32)).flatMap fun j =>
    let n := min 32 (cg - 32 * j)
    let k := 32 - (base + 32 * j) % 32
    if mx && decide (k < n) then [(32 * j, k), (32 * j + k, n - k)] else [(32 * j, n)]

/-- Output element (o, pixel row r) of R140, and whether a group set ACC_LONG. -/
def convElem (p : Bytes) (x w c : Opnd) (bias : Option Opnd) (o r : Nat) : Val × Bool :=
  let v := convOf p
  let integer := integerPair x.t w.t
  let cg := x.t.d0 / v.g
  let base := o / (w.t.d3 / v.g) * cg
  let co := c.t.coords r
  let tap (kh kw : Nat) : List Term :=
    let ix : Int := (co.1 * v.sw + kw * v.dl : Nat) - (v.pl : Int)
    let iy : Int := (co.2.1 * v.sh + kh * v.dl : Nat) - (v.pt : Int)
    let inside := 0 ≤ ix ∧ ix < x.t.d1 ∧ 0 ≤ iy ∧ iy < x.t.d2
    let xr := x.rowNo ix.toNat iy.toNat co.2.2
    let wr := w.rowNo kw kh o
    (convChunks (fmtMx x.t.fmt) base cg).map fun q =>
      if inside then
        chunkTerm integer ((List.range q.2).map fun i => (x.num (base + q.1 + i) xr, w.num (q.1 + i) wr))
      else zeroTerm integer
  let terms := (List.range w.t.d2).flatMap fun kh => (List.range w.t.d1).flatMap fun kw => tap kh kw
  let g := reduceTerms integer (field p 50 1) (addTermOf (pktAdd p) integer c o r) terms
  (epilogue (fmul x.t.tscale w.t.tscale) c.t.fmt (field p 52 1) (bias.map fun y => y.f32 o 0) g.1, g.2)

/-! ## ATTEND -/

/-- The running state of one query row (R141). -/
structure AttRow where
  mx : Word
  l : Lane
  o : List Lane
deriving DecidableEq, Repr

/-- −∞. -/
def negInf : Word := 0xFF800000#32

/-- A dot product by MATMUL's chunks. -/
def attDot (q k : Opnd) (qr kr : Nat) : Word :=
  let integer := integerPair q.t k.t
  let d := q.t.d0
  let terms := (List.range (ceilDiv d 32)).map fun j =>
    chunkTerm integer ((List.range (min 32 (d - 32 * j))).map fun i => (q.num (32 * j + i) qr, k.num (32 * j + i) kr))
  match terms.foldl AccGroup.add (AccGroup.empty integer) with
  | .int a _ => (Num.ofInt a).to32
  | .fp l => l.value

/-- The probabilities of a key block quantised to PFMT, as exact values. -/
def quantProbs (f : Nat) : Nat → List Word → List Num
  | 0, _ => []
  | fuel + 1, ps =>
    match ps with
    | [] => []
    | _ =>
      if fmtMx f then
        let b := convertMx f (ps.take 32)
        b.2.map (fun c => elemValue f c b.1) ++ quantProbs f fuel (ps.drop 32)
      else ps.map fun w => elemValue f (convertElem f w) 127

/-- One key block of R141 for query row `qr` of head `hd`. -/
def attBlock (p : Bytes) (q k v : Opnd) (lq lk qpos qr head batch : Nat) (s0 : AttRow) (jb : Nat) : AttRow :=
  let js := (List.range (min 256 (lk - 256 * jb))).map fun i => 256 * jb + i
  let s := js.map fun (j : Nat) =>
    if bit (field p 64 1) 0 && decide ((qpos : Int) + ((lk : Int) - (lq : Int)) < (j : Int)) then negInf
    else fmul (BitVec.ofNat 32 (field p 56 4)) (attDot q k qr (k.rowNo j head batch))
  let mn := fmax s0.mx (s.foldl fmax negInf)
  if mn = negInf then s0
  else
    let a := fexp (fsub s0.mx mn)
    let pq := quantProbs (field p 65 1) (js.length + 1) (s.map fun x => fexp (fsub x mn))
    let l := pq.foldl (fun (g : Lane) x => g.addTerm x.to32) (s0.l.scaleBy a)
    let o := (List.range q.t.d0).map fun d =>
      let vr := v.rowNo d head batch
      (List.range (ceilDiv js.length 32)).foldl (fun (g : Lane) c =>
        g.addTerm (termWord ((((pq.drop (32 * c)).take 32).zip ((js.drop (32 * c)).take 32)).foldl
          (fun acc (x : Num × Nat) => Num.add acc (Num.mul x.1 (v.num x.2 vr))) .zero)))
        ((s0.o.getD d Lane.empty).scaleBy a)
    ⟨mn, l, o⟩

/-- A row of O (R141), `r` by its number in O. -/
def attendRow (p : Bytes) (q k v o : Opnd) (r : Nat) : List Val × Bool :=
  let c := o.t.coords r
  let head := c.2.1 * k.t.d2 / q.t.d2
  let qr := q.rowNo c.1 c.2.1 c.2.2
  let e := (List.range (ceilDiv k.t.d1 256)).foldl
    (attBlock p q k v q.t.d1 k.t.d1 c.1 qr head c.2.2) ⟨negInf, Lane.empty, List.replicate q.t.d0 Lane.empty⟩
  ((List.range q.t.d0).map fun d =>
    if fisZero e.l.value then .word 0#32 else .word (fdiv (e.o.getD d Lane.empty).value e.l.value),
   e.l.long || e.o.any Lane.long)

/-! ## VECTOR_OP -/

/-- The quotient of an FP32 value by a natural, rounded once. -/
def fdivNat (w : Word) (n : Nat) : Word :=
  match Num.of32 w with
  | .fin neg m e => ratTo32 neg (m * (pow2 e).1) ((pow2 e).2 * n)
  | x => x.to32

/-- A compensated sum in ascending order. -/
def laneSum (ws : List Word) : Lane := ws.foldl Lane.addTerm Lane.empty

/-- A row of Z (R142), from the row's inputs: `x`, `y` and `w` by e0. -/
def vectorRow (op : Nat) (p0 p1 : Word) (n : Nat) (x y w : Nat → Word) : List Word × Bool :=
  let each (f : Nat → Word) : List Word × Bool := ((List.range n).map f, false)
  let xs := (List.range n).map x
  match op with
  | 0x01 => each fun i => fadd (fmul (x i) p0) p1
  | 0x02 => each fun i => fadd (x i) (y i)
  | 0x03 => each fun i => fsub (x i) (y i)
  | 0x04 => each fun i => fmul (x i) (y i)
  | 0x05 => each fun i => fmax (x i) (y i)
  | 0x06 => each fun i => fmin (x i) (y i)
  | 0x07 => each fun i => frelu (x i)
  | 0x08 => each fun i => fgelu (x i)
  | 0x09 => each fun i => fsilu (x i)
  | 0x0A => each fun i => fsigmoid (x i)
  | 0x0B => each fun i => ftanh (x i)
  | 0x0C => each fun i => fexp (x i)
  | 0x0D =>
    let m := xs.foldl fmax negInf
    let es := xs.map fun v => fexp (fsub v m)
    let l := laneSum es
    (es.map fun v => fdiv v l.value, l.long)
  | 0x0E =>
    let l := laneSum xs
    let mu := fdivNat l.value n
    let ds := xs.map fun v => fsub v mu
    let q := laneSum (ds.map fun v => fmul v v)
    let r := frsqrt (fadd (fdivNat q.value n) p0)
    ((List.range n).map fun i => fadd (fmul (fmul (ds.getD i 0) r) (y i)) (w i), l.long || q.long)
  | 0x0F =>
    let q := laneSum (xs.map fun v => fmul v v)
    let r := frsqrt (fadd (fdivNat q.value n) p0)
    ((List.range n).map fun i => fmul (fmul (x i) r) (y i), q.long)
  | 0x10 => each fun i =>
    let a := x (i / 2 * 2)
    let b := x (i / 2 * 2 + 1)
    if i % 2 = 0 then fsub (fmul a (y (i / 2))) (fmul b (w (i / 2)))
    else fadd (fmul a (w (i / 2))) (fmul b (y (i / 2)))
  | _ => each x

/-- The values of row `r` of Z. -/
def vectorVals (p : Bytes) (x : Opnd) (y w : Option Opnd) (z : Tensor) (r : Nat) : List Val × Bool :=
  let op := field p 52 1
  let c := z.coords r
  let xr := if op = 0x11 then x.halfRow c else x.castRow c
  let get (o : Option Opnd) (i : Nat) : Word := match o with
    | some t => t.lane i (t.castRow c)
    | none => 0#32
  let res := vectorRow op (BitVec.ofNat 32 (field p 56 4)) (BitVec.ofNat 32 (field p 60 4)) z.d0
    (fun i => x.lane i xr) (get y) (get w)
  (res.1.map .word, res.2)

/-! ## REDUCE -/

/-- The winner of a row (R170): its value and its e0. -/
def extreme (isMax : Bool) (vs : List Num) : Num × Nat :=
  match vs.findIdx? Num.isNan with
  | some i => (.nan, i)
  | none =>
    ((vs.zip (List.range vs.length)).drop 1).foldl (fun (b : Num × Nat) x =>
      if (if isMax then Num.lt b.1 x.1 else Num.lt x.1 b.1) then x else b) (vs.headD .zero, 0)

/-- An exact value in an output format: integers into INT32 and INT64 without rounding, everything else through FP32
(R130, log entry 25). -/
def exactVal (fmt : Nat) (integer : Bool) (x : Num) : Val :=
  if integer && (fmt == 10 || fmt == 11) then .int (if fmt = 10 then satSigned 32 x.toInt else x.toInt)
  else .word x.to32

/-- Z and I of row `r` of X (R143, R170). -/
def reduceRow (op zfmt : Nat) (x : Opnd) (r : Nat) : Val × Nat × Bool :=
  let vs := (List.range x.t.d0).map fun e0 => x.num e0 r
  let integer := fmtInteger x.t.fmt
  if op = 0 then
    if integer then
      let s := wrap64 (sumInt (vs.map Num.toInt))
      (exactVal zfmt true (Num.ofInt s), 0, false)
    else
      let l := laneSum (vs.map Num.to32)
      (.word l.value, 0, l.long)
  else
    let b := extreme (op = 1) vs
    (exactVal zfmt integer b.1, b.2, false)

end Sys2Proof.Machine
end

