-- ==== Sys2Proof/Machine/TensorPlan.lean ====
section
/-!
DEFINITION. How a tensor command's work is laid out (R144 to R147): row-blocks by tile group, the operand rows that they need, weights
and staging room, TCLK cycles, and the accumulation groups that a row-block leaves.
-/
namespace Sys2Proof.Machine

/-! ## The division of work -/

/-- A row-block of one tile group: rows of the output, and the output columns. -/
structure RowBlock where
  rows : List Nat
  c0 : Nat
  c1 : Nat
deriving DecidableEq, Repr

/-- Share `g` of `n` things among `k` groups (R144). -/
def shareOf (n k g : Nat) : List Nat := (List.range ((g + 1) * n / k - g * n / k)).map fun i => g * n / k + i

/-- A list cut into pieces of `h`. -/
def cutRows (h : Nat) (rows : List Nat) : List (List Nat) :=
  (List.range (ceilDiv rows.length h)).map fun i => (rows.drop (i * h)).take h

/-- The output descriptor's place among a command's descriptors. -/
def outIndex (o : Op) : Nat :=
  match o with
  | .matmul | .conv2d => 2
  | .reduce => 1
  | _ => 3

/-- A descriptor of a command. -/
def descOf (c : Cmd) (i : Nat) : Tensor := tensorOf (c.descs.getD i [])

/-- The row-blocks of each tile group, in order (R144, R146, R147). -/
def groupBlocks (o : Op) (c : Cmd) : List (List RowBlock) :=
  let p := c.pkt
  let z := descOf c (outIndex o)
  let t := field p 48 2
  match o with
  | .matmul | .conv2d =>
    let g := t / field p 50 1
    let panels := ceilDiv z.d0 256
    (List.range g).map fun k =>
      if field p 51 1 = 0 then
        (cutRows (max 1 (min 256 (512 / panels))) (shareOf z.rows g k)).map fun rs => ⟨rs, 0, z.d0⟩
      else
        let mine := shareOf panels g k
        match mine with
        | [] => []
        | a :: _ =>
          (cutRows (max 1 (min 256 (512 / mine.length))) (List.range z.rows)).map fun rs =>
            ⟨rs, 256 * a, min z.d0 (256 * (a + mine.length))⟩
  | .attend =>
    let all := (List.range (z.d2 * z.d3)).flatMap fun h =>
      (cutRows 256 (List.range z.d1)).map fun rs => (⟨rs.map fun e1 => h * z.d1 + e1, 0, z.d0⟩ : RowBlock)
    (List.range t).map fun k => (shareOf all.length t k).filterMap fun i => all[i]?
  | _ => (List.range t).map fun k => (cutRows 256 (shareOf z.rows t k)).map fun rs => ⟨rs, 0, z.d0⟩

/-- The row-blocks of unit `i`. -/
def unitBlocks (bs : List (List RowBlock)) (i : Nat) : List RowBlock := bs.filterMap fun g => g[i]?

/-- Units of work of a command. -/
def unitCount (bs : List (List RowBlock)) : Nat := maxNat (bs.map List.length)

/-- Row-blocks finished after `k` units (Table 9.18). -/
def blocksDone (bs : List (List RowBlock)) (k : Nat) : Nat := sumNat (bs.map fun g => min k g.length)

/-! ## Operands -/

/-- The pixels of the input, by row number, that CONV2D reads for a row of the output: every tap that falls inside (R140, R145). -/
def convFootprint (c : Cmd) (r : Nat) : List Nat :=
  let v := convOf c.pkt
  let x := descOf c 0
  let w := descOf c 1
  let q := (descOf c 2).coords r
  (List.range w.d2).flatMap fun kh => (List.range w.d1).filterMap fun kw =>
    let ix : Int := (q.1 * v.sw + kw * v.dl : Nat) - (v.pl : Int)
    let iy : Int := (q.2.1 * v.sh + kh * v.dl : Nat) - (v.pt : Int)
    if 0 ≤ ix ∧ ix < x.d1 ∧ 0 ≤ iy ∧ iy < x.d2 then some ((q.2.2 * x.d2 + iy.toNat) * x.d1 + ix.toNat) else none

/-- The rows of each operand that row-blocks need: (descriptor, rows). -/
def neededRows (o : Op) (c : Cmd) (bs : List RowBlock) : List (Nat × List Nat) :=
  let p := c.pkt
  let z := descOf c (outIndex o)
  let rows := (bs.flatMap (·.rows)).eraseDups
  let cols := (bs.flatMap fun b => (List.range (b.c1 - b.c0)).map fun i => b.c0 + i).eraseDups
  let old := if pktAdd p then [(2, rows)] else []
  let bias := if (optTensor c.descs 3).isSome then [(3, [0])] else []
  match o with
  | .matmul =>
    let b := descOf c 1
    let batches := (rows.map fun r => r / z.d1).eraseDups
    let br := if b.d2 = 1 ∧ b.d3 = 1 then cols else batches.flatMap fun k => cols.map fun n => k * b.d1 + n
    [(0, rows), (1, br)] ++ old ++ bias
  | .conv2d =>
    let w := descOf c 1
    [(0, (rows.flatMap (convFootprint c)).eraseDups),
     (1, cols.flatMap fun k => (List.range (w.d1 * w.d2)).map fun i => k * (w.d1 * w.d2) + i)] ++ old ++ bias
  | .attend =>
    let k := descOf c 1
    let v := descOf c 2
    let heads := (rows.map fun r => (r / z.d1 % z.d2 * k.d2 / z.d2, r / (z.d1 * z.d2))).eraseDups
    [(0, rows), (1, heads.flatMap fun h => (List.range k.d1).map fun j => (h.2 * k.d2 + h.1) * k.d1 + j),
     (2, heads.flatMap fun h => (List.range v.d1).map fun j => (h.2 * v.d2 + h.1) * v.d1 + j)]
  | .vectorOp =>
    let op := field p 52 1
    let cast (i : Nat) : List Nat :=
      let t : Opnd := ⟨descOf c i, []⟩
      (rows.map fun r =>
        let q := z.coords r
        if op = 0x11 then t.halfRow q else t.castRow q).eraseDups
    [(0, cast 0)] ++ (if (vecNeeds op).1 then [(1, cast 1)] else []) ++ (if (vecNeeds op).2 then [(2, cast 2)] else [])
  | _ => [(0, rows)]

/-! ## Weights and staging room (R145) -/

/-- Rows of the weights that row-blocks need. -/
def weightRows (o : Op) (c : Cmd) (bs : List RowBlock) : List Nat :=
  ((neededRows o c bs).find? fun x => x.1 == 1).elim [] (·.2)

/-- K-blocks of a MATMUL or CONV2D (R146). -/
def kBlocks (o : Op) (c : Cmd) : Nat :=
  let a := descOf c 0
  let b := descOf c 1
  if o = .conv2d then ceilDiv (b.d2 * b.d1 * ceilDiv b.d0 32) 8 else ceilDiv a.d0 256

/-- The bytes of a tile's share of the weights: the rows that its row-blocks need, over its range of K-blocks, the longest of which is
taken (R138, R145). -/
def weightShare (o : Op) (c : Cmd) (bs : List RowBlock) : Nat :=
  let b := descOf c 1
  let n := kBlocks o c
  ceilDiv ((weightRows o c bs).length * (b.rowLen + b.rowScales) * ceilDiv n (field c.pkt 50 1)) (max 1 n)

/-- Whether a tile group's share of the weights fits its scratchpads, so that it is fetched once (R145). -/
def shareFits (o : Op) (c : Cmd) (bs : List RowBlock) : Bool :=
  (o == .matmul || o == .conv2d) && decide (weightShare o c bs ≤ 2097152)

/-- The job tiles of tile group `k`, by number (R144). -/
def groupTiles (c : Cmd) (o : Op) (k : Nat) : List Nat :=
  let ks := if o = .matmul ∨ o = .conv2d then field c.pkt 50 1 else 1
  (List.range ks).map fun j => k * ks + j

/-- Bytes of operand rows that a row-block holds in the staging buffer. -/
def blockStaging (o : Op) (c : Cmd) (b : RowBlock) : Nat :=
  sumNat ((neededRows o c [b]).map fun q =>
    if q.1 = 0 then q.2.length * ((descOf c 0).rowLen + (descOf c 0).rowScales) else 0)

/-- The staging room that a command reserves on each die: for every tile group with a tile there, that of its largest row-block, up to
the whole buffer (R145; DEDUCED, log entry 16: the spec gives no amounts). -/
def stagingNeed (o : Op) (c : Cmd) (tiles : List Nat) : List Nat :=
  let gs := groupBlocks o c
  (List.range 4).map fun die => min 33554432 (sumNat ((List.range gs.length).map fun k =>
    if (groupTiles c o k).any fun t => getn tiles t / 64 == die then maxNat ((gs.getD k []).map (blockStaging o c)) else 0))

/-! ## Cycles (R146) -/

/-- Lane-cycles of an activation or a VECTOR_OP operation (Table 6.5). -/
def laneCycles (op : Nat) : Nat :=
  if op = 0x0D then 5 else if op = 0x0E then 6 else if op = 0x0F then 4
  else if op = 0x08 ∨ op = 0x09 ∨ op = 0x10 then 3 else if op = 0x0A ∨ op = 0x0B ∨ op = 0x0C then 2 else 1

/-- Lane-cycles of the epilogue for each element. -/
def epilogueCycles (act fmt : Nat) : Nat := 1 + (if act = 0 then 0 else laneCycles act) + (if fmtMx fmt then 2 else 1)

/-- TCLK cycles of the row-blocks of a tile, from its first pass to the end of the last epilogue (R146, R184): the state swap and the
first fetch lie before it (DEDUCED, log entry 11). -/
def tileCycles (o : Op) (c : Cmd) (j : Nat) (bs : List RowBlock) : Nat :=
  let z := descOf c (outIndex o)
  let act := field c.pkt 52 1
  match o with
  | .matmul | .conv2d =>
    let cy := max (fmtCycles (descOf c 0).fmt) (fmtCycles (descOf c 1).fmt)
    let nk := (splitRange (kBlocks o c) (field c.pkt 50 1) j).2
    12 + sumNat (bs.map fun b => max (8 * cy) (b.rows.length * cy) * nk * ceilDiv (b.c1 - b.c0) 256) +
      (match bs.getLast? with
        | some b => b.rows.length * ceilDiv (b.c1 - b.c0) 256 * epilogueCycles act z.fmt
        | none => 0)
  | .attend =>
    let cy := max (fmtCycles (descOf c 0).fmt) (max (fmtCycles (descOf c 1).fmt) (fmtCycles (descOf c 2).fmt))
    12 + sumNat (bs.map fun b => max (2 * cy * b.rows.length) (4 * b.rows.length) * ceilDiv (descOf c 1).d1 256)
  | .vectorOp => 12 + sumNat (bs.map fun b => b.rows.length * ceilDiv z.d0 256 * laneCycles act)
  | _ => 12 + sumNat (bs.map fun b => b.rows.length * ceilDiv (descOf c 0).d0 256)

/-- TCLK cycles of a command's first `k` units: those of the tile that takes most. -/
def unitCycles (o : Op) (c : Cmd) (k : Nat) : Nat :=
  let gs := groupBlocks o c
  if k = 0 then 0
  else maxNat ((List.range gs.length).flatMap fun g =>
    (List.range (groupTiles c o g).length).map fun j =>
      if ((gs.getD g []).take k).isEmpty then 0 else tileCycles o c j ((gs.getD g []).take k))

/-! ## Accumulation groups of tensor commands (R162, R164) -/

/-- Terms of an output element's reduction (R139, R140). -/
def elemTerms (o : Op) (c : Cmd) : Nat :=
  let a := descOf c 0
  let b := descOf c 1
  if o = .conv2d then b.d2 * b.d1 * ceilDiv b.d0 32 else ceilDiv a.d0 32

/-- A group as its row-block leaves it, closed. -/
def doneGroup (first rows mode terms : Nat) (add : Bool) : GroupReg :=
  ⟨first, rows, mode, false, add, mode == 0 && decide (2 ^ 24 < terms), terms⟩

/-- The groups that a row-block of unit `u` leaves on tile `j` of its group, each with its number, from row `base` of the `room` that
the command's groups take. A MATMUL or CONV2D takes its two groups in turn; ATTEND has l and the rows of o; VECTOR_OP and REDUCE have one, or
two for an extremum (R162; DESIGN CHOICE, log entry 37). -/
def blockGroups (o : Op) (c : Cmd) (u j base : Nat) (b : RowBlock) : List (Fin 4 × GroupReg) :=
  let h := b.rows.length
  match o with
  | .matmul | .conv2d =>
    let ks := field c.pkt 50 1
    let r := splitRange (ceilDiv (elemTerms o c) 8) ks j
    let rows := min 640 (h * ceilDiv (b.c1 - b.c0) 256)
    let add := pktAdd c.pkt && j == 0
    let terms := b2n add + min (8 * r.2) (elemTerms o c - 8 * r.1) + (if j = 0 then ks - 1 else 0)
    let mode := b2n (integerPair (descOf c 0) (descOf c 1))
    [(fin 4 (u % 2), doneGroup (base + u % 2 * rows) rows mode terms add)]
  | .attend =>
    [(0, doneGroup base 1 0 (descOf c 1).d1 false), (1, doneGroup (base + 1) h 0 (ceilDiv (descOf c 1).d1 32) false)]
  | .vectorOp =>
    let op := field c.pkt 52 1
    if op = 0x0D ∨ op = 0x0E ∨ op = 0x0F then [(0, doneGroup base 1 0 (descOf c 3).d0 false)] else []
  | _ =>
    let integer := fmtInteger (descOf c 0).fmt
    if field c.pkt 52 1 = 0 then [(0, doneGroup base 1 (b2n integer) (descOf c 0).d0 false)]
    else [(0, doneGroup base 1 (b2n integer) 0 false), (1, doneGroup (base + 1) 1 1 0 false)]

/-- ACM rows that the groups of a command take together on a tile. -/
def groupRoom (o : Op) (b : RowBlock) : Nat :=
  match o with
  | .matmul | .conv2d => 2 * min 640 (b.rows.length * ceilDiv (b.c1 - b.c0) 256)
  | .attend => 1 + b.rows.length
  | _ => 2

/-- A row-block is done on a tile: its groups close, and their rows keep bits that the spec gives no row and lane (R160). -/
def noteGroups (d : Desk) (l : Nat) (gs : List (Fin 4 × GroupReg)) : Desk :=
  gs.foldl (fun d q =>
    let d1 := updUnit d l fun u =>
      { leaveRows u ⟨q.2.firstRow, q.2.rows, .free d.freeCtr⟩ with active := u.active.put q.1 q.2 }
    { d1 with freeCtr := d.freeCtr + 256 * q.2.rows }) d

end Sys2Proof.Machine
end

