-- ==== Sys2Proof/Machine/Dispatching.lean ====
section
/-!
DEFINITION. Dispatch: which command is ready (R219) and what holds it (R57, R173, R213, R225), the round robin (R220),
preloading (R222), launches (R226), and what follows a commit point in its queue.
-/
namespace Sys2Proof.Machine

/-! ## The head of a queue -/

/-- A packet that Front Desk may dispatch next. -/
structure Cand where
  pkt : Bytes
  index : BitVec 12
  launch : Option (Fin 256)
  visible : Nat
deriving DecidableEq, Repr

/-- Stored packet `k` with the captured window applied, references in table order (R225, R226). -/
def launchPacket (it : Itin) (window : Bytes) (k : Nat) : Bytes :=
  (it.refs.filter fun r => r.pkt == k).foldl (fun p r => spliceBytes p r.poff (slice window r.woff r.len))
    (slice (it.packets.getD k []) 0 128)

/-- Ring indices that stand open and that neither a command under way nor a waiting ABORT holds. -/
def freshIndices (d : Desk) (n : Fin 64) : List (BitVec 12) :=
  let q := d.sqs.at n
  (openIndices q).filter fun i =>
    !(q.cur.any fun c => c.index == i) && !(q.pre.any fun c => c.index == i) &&
    !(q.launch.any fun l => l.cmd.index == i) && !(d.aborts.any fun w => w.sq == n && w.cmd.index == i)

/-- The packet that stands next in a queue: of its launch, or of its ring (R226). -/
def nextCand (d : Desk) (n : Fin 64) : Option Cand :=
  let q := d.sqs.at n
  match q.launch with
  | some l =>
    match l.cmd.itin with
    | some i =>
      if l.next < (d.itins.at i).packets.length ∧ l.next = l.done then
        some ⟨launchPacket (d.itins.at i) l.cmd.window l.next, l.cmd.index, some i, l.since⟩
      else none
    | none => none
  | none => (freshIndices d n).head?.map fun i => ⟨ringPacket d q i, i, none, visibleAt q i d.now⟩

/-! ## Waits and holds (R219) -/

/-- What is noted of a packet that stands next in its queue. -/
def headMark (d : Desk) (n : Fin 64) (c : Cand) : Option HeadMark :=
  let q := d.sqs.at n
  (d.marks.at n).filter fun m => m.index == c.index && m.place == (q.launch.map (·.next)).getD 0

/-- Whether the fence waits of a packet are met: its WAIT, and the wait of a FENCE_WAIT (R228, R229). -/
def waitsMet (d : Desk) (p : Bytes) : Bool :=
  (!pktWait p || decide (pktWaitValue p ≤ (d.fences.at (fin 256 (pktWaitFence p))).value.toNat)) &&
  (pktOp p != some .fenceWait || decide (field p 24 8 ≤ (d.fences.at (fin 256 (field p 16 1))).value.toNat))

/-- Whether a packet's waits are over: met, or released by the departure of a fence's owner (R228, R236). -/
def waitOver (d : Desk) (n : Fin 64) (c : Cand) : Bool := waitsMet d c.pkt || (headMark d n c).any (·.freed)

/-- Whether an opcode uses a slot in the sense of R57 (R56, R173, R174, R213). -/
def usesSlot (o : Op) : Bool := opSlotUser o || opSlotQuiet o

/-- Whether a dispatched command of some queue satisfies a test on its opcode and packet. -/
def anyLive (d : Desk) (f : Op → Bytes → Bool) : Bool :=
  (liveCmds d).any fun x => match pktOp x.2.pkt with
    | some o => f o x.2.pkt
    | none => false

/-- Whether a command that uses a slot is dispatched and has not completed. -/
def userLive (d : Desk) (i : Fin 64) : Bool := anyLive d fun o p => usesSlot o && pktSlot p == i

/-- Whether a commit, a TILE_LOAD, a TILE_STORE or a READ_STATE of another queue on a slot is under way: users of the slot are
dispatched after it (R57, R173, R174, R213; log entry 45). -/
def quietLive (d : Desk) (n : Fin 64) (i : Fin 64) : Bool :=
  (liveCmds d).any fun x => x.1 != n && match pktOp x.2.pkt with
    | some o => (o == .commitProblem || o == .coupleOut || opSlotQuiet o) && pktSlot x.2.pkt == i
    | none => false

/-- Whether a packet writes a slot, or is held like one that does (R57, R173, R174, R213). -/
def holdsSlot (o : Op) : Bool := opSlotWriter o || opSlotQuiet o

/-- Whether some other queue's next packet is held and satisfies a test: what it holds back may not overtake it, from the moment at
which it was held until it is dispatched (R57, R225). -/
def heldAhead (d : Desk) (n : Fin 64) (f : Op → Bytes → Bool) : Bool :=
  ((List.range 64).map (fin 64)).any fun m => m != n &&
    match nextCand d m with
    | some c => (headMark d m c).any (·.held) && (match pktOp c.pkt with | some o => f o c.pkt | none => false)
    | none => false

/-- Whether another queue's next packet is a command held for a slot, which later users may not overtake (R57). -/
def writerHeld (d : Desk) (n : Fin 64) (i : Fin 64) : Bool := heldAhead d n fun o p => holdsSlot o && pktSlot p == i

/-- Launches of an itinerary dispatched and not completed (R225). -/
def launchesLive (d : Desk) (i : Fin 256) : Nat :=
  ((List.range 64).filter fun m => (d.sqs.at (fin 64 m)).launch.any fun l => l.cmd.itin == some i).length +
  ((liveCmds d).filter fun x => pktOp x.2.pkt == some .itineraryLaunch && x.2.itin == some i).length

/-- Whether an ITINERARY_STORE of an itinerary is under way, or held behind a launch of it (R225). -/
def storeAhead (d : Desk) (n : Fin 64) (i : Fin 256) : Bool :=
  (anyLive d fun o p => o == .itineraryStore && fin 256 (field p 16 1) == i) ||
  heldAhead d n fun o p => o == .itineraryStore && fin 256 (field p 16 1) == i

/-- Whether a packet is held behind commands under way: a writer of a slot behind its users, a store of an itinerary behind its
launches. -/
def heldBehind (d : Desk) (p : Bytes) : Bool :=
  match pktOp p with
  | some .itineraryStore => launchesLive d (fin 256 (field p 16 1)) != 0
  | some o => holdsSlot o && userLive d (pktSlot p)
  | none => false

/-- Whether one of the holds of R57, R173, R174, R213 or R225 applies to a packet of SQ `n`. -/
def held (d : Desk) (n : Fin 64) (p : Bytes) : Bool :=
  heldBehind d p ||
  match pktOp p with
  | some .itineraryLaunch => storeAhead d n (fin 256 (field p 16 1))
  | some o => usesSlot o && (writerHeld d n (pktSlot p) || quietLive d n (pktSlot p))
  | none => false

/-- Whether an SQ may dispatch at all: enabled, its CQ enabled and no entry of it waiting (R208, R219). -/
def queueOpen (d : Desk) (n : Fin 64) : Bool :=
  let q := d.sqs.at n
  let c := d.cqs.at (fin 64 q.cq.toNat)
  q.enable && c.enable && c.waiting.isEmpty

/-- Whether a packet is ready for dispatch (R219). -/
def isReady (d : Desk) (n : Fin 64) (c : Cand) : Bool := queueOpen d n && waitOver d n c && !held d n c.pkt

/-- What Front Desk notes of the next packet of a queue: a packet that reaches dispatch while something under way holds it is held
from that moment on. -/
def nextMark (d : Desk) (n : Fin 64) : Option HeadMark :=
  match nextCand d n with
  | some c =>
    let old := headMark d n c
    let place := ((d.sqs.at n).launch.map (·.next)).getD 0
    let held := old.any (·.held) || (queueOpen d n && waitOver d n c && heldBehind d c.pkt)
    let freed := old.any (·.freed)
    if held || freed then some ⟨c.index, place, held, freed⟩ else none
  | none => none

/-- Every queue's note brought up to date. -/
def markHeads (d : Desk) : Desk := { d with marks := Tab.gen 64 fun n => nextMark d (fin 64 n) }

/-- Whether a head is fence-blocked: ready in every respect but its wait (R229). -/
def fenceBlocked (d : Desk) (n : Fin 64) : Bool :=
  match nextCand d n with
  | some c => (d.sqs.at n).cur.isNone && queueOpen d n && !waitOver d n c && !held d n c.pkt
  | none => false

/-- Whether the module's heads are all fence-blocked: every queue that holds an uncompleted command has a fence-blocked
head, some queue has, and nothing runs or is suspended (R229). -/
def allBlocked (d : Desk) : Bool :=
  let busy := ((List.range 64).map (fin 64)).filter fun n =>
    (d.sqs.at n).enable && (uncompleted (d.sqs.at n) != 0 || (d.sqs.at n).cur.isSome || (d.sqs.at n).launch.isSome)
  !busy.isEmpty && busy.all (fenceBlocked d)

/-- Whether a tile command runs: dispatched, at work or held by a trip. A command suspended by a time slice does not. -/
def tileRunning (d : Desk) : Bool :=
  (List.range 64).any fun m => (d.sqs.at (fin 64 m)).cur.any fun c =>
    c.stage != .sliced && (match pktOp c.pkt with | some o => opTile o | none => false)

/-! ## After a commit point -/

/-- Whether a queue still holds an uncompleted tile command (R221 step 4). -/
def holdsTileWork (d : Desk) (n : Fin 64) : Bool :=
  let q := d.sqs.at n
  let tile (p : Bytes) : Bool := match pktOp p with | some o => opTile o | none => false
  (q.cur.toList ++ q.pre.toList).any (fun c => tile c.pkt) ||
  (freshIndices d n).any (fun i => tile (ringPacket d q i)) ||
  q.launch.any fun l => match l.cmd.itin with
    | some i => ((d.itins.at i).packets.drop l.next).any tile
    | none => false

/-- A queue gives up its allotment when it holds no uncompleted tile command (R221 step 4). -/
def releaseIdle (d : Desk) (n : Fin 64) : Desk :=
  if holdsTileWork d n then d else { d with sqs := d.sqs.upd n fun q => { q with allot := [] } }

/-- The launch of a queue after one of its packets has committed: the next packet becomes visible, or the launch's own
completion is due (R226 step 4). -/
def launchAfter (now count : Nat) (status : Nat) (q : Sq) : Sq :=
  match q.launch with
  | none => q
  | some l =>
    let first := if l.first = stOk ∧ status ≠ stOk ∧ status ≠ stPlateau then status else l.first
    let l' := { l with done := l.done + 1, first := first, since := now }
    -- a stopped launch ends by `endLaunch`
    if l'.done < count || l.cmd.stop.isSome then { q with launch := some l' }
    else { q with
      launch := none
      cur := some { l.cmd with stage := .ended, status := first, began := true, result := slice (leBytes 4 l'.done) 0 28 } }

/-- The queue after the commit point of `c`: the preloaded command takes its place (R222). -/
def queueAfter (now count : Nat) (c : Cmd) (q : Sq) : Sq :=
  let moved : Sq := match q.pre with
    | some x => { q with cur := some (if x.stage = .preloaded then { x with stage := .dispatched, tiles := q.allot } else x), pre := none }
    | none => { q with cur := none }
  if c.launch.isSome then launchAfter now count c.status { q with cur := none } else moved

/-- The packets of a stopped launch that have not started complete without running, each with its own entry, and then the
launch itself (R232, R236). -/
def endLaunch (d : Desk) (n : Fin 64) : Desk :=
  let q := d.sqs.at n
  match q.launch with
  | none => d
  | some l =>
    match l.cmd.stop, l.cmd.itin with
    | some k, some i =>
      if q.cur.isSome then d
      else
        let it := d.itins.at i
        let st := stopStatus k
        let rest := (List.range (it.packets.length - l.next)).map fun j => l.next + j
        let d1 := rest.foldl (fun x j =>
          commitUnrun x n (freshCmd x (x.sqs.at n) (launchPacket it l.cmd.window j) l.cmd.index (some i) x.now) st) d
        let c := { l.cmd with stage := .ended, status := st, began := true
                              result := slice (leBytes 4 (l.done + rest.length)) 0 28 }
        commitCmd { d1 with sqs := d1.sqs.upd n fun q => { q with launch := none } } n c
    | _, _ => d

/-- A command commits and its queue moves on: its slot is free of it, its allotment is released when idle, and a drain
for a management command ends (R220, R221, R222, R226, R232). -/
def retire (d : Desk) (n : Fin 64) (c : Cmd) : Desk :=
  let d1 := commitCmd d n c
  let count := match c.launch with | some i => (d1.itins.at i).packets.length | none => 0
  let d2 := { d1 with sqs := d1.sqs.upd n (queueAfter d.now count c) }
  let d3 := match pktOp c.pkt with
    | some o =>
      let x := if opMgmt o then { d2 with drain := false } else d2
      if opNamesSlot o && (x.slots.at (cmdSlot c)).user == some n then
        updSlot x (cmdSlot c) fun s => { s with user := none }
      else x
    | none => d2
  releaseIdle (endLaunch { d3 with deadlockSince := none } n) n

/-! ## Dispatch -/

/-- What the reads of one level give: the bytes of each range, in order, or why there are none yet. -/
inductive Gather where
  | done (d : Desk) (got : List Bytes)
  | fail (d : Desk) (k : Stop)
  | wait (d : Desk)
deriving DecidableEq, Repr

/-- The ranges of a level that lie on other modules and have not been asked for. -/
def missing (e : Env) (q : Sq) (rs : List (Nat × Nat)) : List (Nat × Nat) :=
  rs.filter fun r => r.2 != 0 && !addrOwn e r.1 && !q.have_.contains r

/-- Reads of other modules are asked for (R298). -/
def askFor (e : Env) (d : Desk) (n : Fin 64) (rs : List (Nat × Nat)) : Desk :=
  rs.foldl (fun x r =>
    let ms := readMsgs e 3 x.nextTag r.1 r.2
    { x with
      tx := x.tx ++ ms.map (·.2), nextTag := x.nextTag + ms.length
      sqs := x.sqs.upd n fun q => { q with fetch := q.fetch ++ ms.map (·.1), have_ := q.have_ ++ [r] } }) d

/-- The reads of one level (R133, R298): everything at once, or requests to other modules first. -/
def gather (e : Env) (d : Desk) (n : Fin 64) (rs : List (Nat × Nat)) : Gather :=
  let q := d.sqs.at n
  let ask := missing e q rs
  if q.fetchErr then .fail d .dataLost
  else if !ask.isEmpty then .wait (askFor e d n ask)
  else if !q.fetch.isEmpty then .wait d
  else
    let r := rs.foldl (fun (x : Desk × List Bytes × Option Stop) r =>
      if x.2.2.isSome then x
      else if r.2 = 0 then (x.1, x.2.1 ++ [[]], none)
      else
        let a := readRange e x.1 n q.fetched r.1 r.2
        (a.desk, x.2.1 ++ [a.bytes], a.fail)) (d, [], none)
    match r.2.2 with
    | some k => .fail r.1 k
    | none => .done r.1 r.2.1

/-- The bytes of a range where they can be had with no effect; none of a range that cannot be read at once. A command that needs an
absent unit reads no memory, and its descriptors are still part of its encoding (R8, R133). -/
def peek (e : Env) (d : Desk) (port : Fin 4) (r : Nat × Nat) : Bytes :=
  let a := addrDevice r.1
  if r.2 = 0 || rangeVerdict e d port false r.1 r.2 ≠ .ok || !addrOwn e r.1 then []
  else if hostBase ≤ a then
    match windowTarget (d.ports.at port) false a r.2 with
    | some h => cellReads (d.ports.at port).host h r.2
    | none => []
  else if tableBase ≤ a then (List.range r.2).map fun i => tableByte (a + i - tableBase)
  else if (badSector d.mem a r.2).isSome then [] else cellReads d.mem.cells a r.2

/-- The record of a packet as it comes to the checks of Table 9.22: GCTL sampled, signature formed (R178, R187), and whether a fence
with ERR set released its wait (R228). -/
def sampledCmd (e : Env) (d : Desk) (n : Fin 64) (c : Cand) : Cmd :=
  let waiter := pktOp c.pkt == some .fenceWait
  { freshCmd d (d.sqs.at n) c.pkt c.index c.launch c.visible with
    strict := d.gctl.detStrict || pktStrict c.pkt
    fixed := d.gctl.fixedTiming
    cls := d.gctl.timingClass.toNat
    ckpt := d.gctl.ckpt.toNat
    sig := signature e d d.gctl.fixedTiming d.gctl.timingClass.toNat
    depError := (headMark d n c).any (·.freed) || (pktWait c.pkt && (d.fences.at (fin 256 (pktWaitFence c.pkt))).err) ||
      (waiter && (d.fences.at (fin 256 (field c.pkt 16 1))).err) }

/-- The record of a packet at its dispatch: sampled, with what Front Desk has read for it (R92, R133, R158, R196). -/
def dispatchedCmd (e : Env) (d : Desk) (n : Fin 64) (c : Cand) (o : Op) (got : List Bytes) : Cmd :=
  let base := sampledCmd e d n c
  let s := d.slots.at (pktSlot c.pkt)
  let src : Option (Ann × Bytes) := match s.image with
    | some g => if o == Op.resume then resumeSource d s g c.pkt (got.getD 0 []) else none
    | none => none
  { base with
    ckpt := if o == .resume then (src.map fun x => x.1.ckpt).getD 0 else base.ckpt
    descs := if o == .resume then [got.getD 1 [], got.getD 0 []] else if o == .correlate then got.take 2 else got
    stats := if o == .correlate then got.drop 2 else []
    -- the fence value that released a FENCE_WAIT (Table 9.18, R236)
    done := if o == .fenceWait then
        (if (headMark d n c).any (·.freed) then 2 ^ 64 - 1 else (d.fences.at (fin 256 (field c.pkt 16 1))).value.toNat)
      else 0
    sched := if o == .resume then (src.map (·.2)).getD [] else if opRun o then schedBytes d s else []
    itin := if o == .itineraryLaunch then some (fin 256 (field c.pkt 16 1)) else none
    window := if o == .itineraryLaunch then (d.itins.at (fin 256 (field c.pkt 16 1))).window else [] }

/-- The dispatch of a slot-writing command opens its slot (Table 2.6): the commit is void and the suspension record goes
(R195). -/
def openSlot (port : Fin 4) (s : Slot) : Slot :=
  { s with
    state := .open_
    owner := if s.state = .empty then some port else s.owner
    image := none, susp := none, suspLost := false }

/-- What the dispatch itself does to a slot: Table 2.6, and the record that a RESUME from a copy discards (R196). -/
def dispatchSlot (d : Desk) (n : Fin 64) (o : Op) (p : Bytes) : Desk :=
  match o with
  | .loadCouplings | .loadBiases | .loadGroups | .setSchedule | .setPhaseMap =>
    updSlot (leaveSlot d (pktSlot p)) (pktSlot p) (openSlot (queuePort n))
  | .resume => if field p 24 8 = 0 then d else updSlot d (pktSlot p) fun s => { s with susp := none, suspLost := false }
  | _ => d

/-- The launch moves on to the packet after the one dispatched. -/
def launchNext (q : Sq) (launch : Option (Fin 256)) : Sq :=
  if launch.isSome then { q with launch := q.launch.map fun l => { l with next := l.next + 1 } } else q

/-- The state that reads for a dispatch left in the queue is dropped. -/
def clearFetch (q : Sq) : Sq := { q with fetch := [], fetched := [], have_ := [], fetchErr := false }

/-- A packet that fails at dispatch: it completes without running (R217), at once, or after its predecessor when it is
preloaded (R222). -/
def failPacket (d : Desk) (n : Fin 64) (c : Cmd) (status : Nat) (preload : Bool) : Desk :=
  let d1 := { d with sqs := d.sqs.upd n fun q => launchNext (clearFetch q) c.launch }
  let c1 := { c with status := status, stage := .ended }
  if preload then { d1 with sqs := d1.sqs.upd n fun q => { q with pre := some c1 } }
  else retire d1 n c1

/-- A packet that passes is dispatched: it takes its allotment and becomes the queue's command, or its preloaded one. -/
def startPacket (d : Desk) (n : Fin 64) (o : Op) (c : Cmd) (tiles : List Nat) (preload : Bool) : Desk :=
  let d1 := { d with sqs := d.sqs.upd n fun q => launchNext (clearFetch q) c.launch }
  let d2 := if opTile o then { d1 with sqs := d1.sqs.upd n fun q => { q with allot := tiles } } else d1
  let c1 := { c with tiles := tiles, stage := if preload then .preloaded else .dispatched }
  let d3 := { d2 with sqs := d2.sqs.upd n fun q => if preload then { q with pre := some c1 } else { q with cur := some c1 } }
  let d4 := if preload && opTile o then writeShadow d3 tiles (if opNamesSlot o then some (pktSlot c.pkt) else none) else d3
  dispatchSlot { d4 with deadlockSince := none } n o c.pkt

/-- What the examination of one queue comes to. -/
inductive Examined where
  | nothing                 -- it cannot start a command now
  | waits (d : Desk)        -- it asks other modules for what the dispatch reads, or begins a drain; nothing starts
  | starts (d : Desk)       -- its command is dispatched, or completes at a check
deriving DecidableEq, Repr

/-- Whether a status fails at the check of an opcode itself (checks 1 and 2). -/
def earlyChecks (d : Desk) (c : Cand) : Option Nat :=
  if !headerOk c.pkt c.launch.isSome then some stBad
  else if pktDeadlineValid c.pkt && decide (pktDeadline c.pkt < d.now) then some stExpired
  else none

/-- Whether a run of another queue on a slot is under way. No rule lets two runs share a slot's state: a run whose slot is in use by
another queue's waits as for tiles (DESIGN CHOICE, log entry 14). -/
def runElsewhere (d : Desk) (n : Fin 64) (i : Fin 64) : Bool :=
  (liveCmds d).any fun x => x.1 != n && (match pktOp x.2.pkt with | some o => opRun o && pktSlot x.2.pkt == i | none => false)

/-- The tiles on which a packet of SQ `n` can start now (R221). -/
def tilesNow (e : Env) (d : Desk) (n : Fin 64) (o : Op) (p : Bytes) : Option (List Nat) :=
  if opRun o && runElsewhere d n (pktSlot p) then none
  else allotFor e.fuses.grade d n (if opNamesSlot o then some (pktSlot p) else none) (cmdGeometry d n o p)

/-- Whether a management command is under way: no tile command runs beside it (R212). -/
def mgmtLive (d : Desk) : Bool := anyLive d fun o _ => opMgmt o

/-- Whether no tile command may start: the module drains for a management command or runs one (R212, R220 step 4), or a thermal trip
holds the tiles (R338). -/
def tilesBarred (d : Desk) : Bool := d.drain || mgmtLive d || d.tripHold || (d.tclkOff && !d.tripLatched)

/-- A queue whose command finds no placement gives up its allotment of another size before it waits (R221 steps 2 and 3). -/
def dropAllot (d : Desk) (n : Fin 64) (o : Op) (p : Bytes) : Desk :=
  if (d.sqs.at n).allot.length = cmdGeometry d n o p then d else { d with sqs := d.sqs.upd n fun q => { q with allot := [] } }

/-- Staging room of a die that dispatched commands have reserved, in bytes (R145). -/
def stagingTaken (d : Desk) (die : Nat) : Nat :=
  sumNat ((List.range 64).map fun n =>
    let q := d.sqs.at (fin 64 n)
    (q.cur.elim 0 fun c => getn c.staging die) + (q.pre.elim 0 fun c => getn c.staging die))

/-- Whether room that a command asks for cannot be had on some die: it waits before it starts (R145). -/
def stagingShort (d : Desk) (need : List Nat) : Bool :=
  (List.range 4).any fun die => decide (0 < getn need die) && decide (33554432 < getn need die + stagingTaken d die)

/-- The dispatch of a packet whose reads are all in (checks 3 to 8), its tiles and its staging room. -/
def decideStart (e : Env) (d : Desk) (n : Fin 64) (c : Cand) (o : Op) (got : List Bytes) (preload : Bool) : Examined :=
  let x := dispatchedCmd e d n c o got
  match lateChecks e d n o c.pkt got with
  | some st => .starts (failPacket d n x st preload)
  | none =>
    if opMgmt o && tileRunning d then .waits { d with drain := true }
    else if opTile o then
      match tilesNow e d n o c.pkt with
      | none => .nothing
      | some tiles =>
        let y := if opTensor o then { x with staging := stagingNeed o x tiles } else x
        if stagingShort d y.staging then .waits d else .starts (startPacket d n o y tiles preload)
    else .starts (startPacket d n o x (d.sqs.at n).allot preload)

/-- The status that a failed read at dispatch gives. -/
def readStatus (k : Stop) : Nat := stopStatus k

/-- Whether a RESUME names a suspension record that was lost (Table 15.2). -/
def lostRecord (d : Desk) (p : Bytes) : Bool :=
  field p 24 8 == 0 && (d.slots.at (pktSlot p)).susp.isNone && (d.slots.at (pktSlot p)).suspLost

/-- A packet that needs an absent unit completes NOT_SUPPORTED, or BAD_PACKET where anything it names is malformed or not mapped, and
has read nothing (R8). -/
def refuseUnit (e : Env) (d : Desk) (n : Fin 64) (c : Cand) (o : Op) (preload : Bool) : Examined :=
  let port := queuePort n
  let got0 := (dispatchReads d o c.pkt 0 []).map (peek e d port)
  let rs1 := dispatchReads d o c.pkt 1 got0
  let v := (readsVerdict e d port rs1).both (contentVerdict e d n o c.pkt (got0 ++ rs1.map (peek e d port)) false)
  .starts (failPacket d n (dispatchedCmd e d n c o got0) (if v = .unmapped then stBad else stUnsupported) preload)

/-- The dispatch of a ready packet: the checks in the order of Table 9.22, with the reads of R133 between them. An
ABORT is carried out by its own command (R231). -/
def tryPacket (e : Env) (d : Desk) (n : Fin 64) (c : Cand) (preload : Bool) : Examined :=
  let bare := sampledCmd e d n c
  match pktOp c.pkt with
  | none => .starts (failPacket d n bare stBad preload)
  | some .abort => .nothing
  | some o =>
    let t := cmdGeometry d n o c.pkt
    match earlyChecks d c with
    | some st => .starts (failPacket d n bare st preload)
    | none =>
      if opTile o && serviceable e.fuses.grade d t && tilesBarred d then .nothing
      else if opTile o && serviceable e.fuses.grade d t && (tilesNow e d n o c.pkt).isNone then .waits (dropAllot d n o c.pkt)
      else
        let rs0 := dispatchReads d o c.pkt 0 []
        if packetVerdict e d n o c.pkt = .unmapped then .starts (failPacket d n (dispatchedCmd e d n c o []) stBad preload)
        else if packetVerdict e d n o c.pkt = .absent || (opTile o && lacksUnit e o c.pkt t []) then refuseUnit e d n c o preload
        else if o == Op.resume && lostRecord d c.pkt then
          .starts (failPacket d n (dispatchedCmd e d n c o []) stDataLost preload)
        else match gather e d n rs0 with
        | .wait d' => .waits d'
        | .fail d' k => .starts (failPacket d' n (dispatchedCmd e d' n c o []) (readStatus k) preload)
        | .done d1 got0 =>
          let rs1 := dispatchReads d1 o c.pkt 1 got0
          if readsVerdict e d1 (queuePort n) rs1 ≠ .ok || (opTile o && lacksUnit e o c.pkt t got0) then
            refuseUnit e d1 n c o preload
          else match gather e d1 n rs1 with
            | .wait d' => .waits d'
            | .fail d' k => .starts (failPacket d' n (dispatchedCmd e d' n c o got0) (readStatus k) preload)
            | .done d2 got1 => decideStart e d2 n c o (got0 ++ got1) preload

/-- The tiles on which a command suspended by a time slice can go on (R223 step 5). -/
def resumeTiles (e : Env) (d : Desk) (n : Fin 64) (c : Cmd) : Option (List Nat) :=
  if tilesBarred d then none
  else
    let slot := match pktOp c.pkt with
      | some o => if opNamesSlot o then some (cmdSlot c) else none
      | none => none
    allotFor e.fuses.grade d n slot c.tiles.length

/-- The queues in round-robin order, from RR + 1 on (R220). -/
def roundRobin (d : Desk) : List (Fin 64) := (List.range 64).map fun k => fin 64 (d.rr.val + 1 + k)

/-- The examination of one queue: a command suspended by a time slice stands as its head (R220 step 3). -/
def examine (e : Env) (d : Desk) (n : Fin 64) : Examined :=
  let q := d.sqs.at n
  match q.cur with
  | some c => if c.stage = .sliced ∧ (resumeTiles e d n c).isSome then .starts d else .nothing
  | none =>
    match nextCand d n with
    | some c => if isReady d n c then tryPacket e d n c false else .nothing
    | none => .nothing

/-- The first queue of the round that can start a command, with what its examination comes to; queues examined before
it may have asked other modules for reads or begun a drain. -/
def firstStart (e : Env) : List (Fin 64) → Desk → Desk × Option (Fin 64)
  | [], d => (d, none)
  | n :: ns, d => match examine e d n with
    | .nothing => firstStart e ns d
    | .waits d' => firstStart e ns d'
    | .starts _ => (d, some n)

/-- The round of R220 for a start: the first queue that can start does so, unless it is one that resumes. -/
def dispatchRound (e : Env) (d : Desk) : Desk :=
  match firstStart e (roundRobin d) d with
  | (d1, none) => d1
  | (d1, some n) =>
    match (d1.sqs.at n).cur with
    | some _ => d1
    | none => match examine e d1 n with
      | .starts d2 => { d2 with rr := n }
      | _ => d1

/-- The round of R220 for a resume after a time slice (R223 step 5). -/
def resumeRound (e : Env) (d : Desk) (go : Desk → Fin 64 → Cmd → List Nat → Desk) : Desk :=
  match firstStart e (roundRobin d) d with
  | (d1, none) => d1
  | (d1, some n) =>
    match (d1.sqs.at n).cur with
    | some c => match resumeTiles e d1 n c with
      | some tiles => { go d1 n c tiles with rr := n }
      | none => d1
    | none => d1

/-- Whether a packet that names a problem slot may be dispatched while the running command of its queue has that slot:
a slot-writing command or a SUSPEND before it acts first, and a RESUME waits for every command on its slot (log entry 45). -/
def slotClash (o : Op) (p : Bytes) (run : Op) (rp : Bytes) : Bool :=
  opNamesSlot o && opNamesSlot run && pktSlot p == pktSlot rp && (opSlotWriter run || run == .suspend || o == .resume)

/-- Whether an ITINERARY_LAUNCH follows a PATCH or SEED_DRAW to its itinerary that has not completed (R227). -/
def patchClash (o : Op) (p : Bytes) (run : Op) (rp : Bytes) : Bool :=
  o == .itineraryLaunch &&
  ((run == .patch && field rp 16 1 == field p 16 1) ||
   (run == .seedDraw && bit (field rp 16 1) 0 && field rp 18 1 == field p 16 1))

/-- Front Desk preloads the next packet of a queue whose command is under way (R222). -/
def preloadNext (e : Env) (d : Desk) (n : Fin 64) : Desk :=
  let q := d.sqs.at n
  match q.cur, q.pre, q.launch, nextCand d n with
  | some run, none, none, some c =>
    match pktOp run.pkt, pktOp c.pkt with
    | some ro, some o =>
      let same := !opTile o || (opTile ro && cmdGeometry d n o c.pkt == q.allot.length)
      if run.launch.isNone && (run.stage == .dispatched || run.stage == .working) && ro != .itineraryLaunch &&
          !opMgmt o && o != .abort && same && isReady d n c && !slotClash o c.pkt ro run.pkt &&
          !patchClash o c.pkt ro run.pkt then
        match tryPacket e d n c true with
        | .starts d' => d'
        | .waits d' => d'
        | .nothing => d
      else d
    | _, _ => d
  | _, _, _, _ => d

end Sys2Proof.Machine
end

