-- ==== Sys2Proof/Machine/Fabric.lean ====
section
/-!
DEFINITION. Strelide below the records: flits (Table 12.2), cabling (R287), routes (R293), sending, retention and
numbering of messages (R294, R295), and the link's replay buffer (R286).
-/
namespace Sys2Proof.Machine

/-! ## Flits and envelopes -/

/-- A flit with its CRC (Table 12.2, R285). -/
def flitBytes (ftype cls : Nat) (first last : Bool) (seq ack creditClass credits : Nat) (payload : Bytes) : Bytes :=
  let body := leBytes 1 (ftype + 4 * cls + 32 * b2n first + 64 * b2n last) ++ leBytes 1 payload.length ++
    leBytes 2 (seq % 4096) ++ leBytes 2 (ack % 4096) ++ leBytes 2 (creditClass + 32 * credits) ++ slice payload 0 244
  body ++ leBytes 4 (crc32 body).toNat

/-- Whether a flit's CRC is good. -/
def flitGood (f : Bytes) : Bool := f.length == 256 && field f 252 4 == (crc32 (f.take 252)).toNat

/-- FTYPE, CLASS, FIRST, LAST, LEN and FSEQ of a flit. -/
def flitType (f : Bytes) : Nat := fieldBits f 0 1 0 2
def flitClass (f : Bytes) : Nat := fieldBits f 0 1 2 3
def flitFirst (f : Bytes) : Bool := bit (field f 0 1) 5
def flitLast (f : Bytes) : Bool := bit (field f 0 1) 6
def flitLen (f : Bytes) : Nat := field f 1 1
def flitSeq (f : Bytes) : BitVec 12 := BitVec.ofNat 12 (field f 2 2)
def flitAck (f : Bytes) : BitVec 12 := BitVec.ofNat 12 (field f 4 2)

/-- The message with its envelope (Table 12.6). -/
def msgBytes (m : Msg) : Bytes :=
  leBytes 1 (m.cls + 8 * m.rtype) ++ leBytes 1 m.src.toNat ++ leBytes 1 m.dst.toNat ++ leBytes 1 (b2n m.err) ++
  leBytes 4 m.body.length ++ leBytes 4 m.key.toNat ++ leBytes 4 m.mseq ++ m.body

/-- A message read from its bytes. -/
def msgOf (b : Bytes) : Msg :=
  { cls := fieldBits b 0 1 0 3, rtype := fieldBits b 0 1 3 5, src := BitVec.ofNat 6 (field b 1 1)
    dst := BitVec.ofNat 6 (field b 2 1), err := bit (field b 3 1) 0, key := BitVec.ofNat 32 (field b 8 4)
    body := slice b 16 (field b 4 4), mseq := field b 12 4 }

/-- The data flits of a message, FSEQ and CRC still to be set (R284). -/
def msgFlits (m : Msg) : List Bytes :=
  let bs := msgBytes m
  let k := ceilDiv bs.length 244
  (List.range k).map fun i => flitBytes 1 m.cls (i == 0) (i + 1 == k) 0 0 31 0 ((bs.drop (244 * i)).take 244)

/-- A waiting flit with the FSEQ it is sent under. -/
def stampFlit (f : Bytes) (seq : BitVec 12) : Bytes :=
  let body := spliceBytes (f.take 252) 2 (leBytes 2 seq.toNat)
  body ++ leBytes 4 (crc32 body).toNat

/-! ## Cabling and routes -/

/-- The (module, port) pairs that Table 12.3 gives for port `p` of module `self`. -/
def cabled (self p : Nat) : List (Nat × Nat) :=
  let a := self / 8
  let s := self % 8
  if p ≤ 6 then [(8 * a + (s + p + 1) % 8, 6 - p)]
  else if p = 7 then [(8 * a + (s + 1) % 8, 15)]
  else if p ≤ 14 then [(8 * ((a + p - 7) % 8) + s, 22 - p), (8 * a + (s + p - 7) % 8, 22 - p)]
  else [(8 * a + (s + 7) % 8, 7)]

/-- The lowest-numbered port whose accepted peer is module `id`, link up or in a retrain that has not failed for good
(R293, R300, R286). -/
def directPort (f : Fabric) (id : Nat) : Option (Fin 16) :=
  ((List.range 16).map (fin 16)).find? fun p =>
    let q := f.ports.at p
    (q.link == .up || q.link == .training) && q.accepted && q.peerId.toNat == id

/-- Whether the link between two other modules is up. -/
def farUp (f : Fabric) (x y : Nat) : Bool := f.far.any fun l => l.1.val == min x y && l.2.val == max x y

/-- The first hop of two over module `mid` to module `dst`, when both links are up. -/
def hopOver (f : Fabric) (mid dst : Nat) : Option (Fin 16) := if farUp f mid dst then directPort f mid else none

/-- The first hop towards a module: the first route of R293 whose links are all up. What a module knows of links between other modules
comes to it as events of those links (DESIGN CHOICE, log entry 53). -/
def routePort (self : Nat) (f : Fabric) (dst : Nat) : Option (Fin 16) :=
  let a := self / 8
  let s := self % 8
  let b := dst / 8
  let s' := dst % 8
  firstSome id [
    directPort f dst,
    if b ≠ a ∧ s' ≠ s then hopOver f (8 * a + s') dst else none,
    if b ≠ a ∧ s' ≠ s then hopOver f (8 * b + s) dst else none,
    if b = a then firstSome (fun k => hopOver f (8 * a + k) dst) (List.range 8) else none]

/-- Whether some route reaches a module. -/
def reachable (self : Nat) (f : Fabric) (dst : Nat) : Bool := (routePort self f dst).isSome

/-! ## Numbering -/

/-- The number kept for a module and class. -/
def seqOf (l : List (BitVec 6 × Nat × Nat)) (id : BitVec 6) (cls : Nat) : Nat :=
  ((l.find? fun x => x.1 == id && x.2.1 == cls).map (·.2.2)).getD 0

/-- The number kept for a module and class, set. -/
def seqSet (l : List (BitVec 6 × Nat × Nat)) (id : BitVec 6) (cls v : Nat) : List (BitVec 6 × Nat × Nat) :=
  (id, cls, v) :: l.filter fun x => !(x.1 == id && x.2.1 == cls)

/-- MSEQ after another: the field has 32 bits (Table 12.6). -/
def seqAfter (n : Nat) : Nat := (n + 1) % 4294967296

/-- Whether an MSEQ comes before another. At most 4 MiB of messages of 16 bytes and more are unacknowledged (R294), so the nearer way round
the 32-bit numbers is the true one. -/
def seqBefore (a b : Nat) : Bool := a != b && decide ((b + 4294967296 - a) % 4294967296 < 2147483648)

/-! ## Receive credits (R295, R297) -/

/-- Flits of a message on a link. -/
def msgFlitCount (m : Msg) : Nat := ceilDiv (16 + m.body.length) 244

/-- Flits of receive buffer of a port for a class: at least the 17 of the longest message (R296), as many as CREDITS can name at most (log
entry 18). -/
def rxRoom (cls : Nat) : Nat := 17 + Config.rxCredits cls % 2031

/-- Flits of a port and class that messages delivered or held back still occupy. -/
def rxHeld (f : Fabric) (p : Fin 16) (cls : Nat) : Nat :=
  sumNat (((f.inbox ++ f.ahead).filter fun x => x.1 == p && x.2.cls == cls).map fun x => msgFlitCount x.2)

/-- The receive credits that a port advertises when it has trained, by class. -/
def freshCredits (f : Fabric) (p : Fin 16) : Tab 5 Nat := Tab.gen 5 fun k => rxRoom k - rxHeld f p k

/-- The idle flit that gives a peer receive credits of a class (R284). -/
def creditFlit (cls n : Nat) : Bytes := flitBytes 0 0 false false 0 0 cls n []

/-! ## Sending -/

/-- Whether a waiting flit may go out on a port: its class has credit, and before both hellos are received and accepted only a hello
crosses (R289, R295). Nothing crosses a refused link (R290). -/
def mayGo (q : FabPort) (f : Bytes) : Bool :=
  decide (0 < q.credits.at (fin 5 (flitClass f))) && !q.refused && ((q.accepted && q.greeted) || field f 8 1 == 4)

/-- The weighted round of BSPIN, HALO and RMEM, 2 to 2 to 1 (Table 12.5). -/
def wrrRound : List Nat := [1, 1, 2, 2, 3]

/-- The oldest waiting flit of a class that may go. -/
def readyOf (q : FabPort) (c : Nat) : Option Bytes := q.queue.find? fun f => mayGo q f && flitClass f == c

/-- The waiting flit that goes next, and the place in the weighted round after it: MBX first, then FLIP, then the round (Table 12.5). -/
def nextFlit (q : FabPort) : Option (Bytes × Fin 5) :=
  match (readyOf q 4).orElse fun _ => readyOf q 0 with
  | some f => some (f, q.turn)
  | none => firstSome (fun k =>
      let j : Fin 5 := fin 5 (q.turn.val + k)
      (readyOf q (wrrRound.getD j.val 1)).map fun f => (f, j + 1)) (List.range 5)

/-- A port sends what it may: data flits while fewer than 1,024 are unacknowledged (R286). -/
def pumpPort (now : Nat) (p : Fin 16) : Nat → FabPort × List Out → FabPort × List Out
  | 0, r => r
  | fuel + 1, (q, out) =>
    if q.link != .up || decide (1024 ≤ q.replay.length) then (q, out)
    else match nextFlit q with
    | none => (q, out)
    | some (f, turn) =>
      let g := stampFlit f q.txSeq
      let k := fin 5 (flitClass f)
      pumpPort now p fuel ({ q with
        queue := q.queue.erase f, replay := q.replay ++ [(q.txSeq, g)], txSeq := q.txSeq + 1, turn := turn
        credits := q.credits.upd k fun c => c - 1
        ackAt := if q.replay.isEmpty then now else q.ackAt }, out ++ [.flit p g])

/-- One port pumped. -/
def pump (now : Nat) (p : Fin 16) (f : Fabric) : Fabric × List Out :=
  let q := f.ports.at p
  let r := pumpPort now p q.queue.length (q, [])
  ({ f with ports := f.ports.put p r.1 }, r.2)

/-- A message's flits queued on a port. -/
def queueOn (p : Fin 16) (m : Msg) (f : Fabric) : Fabric :=
  { f with ports := f.ports.upd p fun q => { q with queue := q.queue ++ msgFlits m } }

/-- Bytes retained for a destination (R294). -/
def keptBytes (f : Fabric) (dst : BitVec 6) : Nat :=
  sumNat ((f.kept.filter fun m => m.dst == dst).map fun m => 16 + m.body.length)

/-- The port a message leaves by: mailbox traffic only to a direct peer (R300). -/
def exitPort (self : Nat) (f : Fabric) (m : Msg) : Option (Fin 16) :=
  if m.cls = 4 then directPort f m.dst.toNat else routePort self f m.dst.toNat

/-- A message of this module is numbered, retained and queued, or waits for a route or for retention room (R294). -/
def sendMsg (self now : Nat) (r : Fabric × List Out) (m : Msg) : Fabric × List Out :=
  let f := r.1
  match exitPort self f m with
  | none => ({ f with unsent := f.unsent ++ [m] }, r.2)
  | some p =>
    if 4194304 < keptBytes f m.dst + 16 + m.body.length || f.unsent.any (fun x => x.dst == m.dst && x.cls == m.cls) then
      ({ f with unsent := f.unsent ++ [m] }, r.2)
    else
      let m' := { m with mseq := seqOf f.outSeq m.dst m.cls }
      let f1 := { f with kept := f.kept ++ [m'], outSeq := seqSet f.outSeq m.dst m.cls (seqAfter m'.mseq) }
      let q := pump now p (queueOn p m' f1)
      (q.1, r.2 ++ q.2)

/-- Messages that waited are tried again, in order. -/
def retryUnsent (self now : Nat) (f : Fabric) : Fabric × List Out :=
  f.unsent.foldl (sendMsg self now) ({ f with unsent := [] }, [])

/-- Messages of this module handed to the fabric. -/
def sendAll (self now : Nat) (f : Fabric) (ms : List Msg) : Fabric × List Out := ms.foldl (sendMsg self now) (f, [])

end Sys2Proof.Machine
end

