-- ==== Sys2Proof/Machine/Settle.lean ====
section
/-!
DEFINITION. What follows every event at once: messages of Front Desk go out on the fabric (R294), the module is ACTIVE
while a command runs and IDLE otherwise (R329), and the descent timer restarts when its conditions change (R329). Also
the wake events of Table 14.3.
-/
namespace Sys2Proof.Machine

/-- Messages of Front Desk are handed to the fabric. -/
def flushTx (s : State) : State :=
  if s.desk.tx.isEmpty then s
  else
    let r := sendAll s.elec.moduleId.toNat s.desk.now s.fab s.desk.tx
    { s with fab := r.1, desk := { s.desk with tx := [], out := s.desk.out ++ r.2 } }

/-- Whether a command runs on the module: begun or dispatched, and neither sliced nor held by a trip (R329). -/
def anyRunning (d : Desk) : Bool :=
  d.sqs.toList.any fun q => q.launch.isSome || q.cur.any fun c => c.stage != .sliced && c.stage != .held

/-- Whether a command is running, preloaded or ready for dispatch (R329). -/
def anyWork (d : Desk) : Bool :=
  (d.sqs.toList.any fun q => q.launch.isSome || q.cur.isSome || q.pre.isSome) ||
  (List.range 64).any fun i => (d.sqs.at (fin 64 i)).enable && match nextCand d (fin 64 i) with
    | some c => isReady d (fin 64 i) c
    | none => false

/-- Whether Front Desk has something to send (R329). -/
def anyToSend (d : Desk) (m : Mailboxes) : Bool :=
  (d.cqs.toList.any fun c => c.enable && !c.waiting.isEmpty && !cqFull c) ||
  (m.f2hQueue.toList.any fun l => !l.isEmpty) || !m.fdNpQueue.isEmpty || (m.fdPeerQueue.toList.any fun l => !l.isEmpty) ||
  (d.ledger.enable && !d.ledger.lag && decide (d.ledger.mirrored < d.ledger.head))

/-- Whether an incoming message or doorbell of Front Desk awaits service (R329, R246). -/
def anyToServe (m : Mailboxes) : Bool :=
  (m.h2f.toList.any fun b => b.full) || m.npToFd.full || (m.peerToFd.toList.any fun b => b.full) ||
  (m.fdHost.toList.any fun b => b.pend != 0) || m.fdPorter.pend != 0 || (m.fdPeer.toList.any fun b => b.pend != 0)

/-- Whether the conditions of R329 for the descent from IDLE to NAP hold. -/
def quietNow (s : State) : Bool := !anyWork s.desk && !anyToSend s.desk s.mbx && !anyToServe s.mbx

/-- ACTIVE while a command runs, IDLE while none does (R329). -/
def settlePower (s : State) : State :=
  match s.np.state with
  | .active => if anyRunning s.desk then s else { s with np := { s.np with state := .idle, timer := s.desk.now } }
  | .idle => if anyRunning s.desk then { s with np := { s.np with state := .active } } else s
  | _ => s

/-- A change in the conditions of R329 restarts the descent timer. -/
def settleTimer (s : State) : State :=
  if quietNow s = s.np.quiet then s else { s with np := { s.np with quiet := quietNow s, timer := s.desk.now } }

/-- TCLK goes to 1,800 MHz as the first fixed-timing command is dispatched, and is free again when none is left (R179, R335). -/
def settleClock (s : State) : State :=
  if fixedLive s.desk then
    if s.np.fixedHold then s else { s with np := { s.np with fixedHold := true, f := 1800 } }
  else { s with np := { s.np with fixedHold := false } }

/-- The count of R229 runs while every head is fence-blocked. -/
def settleBlock (s : State) : State :=
  let since := if allBlocked s.desk then s.desk.deadlockSince.orElse fun _ => some s.desk.now else none
  { s with desk := { s.desk with deadlockSince := since } }

/-- Whether a management command is under way or ready at the head of a queue: the drain of R220 step 4 is for it. -/
def mgmtWaits (d : Desk) : Bool :=
  let mgmt (p : Bytes) : Bool := match pktOp p with | some o => opMgmt o | none => false
  ((List.range 64).map (fin 64)).any fun n => match (d.sqs.at n).cur with
    | some c => mgmt c.pkt
    | none => match nextCand d n with
      | some c => mgmt c.pkt && isReady d n c
      | none => false

/-- Front Desk looks at the heads of its queues: it notes which are held (R57, R225), and a drain ends when no management command
waits for it any more (R220 step 4). -/
def settleHeads (s : State) : State :=
  let d := markHeads s.desk
  { s with desk := { d with drain := d.drain && mgmtWaits d } }

/-- Whether a logical tile of a die that is present is unserviceable. -/
def anyTileLost (g : Grade) (d : Desk) : Bool := (List.range (64 * gradeDies g)).any fun l => !tileServed g d l

/-- Whether planned TCLK is 1,700 MHz or less. -/
def aged (p : Porter) : Bool := decide (12 ≤ p.steps)

/-- Whether a cause of DEGRADED holds (R356). -/
def degraded (s : State) : Bool :=
  anyTileLost s.fuses.grade s.desk || anyDieDisabled s.desk || aged s.np || s.np.tripLatched

/-- The least coolant flow of a grade, mL/min (Table 19.6). -/
def leastFlow (g : Grade) : Int :=
  match g with
  | .ktk9480 => 2000 | .ktk9460 => 1800 | .ktk9440 => 1000

/-- The SMBus STATUS word (Table 19.5). The coolant bits are judged once a round of samples has been made. -/
def statusWord (s : State) : BitVec 8 :=
  let p := s.np
  let sampled := decide (0 < p.rounds)
  BitVec.ofNat 8 (b2n (degraded s) + 2 * b2n (p.capThrottle || p.thermalThrottle) + 4 * b2n p.limiter +
    8 * b2n (p.tripHold || p.tripLatched) + 16 * b2n s.smb.excursion +
    32 * b2n (sampled && decide (p.val.at 98 < leastFlow s.fuses.grade) && (p.state == .active || p.state == .idle)) +
    64 * b2n (sampled && decide (40000 < p.val.at 97)) + 128 * b2n s.sec.tampered)

/-- The latch of a STATUS bit sets when the bit goes to 1 (R410). -/
def latchStatus (s : State) : State :=
  let w := statusWord s
  { s with smb := { s.smb with latches := s.smb.latches ||| (w &&& ~~~ s.smb.seen), seen := w } }

/-- What follows every event at once, in a module that runs. -/
def settle (s : State) : State :=
  match s.elec.life with
  | .running => latchStatus (settleTimer (settlePower (settleClock (settleBlock (settleHeads (flushTx s))))))
  | _ => s

/-- An event on Front Desk's part of the state, and what follows it at once. -/
def onDesk (s : State) (f : Env → Desk → Desk) : State := settle { s with desk := f (envOf s) s.desk }

/-- Whether FDCLK runs (Table 14.2): Front Desk acts. -/
def deskAwake (s : State) : Bool := s.elec.life == .running && (s.np.state == .active || s.np.state == .idle)

/-- The code of a module state (Table 14.2). -/
def stateCode (p : PState) : Nat :=
  match p with
  | .active => 0 | .idle => 1 | .nap => 2 | .doze => 3 | .night => 4

/-- A wake event of Table 14.3 other than code 8: below IDLE it begins a wake, and of several in one
AOCLK cycle the lowest code counts (R328); in every state it restarts the descent timer and ends a descent that Night Porter has asked for
(R329, R331). A thermal trip holds the dies and not Front Desk: the module wakes for its Front Desk commands (R338 step 3). -/
def wake (code : BitVec 4) (s : State) : State :=
  let p := s.np
  if s.elec.life != .running then s
  else
    let asked := match p.asked with
      | some (.descend _) => none
      | x => x
    let p1 := { p with timer := s.desk.now, asked := asked }
    if p.state == .active || p.state == .idle then { s with np := p1 }
    else if p.waking then
      let first := decide (p.wakeAt = s.desk.now) && decide (code < p.wakeCause)
      { s with np := { p1 with wakeCause := if first then code else p.wakeCause } }
    else { s with np := { p1 with waking := true, left := stateCode p.state, wakeCause := code, wakeAt := s.desk.now } }

end Sys2Proof.Machine
end

