-- ==== Sys2Proof/Machine/Work.lean ====
section
/-!
DEFINITION. The work of a dispatched packet command: its start, its end, and transfers by 1 MiB pieces (R223, R230,
R417), from and to the module, its partner or another module.
-/
namespace Sys2Proof.Machine

/-! ## Start and end of work -/

/-- The command of SQ `n` when it is of the given opcode, dispatched or at work, with no stop asked for, and, where it runs on tiles, with
TCLK running (R338 step 1). -/
def workOf (d : Desk) (n : Fin 64) (o : Op) : Option Cmd :=
  match (d.sqs.at n).cur with
  | some c =>
    if pktOp c.pkt == some o && !(d.tclkOff && opTile o) && (c.stage == .dispatched || c.stage == .working) && c.stop.isNone then some c else none
  | none => none

/-- The start of work (Table 9.17). -/
def beginWork (d : Desk) (c : Cmd) : Cmd :=
  if c.stage == .dispatched then
    { c with stage := .working, began := true, startedAt := d.now, resumedAt := d.now, progressAt := d.now }
  else c

/-- The work of a command has ended with a status, a RESULT and a LIMIT. -/
def endWork (d : Desk) (n : Fin 64) (c : Cmd) (status : Nat) (result : Bytes) (limit : Nat) : Desk :=
  setCur d n (some { c with stage := .ended, status := status, result := slice result 0 28, limit := limit })

/-- An open LIMIT among the causes of Table 9.21 (log entry 11). -/
def openLimit (d : Desk) : Nat × Desk := (1 + (takeFree d).1 % 11, (takeFree d).2)

/-- Whether a read of another module is outstanding. -/
def readsOut (c : Cmd) : Bool := c.remote.any fun r => !r.write

/-! ## Transfers -/

/-- A transfer: source, destination, length. A FILL has no source. -/
structure Xfer where
  src : Option Nat
  dst : Nat
  len : Nat
  pattern : Nat
deriving DecidableEq, Repr

/-- The transfer a packet names (Tables 9.9 and 9.15). -/
def xferOf (o : Op) (p : Bytes) : Xfer :=
  match o with
  | .copy => ⟨some (field p 16 8), field p 24 8, field p 32 8, 0⟩
  | .fill => ⟨none, field p 16 8, field p 24 8, field p 32 8⟩
  | _ => ⟨some (field p 24 8), field p 32 8 + field p 40 8, field p 48 8, 0⟩

/-- The path codes of one end of a transfer (R417, Table 9.21), as seen from the die that carries it. -/
def endPath (e : Env) (die addr : Nat) : List Nat :=
  let a := addrDevice addr
  if !addrOwn e addr then [7]
  else if hostBase ≤ a then [8]
  else match unitOf a with
    | some (.hbm _) => if dieOf a = die then [4] else [6]
    | some (.lp _) => [5]
    | none => []

/-- LIMIT of a transfer: the one path it uses, or, of two, a free one of them (R417, log entry 11). -/
def transferLimit (e : Env) (d : Desk) (c : Cmd) (x : Xfer) : Nat × Desk :=
  let die := c.tiles.headD 0 / 64
  let paths := (endPath e die x.dst ++ (match x.src with | some s => endPath e die s | none => [])).eraseDups
  match paths with
  | [k] => (k, d)
  | [k, l] => (if (takeFree d).1 % 2 = 0 then k else l, (takeFree d).2)
  | _ => (0, d)

/-- The next piece of a source, once it is at hand: the desk, the bytes, and the stop a failed read asks for. -/
def pieceRead (e : Env) (d : Desk) (n : Fin 64) (c : Cmd) (x : Xfer) (k : Nat) : Access :=
  match x.src with
  | some s => readRange e d n c.cache (s + c.done) k
  | none => ⟨d, (List.range k).map fun i => BitVec.ofNat 8 (x.pattern / 256 ^ ((c.done + i) % 8)), none⟩

/-- The part of a source on another module that has not been asked for yet (R298). -/
def pieceMissing (e : Env) (c : Cmd) (x : Xfer) : Bool :=
  match x.src with
  | some s => !addrOwn e (s + c.done) && decide (c.asked ≤ c.done)
  | none => false

/-- One piece of at most 1 MiB: read whole, then written. A piece whose read fails writes nothing. -/
def movePiece (e : Env) (d : Desk) (n : Fin 64) (c : Cmd) (x : Xfer) : Desk × Cmd :=
  let k := min 1048576 (x.len - c.done)
  if readsOut c then (d, c)
  else if pieceMissing e c x then
    let ms := readMsgs e 3 d.nextTag (x.src.getD 0 + c.done) k
    ({ d with tx := d.tx ++ ms.map (·.2), nextTag := d.nextTag + ms.length },
     { c with remote := c.remote ++ ms.map (·.1), asked := c.done + k })
  else
    let r := pieceRead e d n c x k
    match r.fail with
    | some f => (r.desk, { c with stop := some f, stopAt := d.now, fault := f == .dataLost })
    | none =>
      let w := cmdPut e r.desk n c 3 (x.dst + c.done) r.bytes
      (w.desk, { w.cmd with
        done := c.done + w.landed.length, progressAt := d.now, cache := []
        digest := if x.src.isSome && pktOp c.pkt != some .copy then c.digest else crc64From c.digest w.landed })

/-- `units` pieces, as far as the transfer goes. -/
def movePieces (e : Env) (x : Xfer) (n : Fin 64) : Nat → Desk × Cmd → Desk × Cmd
  | 0, r => r
  | k + 1, r =>
    if r.2.stop.isSome || decide (x.len ≤ r.2.done) then r else movePieces e x n k (movePiece e r.1 n r.2 x)

/-- A transfer carried on by `units` pieces; `last` is what its end does. -/
def transfer (e : Env) (d : Desk) (n : Fin 64) (o : Op) (units : Nat) (last : Desk → Cmd → Desk) : Desk :=
  match workOf d n o with
  | none => d
  | some c =>
    let x := xferOf o c.pkt
    let r := movePieces e x n units (d, beginWork d c)
    if r.2.stop.isSome || decide (r.2.done < x.len) then setCur r.1 n (some r.2)
    else
      let l := transferLimit e r.1 r.2 x
      last (endWork l.2 n r.2 stOk (leBytes 8 r.2.done) l.1) r.2

end Sys2Proof.Machine
end

