-- ==== Sys2Proof/Machine/Reload.lean ====
section
/-!
DEFINITION. Reads of a slot's home copy after its commit (R61, R313): which blocks of a tile are resident (R112), a block read
soundly, from its twin or not at all (R350), and the reload of the tiles that do not hold the slot at the start of a command.
-/
namespace Sys2Proof.Machine

/-! ## Fetch directories (R115) -/

/-- The extent that a record of the list lies in, from the counts of the extents. -/
def extentOf : List Nat → Nat → Nat
  | [], _ => 0
  | c :: cs, i => if i < c then 0 else 1 + extentOf cs (i - c)

/-- Runs of a tile's fetch directory: consecutive records of one extent (R115). -/
def dirRunsOf (counts : List Nat) (l : List Nat) : Nat :=
  (l.filter fun i => !(decide (0 < i) && l.contains (i - 1) && extentOf counts (i - 1) == extentOf counts i)).length

/-- Runs of the directories of a commit, by compute die. -/
def dirNeed (g : Image) (counts tiles : List Nat) : List Nat :=
  (List.range 4).map fun die => sumNat ((List.range tiles.length).map fun t =>
    if getn tiles t / 64 = die then dirRunsOf counts (streamedBlocks g t) else 0)

/-- Runs that a die has room for beside the other committed slots (R115). -/
def dirRoom (d : Desk) (i : Fin 64) (die : Nat) : Nat :=
  524288 - sumNat ((List.range 64).map fun k =>
    if k != i.val && (d.slots.at (fin 64 k)).state == .committed then getn (d.slots.at (fin 64 k)).dirRuns die else 0)

/-- Runs of a commit's directories that lie on chip, by die. -/
def dirOnChip (d : Desk) (i : Fin 64) (g : Image) (counts tiles : List Nat) : List Nat :=
  (List.range 4).map fun die => min (getn (dirNeed g counts tiles) die) (dirRoom d i die)

/-- Whether the directories of a commit lie on chip whole, so that its work area is not needed (R110). -/
def dirFits (d : Desk) (i : Fin 64) (g : Image) (counts tiles : List Nat) : Bool :=
  dirOnChip d i g counts tiles == dirNeed g counts tiles

/-- A read of a home copy that nothing recovers: the command is told to stop with DATA_LOST (Table 15.2). -/
def lostRead (d : Desk) (c : Cmd) : Cmd := { askStop d.now .dataLost c with fault := true }

/-- `len` bytes of a home-copy record are read (R350): soundly, from its place `off` in the twin, or not at all. -/
def readRecord (d : Desk) (n : Fin 64) (c : Cmd) (g : Image) (addr off len : Nat) : Desk × Cmd :=
  match badSector d.mem addr len with
  | none => (d, c)
  | some x =>
    match g.twin with
    | none => (noteUe d (32 * x) (some n.val) 5, lostRead d c)
    | some a =>
      match badSector d.mem (addrDevice a + off) len with
      | none =>
        let d1 := noteUe d (32 * x) (some n.val) 3
        ({ d1 with errs := { d1.errs with twinReads := satAdd 32 d1.errs.twinReads 1 } }, c)
      | some y => (noteUe { d with mem := countUe d.mem (32 * x) } (32 * y) (some n.val) 5, lostRead d c)

/-- A home-copy block is read (R350). -/
def readBlock (d : Desk) (n : Fin 64) (c : Cmd) (g : Image) (i : Nat) : Desk × Cmd :=
  match g.blocks[i]? with
  | none => (d, c)
  | some b => readRecord d n c g b.addr b.off (recordLen b.fmt)

/-- Blocks read one after the other, up to the first that is lost. -/
def readBlocks (d : Desk) (n : Fin 64) (c : Cmd) (g : Image) (l : List Nat) : Desk × Cmd :=
  l.foldl (fun (x : Desk × Cmd) i => if x.2.stop.isSome then x else readBlock x.1 n x.2 g i) (d, c)

/-- The job tiles of a command whose physical tiles do not hold its slot's present generation. -/
def staleTiles (d : Desk) (c : Cmd) : List Nat :=
  (List.range c.tiles.length).filter fun t => !tileHolds d (some (cmdSlot c)) (c.tiles.getD t 0)

/-- The bias and group bytes that tiles reload: codes and scales of their home windows, and the group table. -/
def sideRanges (g : Image) (s : Slot) (tiles : List Nat) : List (Nat × Nat) :=
  let ws := g.home.filter fun w => tiles.contains (g.tileOf w)
  (match s.biasBase with
    | some a => (ws.map fun w => (addrDevice a + 512 * w, 512)) ++
        (ws.map fun w => (addrDevice a + 512 * windowCount g.n + w % g.tm, 1))
    | none => []) ++
  (match s.groupBase with
    | some a => if s.groupCount = 0 then [] else [(addrDevice a, 40 * s.groupCount)]
    | none => [])

/-- The first uncorrectable sector among ranges. -/
def firstBad (d : Desk) (rs : List (Nat × Nat)) : Option Nat := firstSome (fun r => badSector d.mem r.1 r.2) rs

/-- A block as the home copy now gives it, or its twin where its sectors read uncorrectable (R350). -/
def rereadBlock (d : Desk) (g : Image) (b : Block) : Block :=
  let at_ := match badSector d.mem b.addr (recordLen b.fmt), g.twin with
    | some _, some a => addrDevice a + b.off
    | _, _ => b.addr
  { parseBlock d.mem.cells at_ with row := b.row, col := b.col, addr := b.addr, off := b.off }

/-- Biases as the bytes of the home copy now give them. -/
def rereadBias (d : Desk) (g : Image) (s : Slot) (blocks : List Block) : List Int :=
  let table := s.biasBase.map fun a => cellReads d.mem.cells (addrDevice a) (biasLen g.n g.t g.m)
  let stored := storedBias g.n g.t g.m g.home table
  if g.qubo then (stored.zip (rowSums g.n blocks g.home)).map fun q => -(2 * q.1 + q.2) else stored

/-- Bias codes and scales as the bytes of the home copy now give them. -/
def biasTable (d : Desk) (g : Image) (s : Slot) : Option Bytes :=
  s.biasBase.map fun a => cellReads d.mem.cells (addrDevice a) (biasLen g.n g.t g.m)

/-- Groups as the bytes of the home copy now give them (R48, R313). -/
def rereadGroups (d : Desk) (g : Image) (s : Slot) : List Group :=
  match s.groupBase with
  | some a => if s.groupCount = 0 then [] else resolveGroups g.n s.groupCount (cellReads d.mem.cells (addrDevice a) (40 * s.groupCount))
  | none => g.groups

/-- The copies that tiles of a list have loaded from the home copy: blocks for which `blk` holds and, of each tile for which `side`
holds, biases and groups as they now are, the rest as they were. -/
def mixImage (d : Desk) (g : Image) (s : Slot) (blk side : Nat → Bool) : Image :=
  let now := g.blocks.map (rereadBlock d g)
  let table := biasTable d g s
  let codes := biasCodes g.home table
  let scales := biasScales g.n g.t g.rank table
  let bias := rereadBias d g s now
  let groups := rereadGroups d g s
  let mine (v : Nat) : Bool := s.biasBase.isSome && side (g.tileOf (g.home.getD (v / 256) 0))
  { g with
    blocks := (List.range g.blocks.length).filterMap fun i => if blk i then now[i]? else g.blocks[i]?
    bias := (List.range g.bias.length).map fun v => if mine v then geti bias v else geti g.bias v
    codes := (List.range g.codes.length).map fun v => if mine v then geti codes v else geti g.codes v
    scales := (List.range g.scales.length).map fun t => if s.biasBase.isSome && side t then getn scales t else getn g.scales t
    groups := if groups == g.groups then groups
      else (g.groups.filter fun x => !(g.home.contains x.window && side (g.tileOf x.window))) ++
        (groups.filter fun x => g.home.contains x.window && side (g.tileOf x.window)) }

/-- Whether reloading tiles would change nothing: the home copy gives what they held. -/
def copyKept (d : Desk) (g : Image) (s : Slot) (tiles : List Nat) : Bool :=
  mixImage d g s (fun i => tiles.contains (g.tileOf ((g.blocks[i]?.map (·.row)).getD 0))) (fun t => tiles.contains t) == g

/-- The copies after a reload. Bytes that have changed since the commit may be taken as they were or as they are (R61): each
block and each tile's biases and groups by a free value (log entry 33). -/
def reloadImage (d : Desk) (g : Image) (s : Slot) (tiles : List Nat) : Desk × Image :=
  if copyKept d g s tiles then (d, g)
  else
    let pick (k : Nat) : Bool := (Config.freeValue (d.freeCtr + k)).getLsbD 0
    ({ d with freeCtr := d.freeCtr + g.blocks.length + g.t },
     mixImage d g s (fun i => tiles.contains (g.tileOf ((g.blocks[i]?.map (·.row)).getD 0)) && pick i)
       fun t => tiles.contains t && pick (g.blocks.length + t))

/-- What a reload comes to. -/
structure Reload where
  desk : Desk
  cmd : Cmd
  image : Image
  stale : Bool
deriving DecidableEq, Repr

/-- At the start of a command, the tiles that hold another slot or an older generation reload their copies (R61). -/
def reloadTiles (d : Desk) (n : Fin 64) (c : Cmd) (g : Image) : Reload :=
  let tiles := staleTiles d c
  if tiles.isEmpty then ⟨d, c, g, false⟩
  else
    let s := d.slots.at (cmdSlot c)
    let blocks := tiles.flatMap fun t =>
      let out := streamedBlocks g t
      (residentOrder g t).filter fun i => !out.contains i
    let r := readBlocks d n c g blocks
    if r.2.stop.isSome then ⟨r.1, r.2, g, true⟩
    else match firstBad r.1 (sideRanges g s tiles) with
      | some x => ⟨noteUe r.1 (32 * x) (some n.val) 5, lostRead d r.2, g, true⟩
      | none =>
        let i := reloadImage r.1 g s tiles
        ⟨i.1, r.2, i.2, true⟩

/-- What the tiles hold after a reload: the slot, or nothing when the reload failed. -/
def heldAfter (w : Reload) (i : Fin 64) : Option (Fin 64) := if w.stale && w.cmd.stop == some .dataLost then none else some i

/-- The tiles of a run reload before it goes on (R61, R223, R352): the desk, and the command, told to stop when a copy is
lost. -/
def reloadRun (d : Desk) (n : Fin 64) (c : Cmd) (g : Image) : Desk × Cmd :=
  let w := reloadTiles d n c g
  let i := cmdSlot c
  let d1 := takeTiles (updSlot w.desk i fun s => { s with image := some w.image }) c.tiles (heldAfter w i)
  (openGroup d1 c w.image (d1.slots.at i).ann, w.cmd)

/-- Whether a tile's part of a home copy can be read after NIGHT: every block, from its place or its twin, and the bias and group
bytes (R314, R350). -/
def homeReads (d : Desk) (s : Slot) (g : Image) : Bool :=
  (g.blocks.all fun b => (badSector d.mem b.addr (recordLen b.fmt)).isNone ||
    (match g.twin with
      | some a => (badSector d.mem (addrDevice a + b.off) (recordLen b.fmt)).isNone
      | none => false)) &&
  (firstBad d (sideRanges g s (List.range g.t))).isNone

/-- The first sector of a home copy that a reload finds uncorrectable with no good twin (R314, R350). -/
def lostHome (d : Desk) (s : Slot) (g : Image) : Option Nat :=
  (firstSome (fun b => (badSector d.mem b.addr (recordLen b.fmt)).bind fun x => match g.twin with
    | some a => badSector d.mem (addrDevice a + b.off) (recordLen b.fmt)
    | none => some x) g.blocks).orElse fun _ => firstBad d (sideRanges g s (List.range g.t))

/-- The blocks that the reload after NIGHT reads from a twin, each counted (R350). -/
def nightTwins (d : Desk) (g : Image) : Desk :=
  g.blocks.foldl (fun d b => match badSector d.mem b.addr (recordLen b.fmt) with
    | some x =>
      let d1 := noteUe d (32 * x) none 3
      { d1 with errs := { d1.errs with twinReads := satAdd 32 d1.errs.twinReads 1 } }
    | none => d) d

/-- On the way back from NIGHT the tiles of a committed slot reload blocks, biases and groups from the home copy as its bytes now
are, and rebuild their fields from image and spins (R313, R314). Where a sector cannot be read, the read is logged with ACTION 0, no
command being there to recover, the tiles hold nothing, and the next command on the slot reloads and meets the loss (log entry 33). -/
def afterNight (d : Desk) : Desk :=
  ((List.range 64).map (fin 64)).foldl (fun d i =>
    let s := d.slots.at i
    match s.image with
    | some g =>
      if s.state != .committed || !(d.tiles.holds.toList.any fun h => h.any fun x => x.slot == i && x.gen == s.gen) then d
      else if homeReads d s g then
        let g' := mixImage d g s (fun _ => true) (fun _ => true)
        updSlot (nightTwins d g) i fun s => rebuildFields g' (fillMirror g' { s with image := some g' })
      else
        let d1 := match lostHome d s g with
          | some x => noteUe d (32 * x) none 0
          | none => d
        { d1 with tiles := { d1.tiles with holds := d1.tiles.holds.map fun h => if h.any (fun x => x.slot == i) then none else h } }
    | none => d) d

/-! ## Spin mirrors (R116) -/

/-- Windows that the home blocks of a die's job tiles name as columns, ascending. -/
def dieColumns (g : Image) (tiles : List Nat) (die : Nat) : List Nat :=
  (List.range (windowCount g.n)).filter fun w =>
    g.blocks.any fun b => b.col == w && getn tiles (g.tileOf b.row) / 64 == die

/-- Windows of a slot that a die mirrors at a dispatch: as many as it has room for beside its other jobs, lowest first (R116, log
entry 61). -/
def dieMirror (d : Desk) (i : Fin 64) (g : Image) (tiles : List Nat) (die : Nat) : List Nat :=
  (dieColumns g tiles die).take (mirrorWindows - sumNat ((List.range 64).map fun k =>
    if k != i.val && (d.slots.at (fin 64 k)).user.isSome then getn (d.slots.at (fin 64 k)).mirrored die else 0))

/-- The mirrors of a slot laid out at a dispatch: windows held by each die, the windows of other ranks whose fill records must come,
and those that some die had no room for (R116, R117). -/
def planMirror (d : Desk) (i : Fin 64) (g : Image) (tiles : List Nat) (s : Slot) : Slot :=
  let held := (List.range 4).map (dieMirror d i g tiles)
  let want := (List.range 4).map (dieColumns g tiles)
  let others := (List.range (windowCount g.n)).filter fun w => !g.home.contains w
  { s with
    mirrored := held.map List.length
    due := others.filter fun w => held.any fun l => l.contains w
    overflow := others.filter fun w => (want.zip held).any fun x => x.1.contains w && !x.2.contains w }

end Sys2Proof.Machine
end

