-- ==== Sys2Proof/Machine/SlotCmds.lean ====
section
/-!
DEFINITION. The commands that write and read problem slots: LOAD_COUPLINGS, LOAD_BIASES, LOAD_GROUPS (R55, R107),
SET_SCHEDULE, SET_PHASE_MAP, COMMIT_PROBLEM (R58 to R60, R109), READ_STATE (R213), TILE_LOAD and TILE_STORE (R172 to
R174).
-/
namespace Sys2Proof.Machine

/-! ## Loads -/

/-- The base that a load records in its slot (R55, R107). -/
def recordBase (o : Op) (p : Bytes) (s : Slot) : Slot :=
  match o with
  | .loadCouplings => { s with extents := s.extents.set (field p 17 1) (some (field p 32 8)) }
  | .loadBiases => { s with biasBase := some (field p 32 8) }
  | .loadGroups => { s with groupBase := some (field p 32 8) }
  | _ => s

/-- LOAD_COUPLINGS: a piece of an extent, by pieces of 1 MiB. -/
def execLoadCouplings (sq : Fin 64) (units : Nat) (s : State) : Host.Outcome State Fault Refusal :=
  .next (onDesk s fun e d => transfer e d sq .loadCouplings units fun d c =>
    updSlot d (cmdSlot c) (recordBase .loadCouplings c.pkt))

/-- LOAD_BIASES: a piece of the bias table. -/
def execLoadBiases (sq : Fin 64) (units : Nat) (s : State) : Host.Outcome State Fault Refusal :=
  .next (onDesk s fun e d => transfer e d sq .loadBiases units fun d c =>
    updSlot d (cmdSlot c) (recordBase .loadBiases c.pkt))

/-- LOAD_GROUPS: a piece of the group table. -/
def execLoadGroups (sq : Fin 64) (units : Nat) (s : State) : Host.Outcome State Fault Refusal :=
  .next (onDesk s fun e d => transfer e d sq .loadGroups units fun d c =>
    updSlot d (cmdSlot c) (recordBase .loadGroups c.pkt))

/-- A Front Desk command that ends at once: what it does, and its RESULT. -/
def frontDesk (d : Desk) (n : Fin 64) (o : Op) (f : Desk → Cmd → Desk) (result : Cmd → Bytes) : Desk :=
  match workOf d n o with
  | none => d
  | some c => let w := beginWork d c; endWork (f d w) n w stOk (result w) 0

/-- The address a SET command records: none for 0. -/
def addrOrNone (a : Nat) : Option Nat := if a = 0 then none else some a

/-- SET_SCHEDULE: records the schedule table's address (R55). -/
def execSetSchedule (sq : Fin 64) (s : State) : Host.Outcome State Fault Refusal :=
  .next (onDesk s fun _ d => frontDesk d sq .setSchedule
    (fun d c => updSlot d (cmdSlot c) fun s => { s with schedAddr := addrOrNone (field c.pkt 24 8) }) fun _ => [])

/-- SET_PHASE_MAP: records the phase map's address (R55). -/
def execSetPhaseMap (sq : Fin 64) (s : State) : Host.Outcome State Fault Refusal :=
  .next (onDesk s fun _ d => frontDesk d sq .setPhaseMap
    (fun d c => updSlot d (cmdSlot c) fun s => { s with phaseAddr := addrOrNone (field c.pkt 24 8) }) fun _ => [])

/-! ## Commits -/

/-- The record of an EMPTY slot: no part, no owner (R54). The generation goes on. -/
def emptySlot (s : Slot) : Slot := { ({} : Slot) with gen := s.gen }

/-- The records of the extents, in list order: (address, length) (R43, R107). -/
def listRecords (d : Desk) (s : Slot) (p : Bytes) : List (Nat × Nat) :=
  (List.range 8).flatMap fun k => match s.extents.getD k none with
    | some a => walkRecords d.mem.cells (field p (32 + 4 * k) 4) (addrDevice a)
    | none => []

/-- Step 1 of R58: what the records of the lists, and a twin of their whole length, reach (R28, R60). -/
def walkVerdict (e : Env) (d : Desk) (rs : List (Nat × Nat)) (twin : Option Nat) : Verdict :=
  let len := sumNat (rs.map (·.2))
  worst ((rs.map fun r => memVerdict e.fuses.grade d r.1 r.2) ++
    match twin with
    | some a => if len = 0 then [] else [memVerdict e.fuses.grade d (addrDevice a) len]
    | none => [])

/-- Device bytes at an image address, none for a part that is not recorded. -/
def partBytes (d : Desk) (a : Option Nat) (n : Nat) : Option Bytes :=
  a.map fun x => cellReads d.mem.cells (addrDevice x) n

/-- The ranges of the parts that a commit reads once (R59): bias table, groups, phase map, initial spins, module map. -/
def partRanges (d : Desk) (s : Slot) (c : CommitParams) : List (Nat × Nat) :=
  let opt (a : Option Nat) (n : Nat) : List (Nat × Nat) := (a.map fun x => (addrDevice x, n)).toList
  opt s.biasBase (biasLen c.n c.t c.m) ++ (if c.groups = 0 then [] else opt s.groupBase (40 * c.groups)) ++
  (match s.phaseAddr with
    | some a => [(addrDevice a, 16 + phaseCount (cellReads d.mem.cells (addrDevice a) 16) * phaseEntryLen c.t c.m)]
    | none => []) ++
  opt c.initAddr (512 * windowCount c.n) ++ (if c.m = 1 then [] else opt c.mapAddr 64)

/-- The parts of a commit's image, from the records and the slot's recorded parts. -/
def readParts (d : Desk) (s : Slot) (c : CommitParams) (rs : List (Nat × Nat)) : Parts :=
  { blocks := (List.range rs.length).map fun i =>
      { parseBlock d.mem.cells (rs.getD i (0, 0)).1 with off := sumNat ((rs.take i).map (·.2)) }
    blockBytes := rs.map fun r => cellReads d.mem.cells r.1 r.2
    bias := partBytes d s.biasBase (biasLen c.n c.t c.m)
    groups := if c.groups = 0 then [] else (partBytes d s.groupBase (40 * c.groups)).getD []
    phase := match s.phaseAddr with
      | some a =>
        let hdr := cellReads d.mem.cells (addrDevice a) 16
        some (cellReads d.mem.cells (addrDevice a) (16 + phaseCount hdr * phaseEntryLen c.t c.m))
      | none => none
    init := partBytes d c.initAddr (512 * windowCount c.n)
    modMap := if c.m = 1 then [0]
      else (List.range c.m).map fun r => (((partBytes d c.mapAddr 64).getD []).getD r 0).toNat % 64 }

/-- The slot after a commit that ends OK (R58, Table 2.6). The fields take in the spins of the module's own windows; those of other
ranks' windows follow with their fill records (R117, R118, log entry 60). -/
def committedSlot (s : Slot) (port : Fin 4) (c : CommitParams) (x : Parts) (counts : List Nat) : Slot :=
  let g := buildImage c x
  let all := (List.range 16).map fun k => startSpins g x.init k
  { s with
    state := .committed, gen := s.gen + 1
    owner := if s.state = .empty then some port else s.owner
    n := c.n, t := c.t, m := c.m, rank := c.rank, qubo := c.qubo, jobKey := c.jobKey
    extCounts := counts, groupCount := c.groups, initAddr := c.initAddr, twinAddr := c.twin, workAddr := c.work
    digest := g.digest, image := some g, ann := freshAnn g all
    fields := all.map (g.fieldsOf []), biases := g.bias, mirror := all
    ran := false, visited := [], early := [], spinRecs := [], sweepDue := false, boundaries := [], rankSums := []
    betas := [], betasPrev := [], rxDone := 0, filled := [], known := [], due := [], overflow := [], shares := [], piNext := none, winner := 0, winPhase := 0xFFFF
    entryPoint := none, buffers := [], susp := none, suspLost := false, replayId := 0, replaySteps := [], fetched := [], primed := false, rowsLoaded := false
    point := none, stepStart := 0 }

/-- A commit that meets an uncorrectable read: DATA_LOST, the slot OPEN with its commit void (R349, R152). -/
def commitLost (d : Desk) (n : Fin 64) (c : Cmd) (sector : Nat) : Desk :=
  let d1 := noteUe d (32 * sector) (some n.val) 5
  let d2 := updSlot (leaveSlot d1 (cmdSlot c)) (cmdSlot c) (openSlot (queuePort n))
  let l := openLimit d2
  endWork l.2 n { c with fault := true } stDataLost [] l.1

/-- The bytes of the work area after a commit whose directories do not all fit on chip: software is promised nothing of them, and
every one is open (R110, R115, log entry 7). Without a work area, or with one that is not needed, nothing is written. -/
def spillRuns (d : Desk) (i : Fin 64) (g : Image) (counts tiles : List Nat) (work : Option Nat) : List (Nat × Bytes) :=
  match work with
  | none => []
  | some a =>
    if dirFits d i g counts tiles then []
    else [(addrDevice a, (List.range (8 * g.records.length + 4096)).map fun k => (Config.freeValue (d.freeCtr + k)).setWidth 8)]

/-- What a commit writes: the twin (R109), then the work area. -/
def commitStores (d : Desk) (i : Fin 64) (p : CommitParams) (x : Parts) (counts tiles : List Nat) : List (Nat × Bytes) :=
  (match p.twin with
    | some a => [(addrDevice a, x.blockBytes.flatten)]
    | none => []) ++ spillRuns d i (buildImage p x) counts tiles p.work

/-- Writes to device memory in order, up to a sector that cannot be written in part (R306): the desk, and that sector. -/
def storeAll (d : Desk) (ws : List (Nat × Bytes)) : Desk × Option Nat :=
  ws.foldl (fun (x : Desk × Option Nat) w =>
    if x.2.isSome then x
    else ({ x.1 with mem := memStore x.1.mem w.1 (w.2.take (soundPrefix x.1.mem w.1 w.2.length)) },
      (narrowHits x.1.mem w.1 w.2.length).min?)) (d, none)

/-- Steps 2 to 9 of R58 with the twin of R109 and the fetch directories of R115: the slot committed, and the command's
entry. A sector of the twin or the work area that a narrow write cannot merge is an uncorrectable read of the commit (R306). -/
def commitImage (d : Desk) (n : Fin 64) (c : Cmd) (p : CommitParams) (x : Parts) (counts : List Nat)
    (result : Slot → Bytes) : Desk :=
  let i := cmdSlot c
  let w := storeAll d (commitStores d i p x counts c.tiles)
  match w.2 with
  | some b => commitLost w.1 n c b
  | none =>
    let g := buildImage p x
    let d1 := { w.1 with freeCtr := d.freeCtr + sumNat ((spillRuns d i g counts c.tiles p.work).map fun r => r.2.length) }
    let s := { committedSlot (d1.slots.at i) (queuePort n) p x counts with dirRuns := dirOnChip d i g counts c.tiles }
    let d2 := takeTiles (updSlot (leaveSlot d1 i) i fun _ => s) c.tiles (some i)
    let l := openLimit d2
    endWork l.2 n { c with digest := s.digest } stOk (result s) l.1

/-- The parameters of a COMMIT_PROBLEM (Table 9.10). -/
def commitParams (p : Bytes) : CommitParams :=
  let m := field p 18 1
  { n := field p 24 4, t := field p 20 2, m := m, rank := field p 19 1, qubo := bit (field p 17 1) 0
    jobKey := if m = 1 then 0 else field p 96 4, groups := field p 28 4, initAddr := addrOrNone (field p 64 8)
    twin := if bit (field p 17 1) 1 then some (field p 72 8) else none, work := addrOrNone (field p 80 8)
    mapAddr := if m = 1 then none else some (field p 88 8) }

/-- The commit of a slot by SQ `n`. -/
def deskCommit (e : Env) (d : Desk) (n : Fin 64) : Desk :=
  match workOf d n .commitProblem with
  | none => d
  | some c0 =>
    let c := beginWork d c0
    let i := cmdSlot c
    let s := d.slots.at i
    let p := commitParams c.pkt
    if p.n = 0 then
      let l := openLimit (updSlot (leaveSlot d i) i emptySlot)
      endWork l.2 n c stOk (leBytes 4 s.gen) l.1
    else
      let rs := listRecords d s c.pkt
      match walkVerdict e d rs p.twin with
      | .unmapped => endWork d n c stBad [] 0
      | .absent => endWork d n c stUnsupported [] 0
      | .ok => match firstBad d (rs ++ partRanges d s p) with
        | some b => commitLost d n c b
        | none => commitImage d n c p (readParts d s p rs) ((List.range 8).map fun k => field c.pkt (32 + 4 * k) 4) fun s =>
          leBytes 4 s.gen ++ leBytes 4 ((s.image.map streamCount).getD 0)

/-- COMMIT_PROBLEM. -/
def execCommitProblem (sq : Fin 64) (s : State) : Host.Outcome State Fault Refusal :=
  .next (onDesk s fun e d => deskCommit e d sq)

/-! ## READ_STATE -/

/-- What READ_STATE writes (R213). -/
def readStateBytes (d : Desk) (i : Fin 64) (g : Image) (which k : Nat) : Bytes :=
  let s := d.slots.at i
  if which = 0 then waypointBytes d i g s.gen s.ann 0
  else if which = 1 then replicaBytes (s.ann.spins.getD k [])
  else replicaBytes (s.ann.bestSpins.getD k [])

/-- A command on a slot's tiles goes on once they hold the slot: those that do not reload it, fields and bias rows included
(R61). -/
def withTiles (d : Desk) (n : Fin 64) (c : Cmd) (g : Image) (k : Desk → Cmd → Image → Desk) : Desk :=
  let w := reloadTiles d n c g
  let i := cmdSlot c
  let d1 := if w.stale then
      updSlot w.desk i fun s => rebuildFields w.image (fillMirror w.image { s with image := some w.image })
    else w.desk
  let d2 := updSlot (takeTiles d1 w.cmd.tiles (heldAfter w i)) i fun s => { s with nightSaved := false }
  if w.cmd.stop.isSome then setCur d2 n (some w.cmd) else k d2 w.cmd w.image

/-- READ_STATE: writes the state between commands to DEST. -/
def execReadState (sq : Fin 64) (s : State) : Host.Outcome State Fault Refusal :=
  .next (onDesk s fun e d =>
    match workOf d sq .readState with
    | none => d
    | some c0 =>
      let c := beginWork d c0
      let i := cmdSlot c
      match (d.slots.at i).image with
      | none => endWork d sq c stOk [] 0
      | some g => withTiles d sq c g fun d c g =>
        let bs := readStateBytes d i g (field c.pkt 17 1) (field c.pkt 18 1)
        let w := cmdWrite e d sq c 3 (field c.pkt 24 8) bs
        if w.2.stop.isSome then setCur w.1 sq (some w.2) else endWork w.1 sq w.2 stOk [] 0)

/-! ## TILE_LOAD and TILE_STORE -/

/-- The writes of a TILE_STORE (R172, R173). -/
def tileStores (g : Image) (s : Slot) (p : Bytes) (x : Tensor) : List (Nat × Bytes) :=
  (List.range (field p 22 2)).map fun j =>
    (x.rowAddr j 0 0, (rowLanes s (tileRow g (field p 18 2) (field p 20 2 + j))).flatMap (intBytes 8))

/-- TILE_STORE: rows of a job tile to memory. -/
def execTileStore (sq : Fin 64) (s : State) : Host.Outcome State Fault Refusal :=
  .next (onDesk s fun e d =>
    match workOf d sq .tileStore with
    | none => d
    | some c0 =>
      let c := beginWork d c0
      let i := cmdSlot c
      match (d.slots.at i).image with
      | none => endWork d sq c stOk [] 0
      | some g => withTiles d sq c g fun d c g =>
        let ws := tileStores g (d.slots.at i) c.pkt (tensorOf (c.descs.getD 0 []))
        let w := cmdPuts e d sq c 3 ws
        let c1 := { w.cmd with digest := crc64 w.landed }
        if c1.stop.isSome then setCur w.desk sq (some c1) else endWork w.desk sq c1 stOk [] 0)

/-- Operands on other modules that a command reads at its start: asked for once (R298). -/
def askOperands (e : Env) (d : Desk) (c : Cmd) (cls : Nat) (rs : List (Nat × Nat)) : Desk × Cmd :=
  if c.asked = 0 then
    rs.foldl (fun (x : Desk × Cmd) r =>
      if addrOwn e r.1 then x
      else
        let ms := readMsgs e cls x.1.nextTag r.1 r.2
        ({ x.1 with tx := x.1.tx ++ ms.map (·.2), nextTag := x.1.nextTag + ms.length },
         { x.2 with remote := x.2.remote ++ ms.map (·.1) })) (d, { c with asked := 1 })
  else (d, c)

/-- A list of ranges read in order, up to the first failure. -/
def readRanges (e : Env) (d : Desk) (n : Fin 64) (c : Cmd) (rs : List (Nat × Nat)) : Desk × List Bytes × Option Stop :=
  rs.foldl (fun (x : Desk × List Bytes × Option Stop) r =>
    if x.2.2.isSome then x
    else
      let a := readRange e x.1 n c.cache r.1 r.2
      (a.desk, x.2.1 ++ [a.bytes], a.fail)) (d, [], none)

/-- The ranges a TILE_LOAD reads. -/
def tileLoads (p : Bytes) (x : Tensor) : List (Nat × Nat) :=
  (List.range (field p 22 2)).map fun j => (x.rowAddr j 0 0, 2048)

/-- TILE_LOAD: rows from memory into a job tile. -/
def execTileLoad (sq : Fin 64) (s : State) : Host.Outcome State Fault Refusal :=
  .next (onDesk s fun e d =>
    match workOf d sq .tileLoad with
    | none => d
    | some c0 =>
      let i := cmdSlot c0
      let rs := tileLoads c0.pkt (tensorOf (c0.descs.getD 0 []))
      let a := askOperands e d (beginWork d c0) 3 rs
      let c := a.2
      match (a.1.slots.at i).image with
      | none => endWork a.1 sq c stOk [] 0
      | some g =>
        if readsOut c then setCur a.1 sq (some c)
        else withTiles a.1 sq c g fun d c g =>
          let r := readRanges e d sq c rs
          match r.2.2 with
          | some k => setCur r.1 sq (some { c with stop := some k, stopAt := d.now, fault := k == .dataLost })
          | none =>
            let put (s : Slot) (q : Nat × Bytes) : Slot :=
              setRow s (tileRow g (field c.pkt 18 2) (field c.pkt 20 2 + q.1))
                ((List.range 256).map fun l => signed 64 (field q.2 (8 * l) 8))
            let d1 := updSlot r.1 i fun s =>
              { ((List.range r.2.1.length).zip r.2.1).foldl put s with rowsLoaded := true }
            endWork d1 sq { c with digest := r.2.1.foldl crc64From 0 } stOk [] 0)

end Sys2Proof.Machine
end

