-- ==== Sys2Proof/Machine/Records.lean ====
section
/-!
DEFINITION. Records between the modules of a job (R117, R120 to R122, R354): what each does to its slot, and the early
records that are held for a key.
-/
namespace Sys2Proof.Machine

/-- The committed slot of a job key with M > 1: the lowest-numbered (R120). -/
def jobSlot (d : Desk) (key : Nat) : Option (Fin 64) :=
  ((List.range 64).map (fin 64)).find? fun i =>
    let s := d.slots.at i
    s.state == .committed && decide (1 < s.m) && s.jobKey == key

/-- The run that is dispatched on a slot and has begun. -/
def slotRun (d : Desk) (i : Fin 64) : Option (Fin 64 × Cmd) :=
  (liveCmds d).find? fun x => x.2.began && x.2.stage != .ended && cmdSlot x.2 == i &&
    (match pktOp x.2.pkt with | some o => opRun o | none => false)

/-- The flip notice in a body (Table 3.3), with its phase and sweep. -/
def noticeOf (b : Bytes) : Notice × Nat × Nat :=
  (⟨fieldBits b 0 4 0 20, BitVec.ofNat 16 (fieldBits b 4 4 0 16),
    (List.range 16).map fun k => BitVec.ofNat 256 (field b (16 + 32 * k) 32), 0, 0⟩,
   fieldBits b 4 4 16 10, fieldBits b 8 8 0 48)

/-- A flip notice reaches its slot: held for its barrier (R78), unless the slot's own phase map does not name its window
there (R124). -/
def takeNotice (g : Image) (b : Bytes) (s : Slot) : Slot :=
  let n := noticeOf b
  let at_ := n.2.2 * g.phases.length + n.2.1
  let now := barrierNo g s.ann
  if !(g.phases.getD n.2.1 []).contains (some n.1.window) then s
  else if at_ = now && !s.sweepDue then
    if s.visited.any fun x => x.window == n.1.window then s else { s with visited := s.visited ++ [n.1] }
  else if at_ < now || (s.early.any fun x => x.1 == at_ && x.2.window == n.1.window) then s
  else { s with early := s.early ++ [(at_, n.1)] }

/-- A boundary-spin record reaches its slot (R117): a fill record fills the mirror and gives the fields what they lacked, another
is held until its barrier. -/
def takeSpins (g : Image) (b : Bytes) (s : Slot) : Slot :=
  let w := fieldBits b 0 4 0 20
  let spins := (List.range 16).map fun k => BitVec.ofNat 256 (field b (16 + 32 * k) 32)
  let at_ := fieldBits b 8 8 0 48 * g.phases.length + fieldBits b 4 4 0 10
  if windowCount g.n ≤ w || g.home.contains w then s
  else if fieldBits b 4 4 10 1 = 1 then
    let s1 := fillWindow g w spins s
    { s1 with filled := if s.filled.contains w then s.filled else s.filled ++ [w] }
  else if !s.overflow.contains w || at_ < barrierNo g s.ann || (s.spinRecs.any fun x => x.1 == at_ && x.2.1 == w) then s
  else { s with spinRecs := s.spinRecs ++ [(at_, w, spins)] }

/-- The sums of another rank at a boundary inside a sweep reach rank 0 (R122). -/
def takeShare (b : Bytes) (s : Slot) : Slot :=
  let x : Share := ⟨fieldBits b 0 8 0 48, fieldBits b 0 8 54 10, fieldBits b 0 8 48 6,
    (List.range 16).map fun k => signed 64 (field b (8 + 8 * k) 8)⟩
  if s.shares.any fun y => y.sweep == x.sweep && y.phase == x.phase && y.rank == x.rank then s
  else { s with shares := s.shares ++ [x] }

/-- A sweep-end record reaches its slot (R121). -/
def takeSums (b : Bytes) (s : Slot) : Slot :=
  let r := fieldBits b 0 8 48 6
  let t := fieldBits b 0 8 0 48
  if (s.rankSums.any fun x => x.rank == r && x.sweep == t) || decide (t < s.ann.sweep) then s
  else { s with rankSums := s.rankSums ++ [⟨r, t, (List.range 16).map fun k => signed 64 (field b (8 + 8 * k) 8)⟩] }

/-- An exchange record reaches its slot: its permutation is adopted at the next sweep boundary (R84, R122). -/
def takeExchange (b : Bytes) (s : Slot) : Slot :=
  { s with piNext := some (piOf (field b 8 8)), ann := { s.ann with exch := s.ann.exch + 1 } }

/-- A stop record reaches its slot: the winner's spins at the boundary named become its best state, and the run ends once
its tiles have finished their phase (R105 steps 4 to 6, R122). The record carries no energy: BEST of the winner is open
on this rank (log entry 23). -/
def takeStop (e : Env) (d : Desk) (n : Fin 64) (c : Cmd) (g : Image) (b : Bytes) : Desk :=
  let i := cmdSlot c
  let s := d.slots.at i
  let k := (b.getD 8 0).toNat % 16
  let r := takeFree d
  let at_ := s.boundaries.find? fun x => x.sweep == fieldBits b 0 8 0 48 && x.phase == fieldBits b 0 8 48 10
  let a := { s.ann with
    best := s.ann.best.set k (BitVec.ofNat 64 r.1).toInt, bestSweep := s.ann.bestSweep.set k (fieldBits b 0 8 0 48)
    bestSpins := s.ann.bestSpins.set k (((at_.map (·.spins)).getD s.ann.spins).getD k []) }
  if s.winPhase != 0xFFFF || g.rank = 0 then d
  else finishFirstWin e (updSlot r.2 i fun s => { s with ann := a, winner := k, winPhase := fieldBits b 0 8 48 10 }) n c g

/-- The rank that a window's home tile belongs to (R62). -/
def rankOf (g : Image) (w : Nat) : Nat := w % g.tm / g.t

/-- What a rank sent before its replay record is discarded (R354 step 2). -/
def dropRank (g : Image) (r : Nat) (s : Slot) : Slot :=
  { s with
    visited := s.visited.filter fun x => rankOf g x.window != r
    early := s.early.filter fun x => rankOf g x.2.window != r
    spinRecs := s.spinRecs.filter fun x => rankOf g x.2.1 != r
    filled := s.filled.filter fun w => rankOf g w != r
    rankSums := s.rankSums.filter fun x => x.rank != r
    shares := s.shares.filter fun x => x.rank != r }

/-- A replay record (R354): the rank stops at its next preemption point, the sender's earlier records go, and the record is
held. A rank that answers a record repeats its REPLAY_ID (log entry 30); one of a lower or a finished replay is ignored. -/
def takeReplay (d : Desk) (m : Msg) (n : Fin 64) (c : Cmd) (g : Image) : Desk :=
  let i := cmdSlot c
  let s := d.slots.at i
  let id := field m.body 8 4
  let r := g.modMap.idxOf m.src.toNat
  if id < s.replayId || (id == s.replayId && s.replaySteps.isEmpty) then d
  else
    let steps := if id = s.replayId then s.replaySteps.filter fun x => x.1 != r else []
    let d1 := updSlot d i fun s => { dropRank g r s with replayId := id, replaySteps := steps ++ [(r, field m.body 0 8)] }
    let d2 := { d1 with held := d1.held.filter fun x => !(x.key.toNat == g.jobKey && x.src == m.src) }
    let stop := match c.stop with
      | none => some .replay
      | some .slice => some .replay
      | x => x
    setCur d2 n (some { c with stop := stop, stopAt := if c.stop == stop then c.stopAt else d.now })

/-- One record for a run that has begun. -/
def takeRecord (e : Env) (d : Desk) (m : Msg) (n : Fin 64) (c : Cmd) (g : Image) : Desk :=
  let i := cmdSlot c
  if m.cls = 1 then updSlot d i (takeSpins g m.body)
  else match m.rtype with
    | 0 => updSlot d i (takeNotice g m.body)
    | 1 => updSlot d i (takeSums m.body)
    | 2 => if g.rank = 0 then d else updSlot d i (takeExchange m.body)
    | 3 => takeStop e d n c g m.body
    | 4 => takeReplay d m n c g
    | 5 => if g.rank = 0 then updSlot d i (takeShare m.body) else d
    | _ => d

/-- Bytes of the records held (R120). The spec does not say whether the limit counts the envelope of a record: it counts here
(DESIGN CHOICE, log entry 67). -/
def heldBytes (l : List Msg) : Nat := sumNat (l.map fun m => 16 + m.body.length)

/-- Held records within the limit: while they exceed it, those of the key held longest go (R120). `fuel` bounds the keys. -/
def trimHeld : Nat → List Msg → List Msg
  | 0, _ => []
  | fuel + 1, l => match l with
    | [] => []
    | m :: _ => if heldBytes l ≤ 1048576 then l else trimHeld fuel (l.filter fun x => x.key != m.key)

/-- Records are held up to 1 MiB (R120). -/
def holdRecord (d : Desk) (m : Msg) : Desk :=
  let l := d.held ++ [m]
  { d with held := trimHeld (l.length + 1) l }

/-- A record of class FLIP or BSPIN for this module: to the run of its key's slot, or held (R120). -/
def routeRecord (e : Env) (d : Desk) (m : Msg) : Desk :=
  match jobSlot d m.key.toNat with
  | none => holdRecord d m
  | some i => match slotRun d i, (d.slots.at i).image with
    | some (n, c), some g =>
      -- while a replay is under way, what belongs to it waits for its start
      if c.stop == some .replay && !(m.cls = 0 ∧ m.rtype = 4) then holdRecord d m else takeRecord e d m n c g
    | _, _ => holdRecord d m

/-- The records held for a slot's key are passed to the run that has now begun on it (R120). -/
def releaseHeld (e : Env) (d : Desk) (i : Fin 64) : Desk :=
  let s := d.slots.at i
  if s.m ≤ 1 || jobSlot d s.jobKey != some i then d
  else
    let mine := d.held.filter fun m => m.key.toNat == s.jobKey
    mine.foldl (routeRecord e) { d with held := d.held.filter fun m => m.key.toNat != s.jobKey }

end Sys2Proof.Machine
end

