-- ==== Sys2Proof/Machine/AnnealCmds.lean ====
section
/-!
DEFINITION. ANNEAL, SAMPLE, CORRELATE and RESUME (R81, R93, R154, R158, R196), SUSPEND (R195), and the events of a run:
visits, boundaries, streaming fetches, sweep ends, asynchronous exchange, boundary tests (Chapters 03 to 05).
-/
namespace Sys2Proof.Machine

/-! ## The start of a run -/

/-- INT64 lanes of a row of 2,048 bytes. -/
def lanesOf (b : Bytes) : List Int := (List.range 256).map fun i => signed 64 (field b (8 * i) 8)

/-- The statistics loaded into an annealing state. -/
def loadStats (g : Image) (pairs : List (Nat × Nat)) (got : List Bytes) (a : Ann) : Ann :=
  let mine := (pairs.zip (List.range pairs.length)).filter fun q => g.home.contains q.1.1
  let stats := (List.range pairs.length).map fun p => match mine.findIdx? fun q => q.2 == p with
    | some j => (List.range 256).map fun i => lanesOf ((got.getD j []).drop (2048 * i))
    | none => List.replicate 256 (List.replicate 256 0)
  { a with pairs := stats, moments := (List.range g.home.length).map fun j => lanesOf (got.getD (mine.length + j) []) }

/-- What a RESUME continues: the suspension record, or the waypoint copy it read (R196). -/
def resumeAnn (g : Image) (s : Slot) (c : Cmd) : Ann :=
  if field c.pkt 24 8 = 0 then (s.susp.map (·.ann)).getD s.ann else annOfBytes g (c.descs.getD 1 [])

/-- Whether a run starts from statistics in memory: a CORRELATE with ADD, which has read them at its dispatch, or a RESUME of a
CORRELATE, which reloads them (R158, R196). -/
def loadsStats (g : Image) (s : Slot) (c : Cmd) : Bool :=
  match pktOp c.pkt with
  | some .correlate => pktAdd c.pkt
  | some .resume => (resumeAnn g s c).opcode == 0x18
  | _ => false

/-- The parameters a starting run goes by. -/
def startParams (g : Image) (s : Slot) (c : Cmd) : RunParams :=
  if pktOp c.pkt == some .resume then runParams (resumeAnn g s c).opcode (resumeAnn g s c).params
  else runParams (field c.pkt 0 1) (c.pkt.drop 16)

/-- The slot of a fresh run (R81, R93, R116). Rows that TILE_LOAD replaced last until a tile is reloaded (R61, R174). -/
def freshRun (g : Image) (s : Slot) (c : Cmd) (reload : Bool) : Slot :=
  let s1 := fillMirror g s
  startRun g (if reload then rebuildFields g s1 else s1) (field c.pkt 0 1) (c.pkt.drop 16) c.ckpt c.sched

/-- The slot of a resumed run (R196 step 2). Records of other ranks stay when nothing has run since the suspension, and a
suspension record brings back the state of replica exchange (R195). A copy does not hold an exchange of R84 that was still to be
adopted: it is not made again (log entry 65). -/
def resumedRun (g : Image) (s : Slot) (c : Cmd) : Slot :=
  let a0 := resumeAnn g s c
  let a := repairAnn g a0
  let record := if field c.pkt 24 8 = 0 then s.susp else none
  let same := record.isSome && s.ann == a0
  let r := restoreAnn g c s a
  { r with
    susp := none, ran := true, entryPoint := some a, buffers := [], replayId := 0, replaySteps := []
    stepStart := annStep a, winner := 0
    betasPrev := (record.map (·.betasPrev)).getD [], piNext := record.bind (·.piNext)
    rxDone := (record.map (·.rxDone)).getD (rxDoneOf a)
    visited := if same then s.visited else [], early := if same then s.early else []
    spinRecs := if same then s.spinRecs else [], shares := if same then s.shares else []
    rankSums := if same then s.rankSums else [], filled := if same then s.filled else [] }

/-- The start of work of a run, once the statistics it loads are at hand: its tiles, its slot, the fill records to the
other ranks (R117), and the records held for its key (R120). -/
def beginRun (e : Env) (d : Desk) (n : Fin 64) (c0 : Cmd) (g : Image) : Desk :=
  let i := cmdSlot c0
  let s := d.slots.at i
  let pairs := cmdPairs c0
  let rs := if loadsStats g s c0 && pktOp c0.pkt == some .resume then statRanges g (startParams g s c0) pairs else []
  let a := askOperands e d c0 3 rs
  if readsOut a.2 then setCur a.1 n (some a.2)
  else
    let r := readRanges e a.1 n a.2 rs
    match r.2.2 with
    | some k => setCur r.1 n (some { askStop d.now k a.2 with fault := a.2.fault || k == .dataLost })
    | none =>
      let w := reloadTiles r.1 n a.2 g
      let s0 := { s with image := some w.image }
      let s1 := if pktOp c0.pkt == some .resume then resumedRun w.image s0 c0 else freshRun w.image s0 c0 w.stale
      let got := if rs.isEmpty then c0.stats else r.2.1
      let s2 := if got.isEmpty then s1 else { s1 with ann := loadStats g pairs got s1.ann }
      let s3 := planMirror w.desk i w.image c0.tiles { s2 with
        entryPoint := some s2.ann, point := some s2.ann, user := some n, fetched := [], primed := false, nightSaved := false }
      let c1 := beginWork d { w.cmd with cache := [], ckpt := s3.ann.ckpt }
      let d1 := setCur (openGroup (takeTiles (updSlot w.desk i fun _ => s3) c1.tiles (heldAfter w i)) c1 w.image s3.ann) n (some c1)
      let fills := g.home.flatMap fun w => toRanks e g 1 0 (fillBytes i g s3.ann w)
      releaseHeld e { d1 with tx := d1.tx ++ fills } i

/-! ## Streaming (R111 to R114, R350) -/

/-- Bytes of one fetch buffer (R111): 16 C2, 8 C4 or 4 C8 blocks. -/
def fetchRoom : Nat := 262144

/-- Blocks of a list by ascending COL_WIN, then list position. -/
def byColumn (g : Image) (l : List Nat) : List Nat := sortBy (fun i => (g.blocks[i]?.map (·.col)).getD 0) l

/-- The non-resident diagonal blocks of the window that a tile visits in a phase. -/
def phaseDiagonals (g : Image) (phase tile : Nat) : List Nat :=
  (streamedBlocks g tile).filter fun i => match g.blocks[i]?, phaseEntry g phase tile with
    | some b, some w => b.row == w && b.col == w
    | _, _ => false

/-- The fetches of a streaming tile in the present phase, in their order (R113): the blocks whose column window the phase names,
then the diagonals of the window it visits next. The first phase that a run makes since it was dispatched, resumed or replayed also
fetches, before them, the diagonals of its own visit: no phase before it did. -/
def phaseFetches (g : Image) (s : Slot) (tile : Nat) : List Nat :=
  let ws := phaseWindows g s.ann.phase
  let next := if s.ann.phase + 1 < g.phases.length then s.ann.phase + 1 else 0
  (if s.primed then [] else phaseDiagonals g s.ann.phase tile) ++
  byColumn g ((streamedBlocks g tile).filter fun i => match g.blocks[i]? with
    | some b => ws.contains b.col
    | none => false) ++
  phaseDiagonals g next tile

/-- The fetch buffers of a tile. -/
def tileBufs (s : Slot) (tile : Nat) : FetchBuf := (s.fetched.find? fun x => x.tile == tile).getD ⟨tile, [], [], 0⟩

/-- A block comes into a tile's buffers (R113): into the one being filled, or, when that is full, into the other, whose blocks go. -/
def FetchBuf.take (g : Image) (b : FetchBuf) (i : Nat) : FetchBuf :=
  let len (k : Nat) : Nat := (g.blocks[k]?.map fun b => payloadLen b.fmt).getD 0
  if sumNat ((b.filling ++ [i]).map len) ≤ fetchRoom then { b with filling := b.filling ++ [i], done := b.done + 1 }
  else { b with filling := [i], full := b.filling, done := b.done + 1 }

/-- A block is read by a streaming tile: the value it uses is that of the home copy (R114). -/
def fetchRead (d : Desk) (n : Fin 64) (c : Cmd) (i : Nat) : Desk × Cmd :=
  match (d.slots.at (cmdSlot c)).image with
  | none => (d, c)
  | some g =>
    let r := readBlock d n c g i
    (updSlot r.1 (cmdSlot c) fun s => { s with image := some { g with
      blocks := (List.range g.blocks.length).filterMap fun k => (g.blocks[k]?).map fun b => if k = i then rereadBlock d g b else b } },
     r.2)

/-- Whether a die of the run has directories that neither the chip nor a work area holds (R115). -/
def dirLost (g : Image) (s : Slot) (tiles : List Nat) (die : Nat) : Bool :=
  s.workAddr.isNone && decide (getn s.dirRuns die < getn (dirNeed g s.extCounts tiles) die)

/-- The header reads of a phase (R115): where the directories of a die's tiles do not fit and there is no work area, its tiles read
the header of every record in list order, 16 bytes each, before the phase's first fetch. -/
def phaseHeads (d : Desk) (n : Fin 64) (c : Cmd) (g : Image) (s : Slot) : Desk × Cmd :=
  if s.fetched.isEmpty && (List.range 4).any (dirLost g s c.tiles) then
    g.records.foldl (fun (x : Desk × Cmd) r => if x.2.fault then x else readRecord x.1 n x.2 g r.1 r.2 16) (d, c)
  else (d, c)

/-- STREAM_FETCH: the next fetch of the tile in the present phase completes; a block out of its turn is not fetched (R113). -/
def fetchBlock (d : Desk) (n : Fin 64) (c : Cmd) (g : Image) (tile i : Nat) : Desk :=
  let s := d.slots.at (cmdSlot c)
  let b := tileBufs s tile
  if (phaseFetches g s tile)[b.done]? != some i || s.sweepDue then d
  else
    let h := phaseHeads d n c g s
    let r := fetchRead h.1 n h.2 i
    let d1 := updSlot r.1 (cmdSlot c) fun s =>
      { s with fetched := (s.fetched.filter fun x => x.tile != tile) ++ [b.take g i] }
    setCur d1 n (some { r.2 with progressAt := d.now })

/-- Whether the bytes of a run's blocks may no longer be those of its commit: a sector reads uncorrectable, or a block has changed. -/
def homeMoved (d : Desk) (g : Image) : Bool := !d.mem.ue.isEmpty || g.blocks.any fun b => rereadBlock d g b != b

/-- The header reads and the fetches of the present phase that are still to be made, by all tiles of the run. They change nothing
while the home copy reads as it did (R114, R350). -/
def phaseStream (d : Desk) (n : Fin 64) : Desk :=
  match (d.sqs.at n).cur with
  | some c => match (d.slots.at (cmdSlot c)).image with
    | some g =>
      let s := d.slots.at (cmdSlot c)
      if s.sweepDue || !goesOn g c s || streamCount g = 0 || !homeMoved d g then d
      else
        let h := phaseHeads d n c g s
        let r := ((List.range g.t).flatMap fun t => (phaseFetches g s t).drop (tileBufs s t).done).foldl
          (fun (x : Desk × Cmd) i => if x.2.fault then x else fetchRead x.1 n x.2 i) h
        setCur (updSlot r.1 (cmdSlot c) fun s' => { s' with fetched := (List.range g.t).map fun t =>
          ((phaseFetches g s t).drop (tileBufs s t).done).foldl (FetchBuf.take g) (tileBufs s t) }) n (some r.2)
    | none => d
  | none => d

/-! ## Runs -/

/-- `k` phases of the run of SQ `n`. -/
def runPhases (e : Env) : Nat → Desk → Fin 64 → Desk
  | 0, d, _ => d
  | k + 1, d, n => runPhases e k (runPhase e (phaseStream d n) n) n

/-- A run carried on by `units` phases; its first step begins its work. -/
def runExec (e : Env) (d : Desk) (n : Fin 64) (o : Op) (units : Nat) : Desk :=
  match tileCur d n [o] with
  | none => d
  | some c => match (d.slots.at (cmdSlot c)).image with
    | none => d
    | some g =>
      let d1 := if c.stage == .dispatched && c.stop.isNone then beginRun e d n c g else d
      runPhases e units d1 n

/-- ANNEAL. -/
def execAnneal (sq : Fin 64) (units : Nat) (s : State) : Host.Outcome State Fault Refusal :=
  .next (onDesk s fun e d => runExec e d sq .anneal units)

/-- SAMPLE: an anneal that writes sample records (R214). -/
def execSample (sq : Fin 64) (units : Nat) (s : State) : Host.Outcome State Fault Refusal :=
  .next (onDesk s fun e d => runExec e d sq .sample units)

/-- CORRELATE: an anneal that gathers statistics (R153 to R158). -/
def execCorrelate (sq : Fin 64) (units : Nat) (s : State) : Host.Outcome State Fault Refusal :=
  .next (onDesk s fun e d => runExec e d sq .correlate units)

/-- RESUME: a run continued from its suspension record or a waypoint copy (R196). -/
def execResume (sq : Fin 64) (units : Nat) (s : State) : Host.Outcome State Fault Refusal :=
  .next (onDesk s fun e d => runExec e d sq .resume units)

/-! ## SUSPEND -/

/-- The command that a SUSPEND stops: the run on the slot that has not ended and that nothing else stops (R195, R415). -/
def suspendTarget (d : Desk) (i : Fin 64) : Option (Fin 64 × Cmd) :=
  ((List.range 64).filterMap fun k => (d.sqs.at (fin 64 k)).cur.map fun c => (fin 64 k, c)).find? fun x =>
    (match pktOp x.2.pkt with | some o => opRun o | none => false) && cmdSlot x.2 == i && x.2.stage != .ended &&
    !terminal x.2.stop

/-- SUSPEND: it stops the command that uses the slot, and completes once that command has (R195). -/
def deskSuspend (d : Desk) (n : Fin 64) : Desk :=
  match workOf d n .suspend with
  | none => d
  | some c0 =>
    let c := beginWork d c0
    if c.done = 0 then
      match suspendTarget d (cmdSlot c) with
      | none => endWork d n c stOk [] 0
      | some (m, t) =>
        let d1 := setCur d m (some { t with stop := some (.suspend n), stopAt := d.now })
        setCur d1 n (some { c with
          done := 1
          result := slice (leBytes 1 1 ++ leBytes 1 (field t.pkt 0 1) ++ leBytes 1 m.val ++ leBytes 1 0 ++
            leBytes 4 (pktPseq t.pkt)) 0 28 })
    else if (liveCmds d).any fun x => x.2.stop == some (.suspend n) then d
    else endWork d n c stOk c.result 0

/-- SUSPEND. -/
def execSuspend (sq : Fin 64) (s : State) : Host.Outcome State Fault Refusal :=
  .next (onDesk s fun _ d => deskSuspend d sq)

/-! ## Events of a run -/

/-- The run of SQ `n` that has begun and goes on, with its image. -/
def runningOf (d : Desk) (n : Fin 64) : Option (Cmd × Image) :=
  match tileCur d n [.anneal, .sample, .correlate, .resume] with
  | some c => match (d.slots.at (cmdSlot c)).image with
    | some g => if goesOn g c (d.slots.at (cmdSlot c)) then some (c, g) else none
    | none => none
  | none => none

/-- One visit of a tile: progress is counted when the visit is made, and not while it waits (R119, R230). -/
def tileVisit (e : Env) (d : Desk) (n : Fin 64) (c : Cmd) (g : Image) (tile : Nat) : Desk :=
  let s := d.slots.at (cmdSlot c)
  match if tile < g.t then phaseEntry g s.ann.phase tile else none with
  | some w =>
    let d1 := deskVisit e d c g w
    if (d1.slots.at (cmdSlot c)).visited.length = s.visited.length then d1 else setCur d1 n (some { c with progressAt := d.now })
  | none => d

/-- WINDOW_VISIT: the visit that a tile makes in the present phase (R66, R73). -/
def execWindowVisit (sq : Fin 64) (tile : Nat) (s : State) : Host.Outcome State Fault Refusal :=
  .next (onDesk s fun e d => match runningOf d sq with
    | some (c, g) => tileVisit e d sq c g tile
    | none => d)

/-- The boundary of a phase, its fetches made, and a FIRSTWIN stop that waited for it. -/
def phaseEnd (e : Env) (d : Desk) (n : Fin 64) : Desk :=
  match runningOf (phaseStream d n) n with
  | some (c, g) =>
    let d1 := deskBoundary e (phaseStream d n) n c g
    match (d1.sqs.at n).cur with
    | some c1 => if c1.stage == .working then finishFirstWin e d1 n c1 g else d1
    | none => d1
  | none => phaseStream d n

/-- PHASE_BOUNDARY: the field updates of the phase, once every notice is held (R75, R78, R79). -/
def execPhaseBoundary (sq : Fin 64) (s : State) : Host.Outcome State Fault Refusal :=
  .next (onDesk s fun e d => match runningOf d sq with
    | some _ => phaseEnd e d sq
    | none => d)

/-- STREAM_FETCH. -/
def execStreamFetch (sq : Fin 64) (tile index : Nat) (s : State) : Host.Outcome State Fault Refusal :=
  .next (onDesk s fun _ d => match runningOf d sq with
    | some (c, g) => fetchBlock d sq c g tile index
    | none => d)

/-- SWEEP_END: the steps of R83. -/
def execSweepEnd (sq : Fin 64) (s : State) : Host.Outcome State Fault Refusal :=
  .next (onDesk s fun e d => match runningOf d sq with
    | some (c, g) => deskSweepEnd e d sq c g
    | none => d)

/-- The sweep count at which the next asynchronous exchange is due, after those done (R82, R84). -/
def rxDue (p : RunParams) (done : Nat) : Nat := (max p.base done / p.rxInterval + 1) * p.rxInterval

/-- An exchange of R82 on the latest energies (R84): counted, adopted at the next sweep boundary, sent to the other ranks
by rank 0 (R122). -/
def asyncExchange (e : Env) (d : Desk) (c : Cmd) (g : Image) : Desk :=
  let i := cmdSlot c
  let s := d.slots.at i
  let p := slotParams s
  let due := rxDue p s.rxDone
  if p.rxMode != 2 || c.strict || g.rank != 0 || s.betasPrev.isEmpty || decide (s.ann.sweep < due) then d
  else
    let a := s.ann
    let r := exchange a.seed a.exch (due - 1) (s.piNext.getD a.pi) s.betasPrev a.e
    let counters := { a.counters with
      rxAttempts := addCount a.counters.rxAttempts r.2.1, rxAccepts := addCount a.counters.rxAccepts r.2.2 }
    let a1 := { a with exch := a.exch + 1, counters := counters }
    let d1 := updSlot d i fun s => { s with piNext := some r.1, rxDone := due, ann := a1 }
    { d1 with tx := d1.tx ++ toRanks e g 0 2 (leBytes 8 (due - 1) ++ leBytes 8 (piNat r.1)) }

/-- ASYNC_EXCHANGE. -/
def execAsyncExchange (sq : Fin 64) (s : State) : Host.Outcome State Fault Refusal :=
  .next (onDesk s fun e d => match tileCur d sq [.anneal, .sample, .resume] with
    | some c => match (d.slots.at (cmdSlot c)).image with
      | some g => if c.stage == .working then asyncExchange e d c g else d
      | none => d
    | none => d)

/-- BOUNDARY_TARGET_TEST: replica k's test at the oldest boundary not fully tested (R105). -/
def execBoundaryTargetTest (sq : Fin 64) (k : Fin 16) (s : State) : Host.Outcome State Fault Refusal :=
  .next (onDesk s fun e d => match tileCur d sq [.anneal, .sample, .correlate, .resume] with
    | some c => match (d.slots.at (cmdSlot c)).image with
      | some g => if c.stage == .working then boundaryTest e d sq c g k.val else d
      | none => d
    | none => d)

end Sys2Proof.Machine
end

