-- ==== Sys2Proof/Machine/TensorCmds.lean ====
section
/-!
DEFINITION. The tensor commands by row-blocks (R144 to R147): MATMUL, CONV2D, ATTEND, VECTOR_OP, REDUCE and the event
ROW_BLOCK_DONE. A unit of work is the next row-block of every tile group (log entry 16).
-/
namespace Sys2Proof.Machine

/-! ## Operands -/

/-- The byte ranges of rows of an operand: elements, then scales. -/
def rowRanges (t : Tensor) (rows : List Nat) : List (Nat × Nat) :=
  rows.flatMap fun r =>
    let q := t.coords r
    (t.rowAddr q.1 q.2.1 q.2.2, t.rowLen) ::
      (if fmtMx t.fmt then [(t.scaleRow q.1 q.2.1 q.2.2, t.rowScales)] else [])

/-- The rows of an operand from the bytes of its ranges, in order. -/
def takeRows (t : Tensor) : List Nat → List Bytes → List (Nat × Bytes × Bytes)
  | [], _ => []
  | r :: rs, b :: bs =>
    if fmtMx t.fmt then (r, b, bs.headD []) :: takeRows t rs (bs.drop 1) else (r, b, []) :: takeRows t rs bs
  | _ :: _, [] => []

/-- Operands with their rows: reads in order up to the first failure. -/
def readOperands (e : Env) (d : Desk) (n : Fin 64) (c : Cmd) (need : List (Nat × List Nat)) :
    Desk × List (Nat × Opnd) × Option Stop :=
  need.foldl (fun (x : Desk × List (Nat × Opnd) × Option Stop) q =>
    if x.2.2.isSome then x
    else
      let t := descOf c q.1
      let r := readRanges e x.1 n c (rowRanges t q.2)
      (r.1, x.2.1 ++ [(q.1, ⟨t, takeRows t q.2 r.2.1⟩)], r.2.2)) (d, [], none)

/-- Operand `i` among those read. -/
def opnd (c : Cmd) (l : List (Nat × Opnd)) (i : Nat) : Opnd :=
  ((l.find? fun x => x.1 == i).map (·.2)).getD ⟨descOf c i, []⟩

/-- Operand `i`, if the command names it. -/
def opnd? (c : Cmd) (l : List (Nat × Opnd)) (i : Nat) : Option Opnd :=
  if (optTensor c.descs i).isSome then some (opnd c l i) else none

/-! ## Row-blocks -/

/-- The output values of row `r` in columns [c0, c1), and whether a group set ACC_LONG. -/
def rowVals (o : Op) (c : Cmd) (l : List (Nat × Opnd)) (r c0 c1 : Nat) : List Val × Bool :=
  let cols := (List.range (c1 - c0)).map fun i => c0 + i
  let x := opnd c l
  let list (f : Nat → Val × Bool) : List Val × Bool := let vs := cols.map f; (vs.map (·.1), vs.any (·.2))
  match o with
  | .matmul => list fun n => matmulElem c.pkt (x 0) (x 1) (x 2) (opnd? c l 3) n r
  | .conv2d => list fun n => convElem c.pkt (x 0) (x 1) (x 2) (opnd? c l 3) n r
  | .attend => attendRow c.pkt (x 0) (x 1) (x 2) ⟨descOf c 3, []⟩ r
  | .vectorOp => vectorVals c.pkt (x 0) (opnd? c l 1) (opnd? c l 2) (descOf c 3) r
  | _ => let v := reduceRow (field c.pkt 52 1) (descOf c 1).fmt (x 0) r; ([v.1], v.2.2)

/-- The writes of a row of output in columns from `c0`: elements, scales, and the index of a REDUCE. -/
def rowWrites (o : Op) (c : Cmd) (l : List (Nat × Opnd)) (r c0 : Nat) (vs : List Val) : List (Nat × Bytes) :=
  let z := descOf c (outIndex o)
  let q := z.coords r
  let b := packVals z.fmt vs
  [(z.rowAddr q.1 q.2.1 q.2.2 + c0 * fmtBits z.fmt / 8, b.1)] ++
  (if fmtMx z.fmt then [(z.scaleRow q.1 q.2.1 q.2.2 + c0 / 32, b.2)] else []) ++
  (if o == .reduce && field c.pkt 52 1 != 0 then
    [((descOf c 2).rowAddr q.1 q.2.1 q.2.2, leBytes 4 (reduceRow (field c.pkt 52 1) z.fmt (opnd c l 0) r).2.1)] else [])

/-- Bytes of the output kept for the digest: element rows, scale rows, index rows. -/
def keptLen (o : Op) (c : Cmd) : Nat :=
  let z := descOf c (outIndex o)
  z.rows * (z.rowLen + z.rowScales + (if o == .reduce then 4 else 0))

/-- Where the parts of row `r` from column `c0` stand in the kept output. -/
def keptPlaces (o : Op) (c : Cmd) (r c0 : Nat) : List Nat :=
  let z := descOf c (outIndex o)
  [r * z.rowLen + c0 * fmtBits z.fmt / 8] ++
  (if fmtMx z.fmt then [z.rows * z.rowLen + r * z.rowScales + c0 / 32] else []) ++
  (if o == .reduce && field c.pkt 52 1 != 0 then [z.rows * (z.rowLen + z.rowScales) + 4 * r] else [])

/-- A part of the output at a place has landed, as far as `len`. -/
def noteLanded (c : Cmd) (place : Nat) (bs : Bytes) : Cmd :=
  let old := ((c.landed.find? fun q => q.1 == place).map (·.2)).getD 0
  { c with
    out := spliceBytes c.out place bs
    landed := (c.landed.filter fun q => q.1 != place) ++ [(place, max old bs.length)] }

/-- One row of a row-block: computed, written up to the first write that fails, kept as far as it was written (R190, R275). -/
def doRow (e : Env) (n : Fin 64) (o : Op) (l : List (Nat × Opnd)) (b : RowBlock) (x : Desk × Cmd) (r : Nat) : Desk × Cmd :=
  if x.2.stop.isSome then x
  else
    let v := rowVals o x.2 l r b.c0 b.c1
    let c1 := { x.2 with accLong := x.2.accLong || v.2 }
    let w := ((keptPlaces o c1 r b.c0).zip (rowWrites o c1 l r b.c0 v.1)).foldl (fun (y : Put) q =>
      if !y.ok then y
      else
        let z := cmdPut e y.desk n y.cmd 2 q.2.1 q.2.2
        { z with cmd := noteLanded z.cmd q.1 z.landed }) ⟨x.1, c1, [], true⟩
    (w.desk, w.cmd)

/-- The parts of the output that `k` units have written, as (place, length), in the order of the digest (R190). -/
def digestParts (o : Op) (c : Cmd) (bs : List (List RowBlock)) (k : Nat) : List (Nat × Nat) :=
  let z := descOf c (outIndex o)
  let done := (List.range k).flatMap (unitBlocks bs)
  let parts := done.flatMap fun b => b.rows.flatMap fun r =>
    let cols := b.c1 - b.c0
    (keptPlaces o c r b.c0).zip ([ceilDiv (cols * fmtBits z.fmt) 8] ++
      (if fmtMx z.fmt then [ceilDiv cols 32] else []) ++ [4])
  sortBy (·.1) parts

/-- TIMED_CYCLES of a tensor command (R146, R184): the exact count of a job on one die under fixed timing. Under fixed timing across dies
the excess is a function of the program; otherwise stalls add a free number (log entry 11). -/
def tensorCycles (d : Desk) (o : Op) (c : Cmd) : Nat × Desk :=
  let n := unitCycles o c c.done
  if !c.began || n = 0 then (0, d)
  else if c.fixed then
    (if spansDies c.tiles then satAdd 64 n (Config.waitCycles (c.pkt ++ c.descs.flatten ++ leBytes 4 c.done ++ c.sig)) else n, d)
  else (satAdd 64 n (takeFree d).1, (takeFree d).2)

/-- LIMIT of a tensor command: COMPUTE or one of the causes of R148 that its paths admit, as the stalls fall, which R148 alone does not
settle (log entry 11). -/
def tensorLimit (e : Env) (d : Desk) (o : Op) (c : Cmd) : Nat × Desk :=
  let paths := (tensorOperands o c.descs).flatMap fun x => endPath e 0 x.1.addr
  pickFree d ([1, 4, 5, 6, 9, 10] ++ paths.filter fun k => k == 7 || k == 8)

/-- The end of a tensor command: RESULT (Table 9.18) and the digest of what it wrote (R190). -/
def tensorEnd (e : Env) (d : Desk) (n : Fin 64) (o : Op) (c : Cmd) (status : Nat) : Desk :=
  let bs := groupBlocks o c
  let t := tensorCycles d o c
  let l := tensorLimit e t.2 o c
  let done := digestParts o c bs c.done
  let parts := sortBy (·.1) (done ++ c.landed.filter fun q => !(done.any fun x => x.1 == q.1))
  let bytes := parts.flatMap fun q => slice c.out q.1 q.2
  endWork l.2 n { c with digest := crc64 bytes } status (leBytes 4 (blocksDone bs c.done) ++ leBytes 8 t.1) l.1

/-- The weights that stay in the scratchpads are fetched once, before the first unit (R145). -/
def fetchKept (e : Env) (d : Desk) (n : Fin 64) (o : Op) (c : Cmd) : Desk × Cmd × Option Stop :=
  let gs := groupBlocks o c
  let rows := (((gs.filter (shareFits o c)).flatMap fun g => weightRows o c g)).eraseDups
  if !c.kept.isEmpty || rows.isEmpty then (d, c, none)
  else
    let t := descOf c 1
    let r := readRanges e d n c (rowRanges t rows)
    (r.1, if r.2.2.isSome then c else { c with kept := takeRows t rows r.2.1 }, r.2.2)

/-- A command stops for an operand that could not be read. -/
def operandLost (d : Desk) (c : Cmd) (k : Stop) : Cmd := { askStop d.now k c with fault := c.fault || k == .dataLost }

/-- The groups of a row-block are noted on the tiles of its group. Where its schedule puts them in the ACM is open: the first row is an
opaque function of the packet and the tile, the groups follow each other (log entry 37). -/
def closeBlock (o : Op) (c : Cmd) (u : Nat) (d : Desk) (x : Nat × RowBlock) : Desk :=
  let ts := groupTiles c o x.1
  (List.range ts.length).foldl (fun d j =>
    let t := getn ts j
    noteGroups d (getn c.tiles t) (blockGroups o c u j (Config.groupRow c.pkt t % (1281 - groupRoom o x.2)) x.2)) d

/-- The next row-block of every tile group that has one, each with the number of its group. -/
def nextBlocks (gs : List (List RowBlock)) (i : Nat) : List (Nat × RowBlock) :=
  (List.range gs.length).filterMap fun k => ((gs.getD k [])[i]?).map fun b => (k, b)

/-- Whether operand `i` of an opcode is the weights that R145 speaks of. -/
def isWeights (o : Op) (i : Nat) : Bool := (o == .matmul || o == .conv2d) && i == 1

/-- The operand rows that a unit reads: all that its row-blocks need but weights that stay in the scratchpads (R145). -/
def unitNeeds (o : Op) (c : Cmd) (gs : List (List RowBlock)) (bs : List (Nat × RowBlock)) : List (Nat × List Nat) :=
  let stream := (bs.filter fun b => !shareFits o c (gs.getD b.1 [])).map (·.2)
  ((neededRows o c (bs.map (·.2))).filter fun q => !isWeights o q.1) ++
    (if isWeights o 1 && !stream.isEmpty then [(1, weightRows o c stream)] else [])

/-- The operands of a row-block of group `k`: those read for the unit, with the weights that its tiles keep. -/
def blockOperands (o : Op) (c : Cmd) (gs : List (List RowBlock)) (l : List (Nat × Opnd)) (k : Nat) : List (Nat × Opnd) :=
  if shareFits o c (gs.getD k []) then (1, ⟨descOf c 1, c.kept⟩) :: l else l

/-- One unit of work: the next row-block of every tile group. Weights that fit stay as they were first read, others are read for each
row-block (R145). All operand rows of the unit are read before its first row is written, and its rows are written in order: where an output
overlaps an input or itself in a way that R134 leaves to timing, that is the order taken (DESIGN CHOICE, log entry 72). -/
def doUnit (e : Env) (n : Fin 64) (o : Op) (x : Desk × Cmd) : Desk × Cmd :=
  let gs := groupBlocks o x.2
  let bs := nextBlocks gs x.2.done
  let k := fetchKept e x.1 n o x.2
  match k.2.2 with
  | some s => (k.1, operandLost k.1 k.2.1 s)
  | none =>
    let c := k.2.1
    let r := readOperands e k.1 n c (unitNeeds o c gs bs)
    match r.2.2 with
    | some s => (r.1, operandLost r.1 c s)
    | none =>
      let w := bs.foldl (fun (y : Desk × Cmd) b =>
        b.2.rows.foldl (doRow e n o (blockOperands o c gs r.2.1 b.1) b.2) y) (r.1, c)
      if w.2.stop.isSome then w
      else (bs.foldl (closeBlock o c c.done) w.1, { w.2 with done := w.2.done + 1, landed := [], progressAt := x.1.now })

/-- `k` units, as far as the command goes. -/
def doUnits (e : Env) (n : Fin 64) (o : Op) : Nat → Desk × Cmd → Desk × Cmd
  | 0, x => x
  | k + 1, x =>
    if x.2.stop.isSome || decide (unitCount (groupBlocks o x.2) ≤ x.2.done) then x
    else doUnits e n o k (doUnit e n o x)

/-- Operands on other modules, whole: asked for at the start of work in class HALO (Table 12.5). -/
def remoteOperands (o : Op) (c : Cmd) : List (Nat × Nat) :=
  let use := (tensorOperands o c.descs).filter fun x => !x.2 || pktAdd c.pkt
  use.flatMap fun x => rowRanges x.1 (List.range x.1.rows)

/-- A tensor command carried on by `units` units of work. -/
def tensorExec (e : Env) (d : Desk) (n : Fin 64) (o : Op) (units : Nat) : Desk :=
  match workOf d n o with
  | none => d
  | some c0 =>
    let fresh := c0.stage == .dispatched
    let d0 := if fresh then takeTiles d c0.tiles none else d
    let c1 := beginWork d c0
    let c2 := if fresh then { c1 with out := List.replicate (keptLen o c1) 0 } else c1
    let a := askOperands e d0 c2 2 (remoteOperands o c2)
    if readsOut a.2 then setCur a.1 n (some a.2)
    else
      let r := doUnits e n o units (a.1, a.2)
      if r.2.stop.isSome || decide (r.2.done < unitCount (groupBlocks o r.2)) then setCur r.1 n (some r.2)
      else tensorEnd e r.1 n o r.2 stOk

/-- MATMUL. -/
def execMatmul (sq : Fin 64) (units : Nat) (s : State) : Host.Outcome State Fault Refusal :=
  .next (onDesk s fun e d => tensorExec e d sq .matmul units)

/-- CONV2D. -/
def execConv2d (sq : Fin 64) (units : Nat) (s : State) : Host.Outcome State Fault Refusal :=
  .next (onDesk s fun e d => tensorExec e d sq .conv2d units)

/-- ATTEND. -/
def execAttend (sq : Fin 64) (units : Nat) (s : State) : Host.Outcome State Fault Refusal :=
  .next (onDesk s fun e d => tensorExec e d sq .attend units)

/-- VECTOR_OP. -/
def execVectorOp (sq : Fin 64) (units : Nat) (s : State) : Host.Outcome State Fault Refusal :=
  .next (onDesk s fun e d => tensorExec e d sq .vectorOp units)

/-- REDUCE. -/
def execReduce (sq : Fin 64) (units : Nat) (s : State) : Host.Outcome State Fault Refusal :=
  .next (onDesk s fun e d => tensorExec e d sq .reduce units)

/-- The tensor opcode of the command at work in a queue. -/
def tensorAt (d : Desk) (n : Fin 64) : Option Op :=
  match (d.sqs.at n).cur with
  | some c => match pktOp c.pkt with
    | some o => if opTensor o && !d.tclkOff && c.stage == .working then some o else none
    | none => none
  | none => none

/-- ROW_BLOCK_DONE: the tensor command of a queue finishes its next row-block (R147). -/
def execRowBlockDone (sq : Fin 64) (s : State) : Host.Outcome State Fault Refusal :=
  .next (onDesk s fun e d => match tensorAt d sq with
    | some o => tensorExec e d sq o 1
    | none => d)

end Sys2Proof.Machine
end

