-- ==== Sys2Proof/Machine/Couple.lean ====
section
/-!
DEFINITION. COUPLE_OUT (R149 to R152): a network's output quantised into coupling blocks and a bias table, written, and
committed.
-/
namespace Sys2Proof.Machine

/-- A non-negative exact value as a quotient; infinity is none. -/
def magnitude (x : Num) : Option (Nat × Nat) :=
  match x with
  | .fin _ m e => some (m * (pow2 e).1, (pow2 e).2)
  | _ => none

/-- The scale of a block or tile: min(255, max(1, ceil(max |y| / q))), NaN excluded (R150, R151). -/
def quantScale (q : Nat) (ys : List Num) : Nat :=
  let m := ys.foldl (fun a y => if Num.lt a y.abs then y.abs else a) .zero
  match magnitude m with
  | none => 255
  | some x => min 255 (max 1 (ceilDiv x.1 (x.2 * q)))

/-- round_half_even(y / scale) saturated to [lo, hi]; NaN gives 0 (R150, R151). -/
def quantCode (lo hi : Int) (scale : Nat) (y : Num) : Int :=
  match y with
  | .nan => 0
  | .inf neg => if neg then lo else hi
  | .fin neg m e =>
    let v : Int := (rheNat (m * (pow2 e).1) ((pow2 e).2 * scale) : Int)
    max lo (min hi (if neg then -v else v))

/-- The values y[a][c] of a block, by rows (R150). -/
def coupleY (gain : Word) (src : Opnd) (b : Nat) (mirror : Bool) : List (List Num) :=
  (List.range 256).map fun a => (List.range 256).map fun c =>
    let y (a c : Nat) : Num := Num.of32 (fmul gain (src.f32 c (256 * b + a)))
    if mirror && decide (c < a) then y c a else y a c

/-- A block record: header and payload (R43, R44). -/
def coupleRecord (fmt row col scale : Nat) (codes : List (List Int)) : Bytes :=
  leBytes 4 row ++ leBytes 4 col ++ leBytes 1 fmt ++ leBytes 1 scale ++ List.replicate 6 0 ++
  codes.flatMap fun r => packCodes fmt (r.map fun v => unsigned (fmtBits fmt) v)

/-- The record of a map entry, plain or transposed (R150). -/
def recordOfEntry (fmt : Nat) (gain : Word) (sym : Bool) (src : Opnd) (b : Nat) (win : Nat × Nat) (flip : Bool) : Bytes :=
  let q := if fmt = 0 then 1 else 7
  let lo : Int := if fmt = 0 then -2 else -8
  let ys := coupleY gain src b (sym && win.1 == win.2)
  let s := quantScale q ys.flatten
  let codes := ys.map fun r => r.map (quantCode lo (q : Int) s)
  if flip then
    coupleRecord fmt win.2 win.1 s
      ((List.range 256).map fun a => (List.range 256).map fun c => geti (codes.getD c []) a)
  else coupleRecord fmt win.1 win.2 s codes

/-- The bias table of R151: codes of the variables home to the module, scales of its job tiles. R151 gives no value for
padding positions, for the entries of other modules, or for the bytes after the last scale: each is open (log entry 25). -/
def coupleBias (n t m rank : Nat) (gain : Word) (src : Opnd) : Bytes :=
  let w := windowCount n
  let tm := t * m
  let home := homeWindows n t m rank
  let y (v : Nat) : Num := Num.of32 (fmul gain (src.f32 v 0))
  let vars (k : Nat) : List Nat := (home.filter fun x => x % tm == k).flatMap fun x =>
    ((List.range 256).map fun r => 256 * x + r).filter fun v => decide (v < n)
  let scales := (List.range tm).map fun k => quantScale 32767 ((vars k).map y)
  let codes := (List.range w).flatMap fun x => (List.range 256).flatMap fun r =>
    let v := 256 * x + r
    if home.contains x && decide (v < n) then intBytes 2 (quantCode (-32768) 32767 (getn scales (x % tm)) (y v))
    else [Config.biasFill (2 * v), Config.biasFill (2 * v + 1)]
  codes ++ (List.range (biasLen n t m - 512 * w)).map fun k =>
    if k < tm ∧ k / t = rank then BitVec.ofNat 8 (getn scales k) else Config.biasFill (512 * w + k)

/-- The parameters of a COUPLE_OUT (Table 9.14). -/
def coupleParams (p b : Bytes) : CommitParams :=
  let m := field p 18 1
  { n := field p 24 4, t := field p 20 2, m := m, rank := field p 19 1, qubo := bit (field p 17 1) 4
    jobKey := if m = 1 then 0 else field p 28 4, groups := Config.coupleGroups p b, initAddr := addrOrNone (field b 40 8)
    twin := if bit (field p 17 1) 3 then some (field p 40 8) else none, work := addrOrNone (field p 48 8)
    mapAddr := if m = 1 then none else some (field p 32 8) }

/-- What COUPLE_OUT records in its slot at its start (R152 step 1). -/
def coupleSlot (port : Fin 4) (p : CommitParams) (b : Bytes) (nr : Nat) (s : Slot) : Slot :=
  { openSlot port s with
    extents := some (field b 24 8) :: List.replicate 7 none, extCounts := nr :: List.replicate 7 0
    biasBase := if field b 8 8 = 0 then none else some (field b 32 8)
    groupCount := p.groups, n := p.n, t := p.t, m := p.m, rank := p.rank, qubo := p.qubo, jobKey := p.jobKey
    initAddr := p.initAddr, twinAddr := p.twin, workAddr := p.work }

/-- The SRC rows that a COUPLE_OUT reads: of the map entries with a record, and the bias row. -/
def coupleNeeds (c : Cmd) (recs : List (Nat × Bool)) : List (Nat × List Nat) :=
  [(1, (recs.map (·.1)).eraseDups.flatMap fun b => (List.range 256).map fun a => 256 * b + a)] ++
  (if (optTensor c.descs 2).isSome then [(2, [0])] else [])

/-- The records and the bias table that a COUPLE_OUT writes. -/
def coupleOutput (c : Cmd) (p : CommitParams) (recs : List (Nat × Bool)) (l : List (Nat × Opnd)) : List Bytes × Option Bytes :=
  let b := c.descs.getD 0 []
  let map := pairList (c.descs.getD 3 [])
  let src := opnd c l 1
  (recs.map fun r => recordOfEntry (fieldBits c.pkt 17 1 0 2) (BitVec.ofNat 32 (field b 52 4)) (bit (field c.pkt 17 1) 2)
      src r.1 (map.getD r.1 (0, 0)) r.2,
   (opnd? c l 2).map fun x => coupleBias p.n p.t p.m p.rank (BitVec.ofNat 32 (field b 56 4)) x)

/-- Addresses of consecutive records. -/
def recordPlaces (a len n : Nat) : List (Nat × Nat) := (List.range n).map fun i => (a + len * i, len)

/-- The writes and the commit of a COUPLE_OUT (R152 steps 3 to 5). -/
def coupleCommit (e : Env) (d : Desk) (n : Fin 64) (c : Cmd) (p : CommitParams) (recs : List (Nat × Bool))
    (l : List (Nat × Opnd)) : Desk :=
  let b := c.descs.getD 0 []
  let o := coupleOutput c p recs l
  let w1 := writeRange e d n (field b 24 8) o.1.flatten
  let w2 := match o.2 with
    | some t => writeRange e w1.desk n (field b 32 8) t
    | none => ⟨w1.desk, [], none⟩
  if (w1.fail.orElse fun _ => w2.fail).isSome then
    let k := openLimit w2.desk
    endWork k.2 n { c with fault := true } stDataLost [] k.1
  else
    let d2 := w2.desk
    let s := d2.slots.at (cmdSlot c)
    let places := recordPlaces (addrDevice (field b 24 8)) (recordLen (fieldBits c.pkt 17 1 0 2)) o.1.length
    match firstBad d2 (partRanges d2 s p) with
    | some x => commitLost d2 n c x
    | none =>
      let x := { readParts d2 s p places with blockBytes := o.1, bias := o.2 }
      commitImage d2 n c p x (o.1.length :: List.replicate 7 0) fun s => leBytes 4 s.gen ++ leBytes 4 o.1.length

/-- The COUPLE_OUT of SQ `n`. -/
def deskCouple (e : Env) (d : Desk) (n : Fin 64) : Desk :=
  match workOf d n .coupleOut with
  | none => d
  | some c0 =>
    let b := c0.descs.getD 0 []
    let p := coupleParams c0.pkt b
    if p.n = 0 then
      let k := openLimit (updSlot (leaveSlot d (cmdSlot c0)) (cmdSlot c0) emptySlot)
      endWork k.2 n (beginWork d c0) stOk (leBytes 4 (d.slots.at (cmdSlot c0)).gen) k.1
    else
      let recs := coupleRecords p.n p.t p.m p.rank (bit (field c0.pkt 17 1) 2) (pairList (c0.descs.getD 3 []))
      let need := coupleNeeds c0 recs
      let d0 := if c0.stage == .dispatched then
          takeTiles (updSlot (leaveSlot d (cmdSlot c0)) (cmdSlot c0) (coupleSlot (queuePort n) p b recs.length)) c0.tiles none
        else d
      let a := askOperands e d0 (beginWork d c0) 2 (need.flatMap fun q => rowRanges (descOf c0 q.1) q.2)
      if readsOut a.2 then setCur a.1 n (some a.2)
      else
        let r := readOperands e a.1 n a.2 need
        match r.2.2 with
        | some k => setCur r.1 n (some { a.2 with stop := some k, stopAt := d.now, fault := k == .dataLost })
        | none => coupleCommit e r.1 n a.2 p recs r.2.1

/-- COUPLE_OUT. -/
def execCoupleOut (sq : Fin 64) (s : State) : Host.Outcome State Fault Refusal :=
  .next (onDesk s fun e d => deskCouple e d sq)

end Sys2Proof.Machine
end

