-- ==== Sys2Proof/Machine/Data.lean ====
section
/-!
DEFINITION. COPY and FILL (Table 9.15, R417).
-/
namespace Sys2Proof.Machine

/-- COPY: bytes from SRC to DST, by pieces of 1 MiB. -/
def execCopy (sq : Fin 64) (units : Nat) (s : State) : Host.Outcome State Fault Refusal :=
  .next (onDesk s fun e d => transfer e d sq .copy units fun d _ => d)

/-- FILL: byte i mod 8 of PATTERN to byte i, by pieces of 1 MiB. -/
def execFill (sq : Fin 64) (units : Nat) (s : State) : Host.Outcome State Fault Refusal :=
  .next (onDesk s fun e d => transfer e d sq .fill units fun d _ => d)

end Sys2Proof.Machine
end

