-- ==== Sys2Proof/Machine/FlowCmds.lean ====
section
/-!
DEFINITION. The flow and query commands (Table 9.16): FENCE_SIGNAL and FENCE_WAIT (R215), ITINERARY_STORE (R225),
ITINERARY_LAUNCH (R226), PATCH (R227), QUERY (R235), LEDGER_MARK (R200) and ABORT (R231, R232, R415).
-/
namespace Sys2Proof.Machine

/-! ## Fences -/

/-- What a FENCE_SIGNAL does to its fence (R215). -/
def signalled (clear : Bool) (v : Nat) (f : Fence) : Fence :=
  let g := fenceTo f (if v = 0 then f.value.toNat + 1 else v)
  if clear then { g with err := false } else g

/-- FENCE_SIGNAL. -/
def execFenceSignal (sq : Fin 64) (s : State) : Host.Outcome State Fault Refusal :=
  .next (onDesk s fun _ d => frontDesk d sq .fenceSignal
    (fun d c =>
      let f := signalled (bit (field c.pkt 17 1) 0) (field c.pkt 24 8)
      { d with fences := d.fences.upd (fin 256 (field c.pkt 16 1)) f }) fun _ => [])

/-- FENCE_WAIT: its wait came before its dispatch (R229). -/
def execFenceWait (sq : Fin 64) (s : State) : Host.Outcome State Fault Refusal :=
  .next (onDesk s fun _ d => frontDesk d sq .fenceWait (fun d _ => d) fun c => leBytes 8 c.done)

/-! ## Itineraries -/

/-- Whether a stored packet may stand in an itinerary (R225). -/
def storable (p : Bytes) : Bool :=
  match pktOp p with
  | some o => !(o == .itineraryStore || o == .itineraryLaunch || o == .abort || opMgmt o)
  | none => true

/-- A reference entry (Table 9.23). -/
def refOf (b : Bytes) : Ref := ⟨field b 0 2, field b 2 1, field b 3 1, field b 4 1⟩

/-- Whether a reference is sound (R225). -/
def refOk (packets : List Bytes) (b : Bytes) : Bool :=
  let r := refOf b
  decide (r.pkt < packets.length) && pktPatchRefs (packets.getD r.pkt []) && decide (16 ≤ r.poff) &&
  decide (r.poff + r.len ≤ 128) && decide (r.woff + r.len ≤ 256) && decide (1 ≤ r.len) && decide (r.len ≤ 64)

/-- The ranges that an ITINERARY_STORE reads. -/
def storeReads (p : Bytes) : List (Nat × Nat) :=
  [(field p 24 8, 128 * field p 18 2)] ++ (if field p 20 2 = 0 then [] else [(field p 32 8, 8 * field p 20 2)])

/-- `n` pieces of `k` bytes. -/
def piecesOf (k n : Nat) (b : Bytes) : List Bytes := (List.range n).map fun i => slice (b.drop (k * i)) 0 k

/-- ITINERARY_STORE, once its packets and references are at hand: stored whole or BAD_PACKET (R225). The patch window
stays as it is. -/
def storeItin (d : Desk) (n : Fin 64) (c : Cmd) (packets refs : List Bytes) : Desk :=
  if packets.all storable && refs.all (refOk packets) then
    endWork { d with itins := d.itins.upd (fin 256 (field c.pkt 16 1)) fun i =>
      { i with packets := packets, refs := refs.map refOf, owner := some (queuePort n) } } n c stOk [] 0
  else endWork d n c stBad [] 0

/-- The ITINERARY_STORE of SQ `n`. -/
def deskStore (e : Env) (d : Desk) (n : Fin 64) : Desk :=
  match workOf d n .itineraryStore with
  | none => d
  | some c0 =>
    let rs := storeReads c0.pkt
    let a := askOperands e d (beginWork d c0) 3 rs
    if readsOut a.2 then setCur a.1 n (some a.2)
    else
      let r := readRanges e a.1 n a.2 rs
      match r.2.2 with
      | some k => setCur r.1 n (some { a.2 with stop := some k, stopAt := d.now, fault := k == .dataLost })
      | none =>
        storeItin r.1 n a.2 (piecesOf 128 (field c0.pkt 18 2) (r.2.1.getD 0 []))
          (piecesOf 8 (field c0.pkt 20 2) (r.2.1.getD 1 []))

/-- ITINERARY_STORE. -/
def execItineraryStore (sq : Fin 64) (s : State) : Host.Outcome State Fault Refusal :=
  .next (onDesk s fun e d => deskStore e d sq)

/-- The launch of SQ `n` begins: its stored packets are now the queue's commands (R226 step 2). -/
def deskLaunch (d : Desk) (n : Fin 64) : Desk :=
  match workOf d n .itineraryLaunch with
  | none => d
  | some c0 =>
    let c := beginWork d c0
    -- a list lost after the dispatch (Table 15.2)
    if (c0.itin.map fun i => (d.itins.at i).packets.isEmpty).getD true then endWork d n c stDataLost [] 0
    else { d with sqs := d.sqs.upd n fun q => { q with cur := none, launch := some ⟨c, 0, 0, stOk, c.dispatchedAt⟩ } }

/-- ITINERARY_LAUNCH. -/
def execItineraryLaunch (sq : Fin 64) (s : State) : Host.Outcome State Fault Refusal :=
  .next (onDesk s fun _ d => deskLaunch d sq)

/-- PATCH: DATA into the window at WOFF (R227). -/
def execPatch (sq : Fin 64) (s : State) : Host.Outcome State Fault Refusal :=
  .next (onDesk s fun _ d => frontDesk d sq .patch
    (fun d c => { d with itins := d.itins.upd (fin 256 (field c.pkt 16 1)) fun i =>
      { i with window := spliceBytes i.window (field c.pkt 17 1) (slice c.pkt 24 (field c.pkt 18 1)) } }) fun _ => [])

/-! ## QUERY and LEDGER_MARK -/

/-- Free serviceable logical tiles of a die. -/
def freeOn (g : Grade) (d : Desk) (die : Nat) : Nat :=
  (dieTiles (fun l => tileServed g d l && !(List.range 64).any fun m => (d.sqs.at (fin 64 m)).allot.contains l) die).length

/-- ERRS.SERVICEABLE: serviceable logical tiles. -/
def servedCount (g : Grade) (d : Desk) : Nat := ((List.range 256).filter (tileServed g d)).length

/-- Whether a head waits for tiles (R221 step 3, R220 step 4). -/
def waitsTiles (e : Env) (d : Desk) (n : Fin 64) (c : Cand) : Bool :=
  isReady d n c && match pktOp c.pkt with
    | some o => opTile o && serviceable e.fuses.grade d (cmdGeometry d n o c.pkt) &&
        (tilesBarred d || (tilesNow e d n o c.pkt).isNone)
    | none => false

/-- The flags of a queue's head (Table 9.24, item 3). -/
def headFlags (e : Env) (d : Desk) (n : Fin 64) : Nat :=
  let q := d.sqs.at n
  let sliced := q.cur.any fun c => c.stage == .sliced
  let cand := if q.cur.isSome then none else nextCand d n
  let held_ := cand.any fun c => held d n c.pkt
  let tiles := cand.any (waitsTiles e d n)
  b2n (fenceBlocked d n) + 2 * b2n sliced + 4 * b2n held_ + 8 * b2n tiles

/-- Whether any command holds room in the staging buffer of a die: an allotment with tiles on it, or a committed slot. -/
def stagingUsed (d : Desk) (die : Nat) : Bool :=
  (List.range 64).any fun m => (d.sqs.at (fin 64 m)).allot.any (fun l => l / 64 == die) ||
    (d.slots.at (fin 64 m)).state == .committed

/-- Whether the private area of a die holds anything (Table 13.2). -/
def privateUsed (e : Env) (d : Desk) : Bool :=
  (d.itins.toList.any fun i => !i.packets.isEmpty) || (d.slots.toList.any fun s => s.susp.isSome || s.state == .committed) ||
  (e.sec.staging.toList.any fun b => !b.isEmpty)

/-- The RESULT of a QUERY (Table 9.24), at its commit point. Room in the staging buffers and the private areas is open
once something is placed there (log entry 26). -/
def queryResult (e : Env) (d : Desk) (p : Bytes) : Bytes × Desk :=
  let g := e.fuses.grade
  let i := field p 18 2
  let own (o : Option (Fin 4)) : Nat := match o with | some x => x.val | none => 0xFF
  match field p 16 1 with
  | 0 => (leBytes 4 (gradeUnits g).toNat ++ leBytes 4 (servedCount g d) ++ leBytes 4 d.gctl.epoch.toNat ++
      leBytes 4 d.gctl.fwVersion.toNat ++ leBytes 2 (tclkMhz e.np (fixedLive d)) ++ leBytes 2 (stateCode e.np.state) ++
      leBytes 4 (sumNat ((List.range 4).map (freeOn g d))), d)
  | 1 =>
    let s := d.slots.at (fin 64 i)
    (leBytes 1 (match s.state with | .empty => 0 | .open_ => 1 | .committed => 2) ++ leBytes 1 (own s.owner) ++
      leBytes 1 (b2n s.qubo + 2 * b2n s.susp.isSome + 4 * b2n ((s.image.map fun x => x.twin.isSome).getD false)) ++
      leBytes 1 s.m ++ leBytes 2 s.t ++ leBytes 2 s.rank ++ leBytes 4 s.n ++ leBytes 4 s.gen ++
      leBytes 8 s.digest.toNat ++ leBytes 4 s.jobKey, d)
  | 2 =>
    if !portPresent g (fin 4 (i / 64)) then ([], d)
    else
      let f := d.fences.at (fin 256 i)
      (leBytes 8 f.value.toNat ++ leBytes 1 (b2n f.err) ++ leBytes 1 (i / 64), d)
  | 3 =>
    let n := fin 64 i
    if !portPresent g (queuePort n) then ([], d)
    else
      let q := d.sqs.at n
      (leBytes 2 q.head.toNat ++ leBytes 2 q.tail.toNat ++ leBytes 4 (uncompleted q) ++ leBytes 2 q.allot.length ++
        leBytes 2 (q.allot.min?.getD 0) ++ leBytes 1 (headFlags e d n), d)
  | 4 =>
    let x := d.itins.at (fin 256 i)
    (leBytes 2 x.packets.length ++ leBytes 1 (own x.owner) ++ leBytes 1 0 ++ leBytes 4 (launchesLive d (fin 256 i)), d)
  | 5 =>
    let free (l : Nat) : Bool := tileServed g d l && !(List.range 64).any fun m => (d.sqs.at (fin 64 m)).allot.contains l
    (leBytes 4 (b2n (serviceable g d i) + 2 * b2n (placeTiles free (fun _ => false) i).isSome) ++
      leBytes 4 (maxNat ((List.range 4).map (freeOn g d))), d)
  | _ =>
    if gradeDies g ≤ i then ([], d)
    else
      let r := takeFree d
      let d1 := if stagingUsed d i || privateUsed e d then r.2 else d
      let room := if stagingUsed d i then r.1 % 32769 else 32768
      (leBytes 4 room ++ leBytes 4 (32768 - room) ++
        leBytes 4 (if privateUsed e d then r.1 / 65536 % 2049 else 2048), d1)

/-- QUERY: its values are taken at its commit point (R235). -/
def execQuery (sq : Fin 64) (s : State) : Host.Outcome State Fault Refusal :=
  .next (onDesk s fun _ d => frontDesk d sq .query (fun d _ => d) fun _ => [])

/-- LEDGER_MARK: its MARK record is written at its commit point (R200). -/
def execLedgerMark (sq : Fin 64) (s : State) : Host.Outcome State Fault Refusal :=
  .next (onDesk s fun _ d => frontDesk d sq .ledgerMark (fun d _ => d) fun _ => [])

/-! ## ABORT -/

/-- The packet at a ring index, whether queued, dispatched or launching. -/
def packetAt (d : Desk) (n : Fin 64) (i : BitVec 12) : Bytes :=
  let q := d.sqs.at n
  let known := q.cur.toList ++ q.pre.toList ++ (q.launch.map (·.cmd)).toList
  match known.find? fun c => c.index == i && c.launch.isNone with
  | some c => c.pkt
  | none => ringPacket d q i

/-- The PSEQs at a ring index: of its packet, and of the uncompleted packet that its launch is running. -/
def pseqsAt (d : Desk) (n : Fin 64) (i : BitVec 12) : List Nat :=
  let q := d.sqs.at n
  pktPseq (packetAt d n i) ::
  match q.launch with
  | some l =>
    if l.cmd.index = i then
      match l.cmd.itin with
      | some k => (List.range ((d.itins.at k).packets.length - l.done)).map fun j =>
          pktPseq (launchPacket (d.itins.at k) l.cmd.window (l.done + j))
      | none => []
    else []
  | none => []

/-- Whether a command may be a target: a management command is not abortable (Table 9.16, log entry 17). -/
def abortable (p : Bytes) : Bool :=
  match pktOp p with
  | some o => !opMgmt o
  | none => true

/-- The targets of an ABORT, as ring indices, oldest first (R231). -/
def abortTargets (d : Desk) (p : Bytes) : List (BitVec 12) :=
  let n := pktSlot p
  let all := (openIndices (d.sqs.at n)).filter fun i => abortable (packetAt d n i)
  if bit (field p 17 1) 0 then all
  else (all.find? fun i => (pseqsAt d n i).contains (field p 20 4)).toList

/-- A commit that ended OK and is then stopped leaves its slot OPEN with its commit void (R152, R232). -/
def undoCommit (d : Desk) (n : Fin 64) (c : Cmd) : Desk :=
  let o := pktOp c.pkt
  if (o == some .commitProblem || o == some .coupleOut) && c.stage == .ended && c.status == stOk then
    updSlot (leaveSlot d (cmdSlot c)) (cmdSlot c) fun s =>
      let t := openSlot (queuePort n) s
      if field c.pkt 24 4 = 0 then t else { t with gen := s.gen - 1 }
  else d

/-- A terminal stop reaches the command under way in a queue: one that has not begun completes at once, one whose work
has ended without a terminal stop is committed with the stop's status, as soon as its writes to other modules are acknowledged
(R299), another is told to stop (R232). -/
def stopCur (d : Desk) (n : Fin 64) (k : Stop) : Desk :=
  match (d.sqs.at n).cur with
  | none => d
  | some c =>
    if c.stage == .dispatched || c.stage == .preloaded then
      if terminal c.stop then d else retire d n { c with stage := .ended, status := stopStatus k }
    else if c.stage == .ended then
      if terminal c.stop then d
      else if c.remote.isEmpty then retire (undoCommit d n c) n { c with status := stopStatus k }
      else setCur (undoCommit d n c) n (some { c with status := stopStatus k, stop := some k, stopAt := d.now })
    else setCur d n (some (askStop d.now k c))

/-- A terminal stop reaches a launch: its running packet stops, then the packets that have not started, then itself. -/
def stopLaunch (d : Desk) (n : Fin 64) (k : Stop) : Desk :=
  let d1 := { d with sqs := d.sqs.upd n fun q => { q with launch := q.launch.map fun l => { l with cmd := askStop d.now k l.cmd } } }
  endLaunch (stopCur d1 n k) n

/-- A terminal stop reaches the command at a ring index (R231, R232). An ABORT that waits for its own targets goes on waiting. -/
def stopIndex (d : Desk) (n : Fin 64) (k : Stop) (i : BitVec 12) : Desk :=
  let q := d.sqs.at n
  if d.aborts.any fun w => w.sq == n && w.cmd.index == i then d
  else if q.launch.any fun l => l.cmd.index == i then stopLaunch d n k
  else if q.cur.any fun c => c.index == i then stopCur d n k
  else
    match q.pre with
    | some c =>
      if c.index = i then
        commitUnrun { d with sqs := d.sqs.upd n fun q => { q with pre := none } } n c (stopStatus k)
      else if (openIndices q).contains i then
        commitUnrun d n (freshCmd d q (ringPacket d q i) i none (visibleAt q i d.now)) (stopStatus k)
      else d
    | none =>
      if (openIndices q).contains i then
        let c := freshCmd d q (ringPacket d q i) i none (visibleAt q i d.now)
        commitUnrun { d with sqs := d.sqs.upd n clearFetch } n c (stopStatus k)
      else d

/-- A slot that has no owner and no user returns to EMPTY (R54). -/
def reapSlot (d : Desk) (i : Fin 64) : Desk :=
  let s := d.slots.at i
  if s.state != .empty && s.owner.isNone && !userLive d i && !anyLive d (fun o p => opSlotWriter o && pktSlot p == i)
  then updSlot (leaveSlot d i) i emptySlot else d

/-- Every such slot. -/
def reapSlots (d : Desk) : Desk := ((List.range 64).map (fin 64)).foldl reapSlot d

/-- The RESULT of an ABORT (Table 9.18). -/
def abortResult (target pseq status count : Nat) : Bytes :=
  slice (leBytes 4 target ++ leBytes 4 pseq ++ leBytes 4 status ++ leBytes 4 count) 0 28

/-- An ABORT that has passed its checks: its targets are stopped oldest last, and it completes with the last of them
(R231, R232, R415). -/
def runAbort (d : Desk) (n : Fin 64) (c : Cmd) : Desk :=
  let p := c.pkt
  let m := pktSlot p
  let ts := (abortTargets d p).filter fun i => !(m == n && i == c.index)
  let done := { c with stage := .ended, began := true }
  match ts with
  | [] => commitCmd d n { done with status := stDone, result := abortResult m.val 0 0xFF 0 }
  | t :: _ =>
    let w : AbortWait :=
      ⟨n, { done with status := stOk, result := abortResult m.val (pktPseq (packetAt d m t)) 0 ts.length }, m, t, ts⟩
    let d1 := { d with aborts := d.aborts ++ [w] }
    reapSlots (releaseIdle (ts.foldr (fun i x => stopIndex x m .abort i) d1) m)

/-- The ABORT at a ring index of a queue is decoded: carried out ahead of the commands before it (R231). -/
def deskAbort (e : Env) (d : Desk) (n : Fin 64) (i : BitVec 12) : Desk :=
  let q := d.sqs.at n
  let cand : Cand := ⟨ringPacket d q i, i, none, visibleAt q i d.now⟩
  if q.enable && (freshIndices d n).contains i && pktOp cand.pkt == some .abort && isReady d n cand then
    let c := dispatchedCmd e d n cand .abort []
    match earlyChecks d cand with
    | some st => commitUnrun d n c st
    | none =>
      match lateChecks e d n .abort cand.pkt [] with
      | some st => commitUnrun d n c st
      | none => runAbort d n c
  else d

/-- ABORT. -/
def execAbort (sq : Fin 64) (index : BitVec 12) (s : State) : Host.Outcome State Fault Refusal :=
  .next (if deskAwake s then onDesk s fun e d => deskAbort e d sq index else s)

end Sys2Proof.Machine
end

