-- ==== Sys2Proof/Machine/Mailbox.lean ====
section
/-!
DEFINITION. Mailboxes and doorbells (R237 to R252): the operations that every pair shares, the events of a mailbox, and
the queues of Front Desk and Night Porter (R247).
-/
namespace Sys2Proof.Machine

/-! ## Who reaches what -/

/-- Whether a partner's accesses through the function of UPp reach the module-scope blocks (R278). -/
def modReach (s : State) (p : Fin 4) : Bool :=
  let port := s.desk.ports.at p
  s.elec.life == .running && portPresent s.fuses.grade p && port.guest.state != .empty && !port.d3hot

/-- Whether they reach the port's own blocks: not while the port is ARRIVING or DEPARTING (R278). -/
def ownReach (s : State) (p : Fin 4) : Bool := modReach s p && (s.desk.ports.at p).guest.state == .bound

/-- Whether the peer behind SLp can reach the module. -/
def peerReach (s : State) (p : Fin 16) : Bool := s.elec.life == .running && slPresent (envOf s) s.desk p

/-- Whether the sender of a mailbox can write it now. -/
def senderUp (s : State) (b : BoxId) : Bool :=
  match b with
  | .h2f p => ownReach s p
  | .npToFd => s.elec.life == .running
  | .peerToFd p => peerReach s p
  | .f2h p => deskAwake s && portPresent s.fuses.grade p
  | .fdToNp => deskAwake s
  | .fdToPeer p => deskAwake s && slPresent (envOf s) s.desk p

/-- Whether the receiver of a mailbox can write its acknowledge register now. -/
def receiverUp (s : State) (b : BoxId) : Bool :=
  match b with
  | .h2f p => deskAwake s && portPresent s.fuses.grade p
  | .npToFd => deskAwake s
  | .peerToFd p => deskAwake s && slPresent (envOf s) s.desk p
  | .f2h p => ownReach s p
  | .fdToNp => s.elec.life == .running
  | .fdToPeer p => peerReach s p

/-! ## Access to boxes and bells -/

/-- A mailbox of the module. -/
def boxAt (m : Mailboxes) (b : BoxId) : Box :=
  match b with
  | .h2f p => m.h2f.at p
  | .f2h p => m.f2h.at p
  | .npToFd => m.npToFd
  | .fdToNp => m.fdToNp
  | .peerToFd p => m.peerToFd.at p
  | .fdToPeer p => m.fdToPeer.at p

/-- A mailbox changed. -/
def updBox (m : Mailboxes) (b : BoxId) (f : Box → Box) : Mailboxes :=
  match b with
  | .h2f p => { m with h2f := m.h2f.upd p f }
  | .f2h p => { m with f2h := m.f2h.upd p f }
  | .npToFd => { m with npToFd := f m.npToFd }
  | .fdToNp => { m with fdToNp := f m.fdToNp }
  | .peerToFd p => { m with peerToFd := m.peerToFd.upd p f }
  | .fdToPeer p => { m with fdToPeer := m.fdToPeer.upd p f }

/-- The doorbells of the receiver of a mailbox. -/
def receiverBell (b : BoxId) : BellId :=
  match b with
  | .h2f p => .fdHost p
  | .f2h p => .host p
  | .npToFd => .fdPorter
  | .fdToNp => .porter
  | .peerToFd p => .fdPeer p
  | .fdToPeer p => .peer p

/-- The doorbells of the sender of a mailbox. -/
def senderBell (b : BoxId) : BellId :=
  match b with
  | .h2f p => .host p
  | .f2h p => .fdHost p
  | .npToFd => .porter
  | .fdToNp => .fdPorter
  | .peerToFd p => .peer p
  | .fdToPeer p => .fdPeer p

/-- A receiver's doorbells; those of a peer are in the peer. -/
def bellAt (m : Mailboxes) (b : BellId) : Option Bell :=
  match b with
  | .host p => some (m.host.at p)
  | .fdHost p => some (m.fdHost.at p)
  | .fdPorter => some m.fdPorter
  | .porter => some m.porter
  | .fdPeer p => some (m.fdPeer.at p)
  | .peer _ => none

/-- A receiver's doorbells replaced. -/
def setBell (m : Mailboxes) (b : BellId) (x : Bell) : Mailboxes :=
  match b with
  | .host p => { m with host := m.host.put p x }
  | .fdHost p => { m with fdHost := m.fdHost.put p x }
  | .fdPorter => { m with fdPorter := x }
  | .porter => { m with porter := x }
  | .fdPeer p => { m with fdPeer := m.fdPeer.put p x }
  | .peer _ => m

/-! ## Doorbells (R245, R246) -/

/-- The receiver of a doorbell is notified: a host by its MSI-X message, when it asks for one (R246). -/
def notify (s : State) (id : BellId) (b : Bell) : State :=
  match id with
  | .host p => if b.irq then { s with desk := raiseMsix s.desk p b.vector.toNat } else s
  | _ => { s with desk := { s.desk with out := s.desk.out ++ [.bell id] } }

/-- Bits of a receiver's DB_PEND are set: one notification when some bit becomes pending and unmasked. -/
def ring (s : State) (id : BellId) (v : Word) : State :=
  match bellAt s.mbx id with
  | none => s
  | some b =>
    let b' := { b with pend := b.pend ||| v }
    let s1 := { s with mbx := setBell s.mbx id b' }
    if v &&& ~~~ b.pend &&& ~~~ b.mask = 0 then s1 else notify s1 id b'

/-- Bits of DB_PEND that the mailboxes set (Table 10.5). -/
def mailBit : Word := 0x80000000#32
def ackedBit : Word := 0x40000000#32

/-! ## Fabric pairs (R251, R300) -/

/-- The peer behind SLp: the accepted one, or the peer that Table 12.3 gives for the port while it is only unreached. -/
def peerOn (s : State) (p : Fin 16) : Option Nat :=
  let q := s.fab.ports.at p
  if q.accepted then some q.peerId.toNat
  else ((cabled s.elec.moduleId.toNat p.val).map (·.1)).find? fun i => s.fab.peers.any fun x => x.id.toNat == i

/-- A register write to the peer behind SLp (Table 12.7). -/
def peerWrite (s : State) (p : Fin 16) (off : Nat) (v : Word) : State :=
  match peerOn s p with
  | none => s
  | some id =>
    let m := ownMsg (envOf s) 4 1 id 0 (leBytes 4 off ++ leBytes 4 v.toNat)
    { s with desk := { s.desk with tx := s.desk.tx ++ [m] } }

/-- A write of Front Desk to an outgoing fabric mailbox travels to the peer, which sees it at the H2F registers of its
pair (log entry 28). -/
def carry (s : State) (b : BoxId) (off : Nat) (v : Word) : State :=
  match b with
  | .fdToPeer p => peerWrite s p off v
  | _ => s

/-! ## The mailbox (R240 to R243) -/

/-- MBX_TIMEOUT in force (Table 10.2). -/
def timeoutOf (l : BitVec 20) : Nat := max 1 (min 1000000 l.toNat)

/-- Words of a message (Table 10.2). -/
def lenOf (l : BitVec 5) : Nat := max 8 (min 16 l.toNat)

/-- GO on a mailbox (R240, R242). -/
def goBox (now : Nat) (b : Box) : Box :=
  let c := { b with seq := b.seq + 1, goAt := now, inForce := timeoutOf b.limit }
  if b.full then { c with collSend := true, collRecv := true }
  else { c with full := true, timeout := false, ackValid := false, collSend := false, collRecv := false }

/-- A write of a message word (0 to 15) or of the length (16) (R242). -/
def writeBox (i : Fin 17) (v : Word) (b : Box) : Box :=
  let c := if b.full then { b with collSend := true, collRecv := true } else b
  if i.val < 16 then { c with msg := c.msg.put (fin 16 i.val) v } else { c with len := v.extractLsb' 0 5 }

/-- Whether an acknowledge write takes the message (R241). -/
def takes (v : Word) (b : Box) : Bool := v.getLsbD 31 && b.full && v.extractLsb' 16 8 == b.seq

/-- An acknowledge write (R241). -/
def ackBox (v : Word) (b : Box) : Box :=
  if takes v b then { b with full := false, ackValid := true, ack := v &&& 0x80FFFFFF#32 } else { b with staleAck := true }

/-- Whether the timer of a mailbox has run out (R243). -/
def timeUp (now : Nat) (b : Box) : Bool := b.full && decide (b.goAt + 1000 * b.inForce ≤ now)

/-- The withdrawal of R243. -/
def withdrawBox (b : Box) : Box := { b with full := false, timeout := true }

/-- The code of the wake event that a GO makes, if it makes one (Table 14.3). Night Porter's own DESCEND wakes nothing
(log entry 29). -/
def goWakes (s : State) (b : BoxId) : Bool :=
  match b with
  | .h2f _ | .peerToFd _ => true
  | .npToFd => bits (s.mbx.npToFd.msg.at 0).toNat 0 8 != 2
  | _ => false

/-- GO: the message becomes visible and MAIL is set. -/
def goMail (s : State) (b : BoxId) : State :=
  let m := updBox s.mbx b (goBox s.desk.now)
  let s1 := { s with mbx := m, desk := { s.desk with out := s.desk.out ++ [.mail b] } }
  let s2 := carry (ring s1 (receiverBell b) mailBit) b 0x44 1
  if goWakes s b then wake 3 s2 else s2

/-- A message word or the length is written. -/
def writeMail (s : State) (b : BoxId) (i : Fin 17) (v : Word) : State :=
  carry { s with mbx := updBox s.mbx b (writeBox i v) } b (4 * i.val) v

/-- An acknowledge write. A receiver inside the module clears its MAIL bit with the message; Front Desk's acknowledge of
a peer's message travels to the peer's F2H_ACK (R251). -/
def ackMail (s : State) (b : BoxId) (v : Word) : State :=
  let took := takes v (boxAt s.mbx b)
  let s1 := { s with mbx := updBox s.mbx b (ackBox v) }
  let id := receiverBell b
  let s2 := match id, bellAt s1.mbx id with
    | .host _, _ => s1
    | _, some x => if took then { s1 with mbx := setBell s1.mbx id { x with pend := x.pend &&& ~~~ mailBit } } else s1
    | _, none => s1
  let s3 := if took then ring s2 (senderBell b) ackedBit else s2
  match b with
  | .peerToFd p => peerWrite s3 p 0x14C v
  | _ => s3

/-- The receiver takes the message in a mailbox with a return code. -/
def takeMail (s : State) (b : BoxId) (code : Nat) : State :=
  ackMail s b (BitVec.ofNat 32 (code + (boxAt s.mbx b).seq.toNat * 2 ^ 16 + 2 ^ 31))

/-- A sensor request that is withdrawn on its way to Night Porter, or its value on the way back, gets no answer: Front Desk sends neither
again (R247), and the place of its reply is free. -/
def dropAsk (m : Mailboxes) (b : BoxId) : Mailboxes :=
  let w := (boxAt m b).msg.at 0
  let sensor := match b with
    | .fdToNp => w.extractLsb' 0 8 == 1#8
    | .npToFd => w.extractLsb' 0 8 == 0x81#8
    | _ => false
  if sensor then { m with asks := m.asks.filter fun a => a.1 != bits w.toNat 16 16 } else m

/-- A message left FULL is withdrawn (R243, R247). -/
def withdrawMail (s : State) (b : BoxId) : State :=
  let s1 := { s with mbx := dropAsk (updBox s.mbx b withdrawBox) b }
  let s2 := match b with
    | .f2h p => { s1 with mbx := { s1.mbx with dropped := s1.mbx.dropped.upd p fun n => satAdd 32 n 1 } }
    | _ => s1
  ring s2 (senderBell b) ackedBit

/-! ## Messages -/

/-- TYPE, TAG and MSG1 onward of the message in a mailbox (R249). -/
def mailType (b : Box) : Nat := bits (b.msg.at 0).toNat 0 8
def mailTag (b : Box) : Nat := bits (b.msg.at 0).toNat 16 16
def mailWord (b : Box) (i : Fin 16) : Nat := (b.msg.at i).toNat

/-- A queued message written into a mailbox, 8 words (R249). -/
def loadBox (m : Mail) (b : Box) : Box :=
  { b with
    len := 8
    msg := Tab.gen 16 fun i =>
      if i = 0 then BitVec.ofNat 32 (m.type + m.tag * 65536)
      else if i < 8 then m.words.getD (i - 1) 0 else b.msg.at (fin 16 i) }

/-- The outgoing queue of a mailbox (R247). -/
def queueAt (m : Mailboxes) (b : BoxId) : List Mail :=
  match b with
  | .f2h p => m.f2hQueue.at p
  | .fdToNp => m.fdNpQueue
  | .npToFd => m.npFdQueue
  | .fdToPeer p => m.fdPeerQueue.at p
  | _ => []

/-- The outgoing queue of a mailbox replaced. -/
def setQueue (m : Mailboxes) (b : BoxId) (l : List Mail) : Mailboxes :=
  match b with
  | .f2h p => { m with f2hQueue := m.f2hQueue.put p l }
  | .fdToNp => { m with fdNpQueue := l }
  | .npToFd => { m with npFdQueue := l }
  | .fdToPeer p => { m with fdPeerQueue := m.fdPeerQueue.put p l }
  | _ => m

/-- A message joins the queue of a mailbox. A host's queue takes at most 8 (R247); one more is not sent (log entry 27). -/
def postMail (s : State) (b : BoxId) (m : Mail) : State :=
  let q := queueAt s.mbx b
  match b with
  | .f2h _ => if 8 ≤ q.length then s else { s with mbx := setQueue s.mbx b (q ++ [m]) }
  | _ => { s with mbx := setQueue s.mbx b (q ++ [m]) }

/-- Replies that the queue of a port must still hold: queued messages and sensor requests under way. -/
def repliesDue (m : Mailboxes) (p : Fin 4) : Nat := (m.f2hQueue.at p).length + (m.asks.filter fun a => a.2.1 == p).length

/-- A NOTICE to the partner of a port, if it is BOUND (Table 10.6). It leaves room for the replies of requests that were taken with OK
(R249); for want of room it is not sent (log entry 27). -/
def noticeTo (code arg : Nat) (s : State) (p : Fin 4) : State :=
  if (s.desk.ports.at p).guest.state == .bound && decide (repliesDue s.mbx p < 8) then postMail s (.f2h p) ⟨0x82, 0, [BitVec.ofNat 32 code, BitVec.ofNat 32 arg]⟩
  else s

/-- A NOTICE to every BOUND partner but that of port `but`. -/
def noticeAll (s : State) (code arg : Nat) (but : Option (Fin 4)) : State :=
  (((List.range 4).map (fin 4)).filter fun p => some p != but).foldl (noticeTo code arg) s

/-! ## Events -/

/-- MAILBOX_GO. -/
def execMailboxGo (box : BoxId) (s : State) : Host.Outcome State Fault Refusal :=
  .next (if senderUp s box then settle (goMail s box) else s)

/-- W1C of the sender's copy. -/
def clearSend (v : Word) (b : Box) : Box :=
  { b with collSend := b.collSend && !v.getLsbD 1, timeout := b.timeout && !v.getLsbD 2 }

/-- W1C of the receiver's copy. -/
def clearRecv (v : Word) (b : Box) : Box :=
  { b with collRecv := b.collRecv && !v.getLsbD 1, staleAck := b.staleAck && !v.getLsbD 4 }

/-- Whether the party to whom a register of a mailbox belongs can write it now. -/
def mailRegUp (s : State) (b : BoxId) (r : MailReg) : Bool :=
  match r with
  | .recvStatus => receiverUp s b
  | _ => senderUp s b

/-- A write to a register of a mailbox by the party to whom it belongs (R239, R240, R242, R243, R251). -/
def writeMailReg (s : State) (b : BoxId) (r : MailReg) (v : Word) : State :=
  match r with
  | .word j => writeMail s b j v
  | .timeout => { s with mbx := updBox s.mbx b fun x => { x with limit := v.extractLsb' 0 20 } }
  | .sendStatus => { s with mbx := updBox s.mbx b (clearSend v) }
  | .recvStatus => { s with mbx := updBox s.mbx b (clearRecv v) }

/-- MAILBOX_MSG_WRITE. -/
def execMailboxMsgWrite (box : BoxId) (r : MailReg) (v : Word) (s : State) : Host.Outcome State Fault Refusal :=
  .next (if mailRegUp s box r then settle (writeMailReg s box r v) else s)

/-- MAILBOX_ACK. -/
def execMailboxAck (box : BoxId) (v : Word) (s : State) : Host.Outcome State Fault Refusal :=
  .next (if receiverUp s box then settle (ackMail s box v) else s)

/-- MAILBOX_TIMEOUT: it runs in every module state (R243). -/
def execMailboxTimeout (box : BoxId) (s : State) : Host.Outcome State Fault Refusal :=
  .next (if s.elec.life == .running && timeUp s.desk.now (boxAt s.mbx box) then settle (withdrawMail s box) else s)

/-- Whether a partner or a peer holds LOCK62 or LOCK63, which Front Desk and Night Porter use between them (R256). -/
def lockTakenAway (l : Locks) : Bool :=
  [62, 63].any fun n => match l.owner.at (fin 64 n) with
    | some w => decide (2 ≤ w.val)
    | none => false

/-- Whether a message waits meanwhile: a reply of R249, or a request of Night Porter (R256; DEDUCED, log entry 35). -/
def waitsForLock (l : Locks) (b : BoxId) (m : Mail) : Bool :=
  lockTakenAway l && match b with
    | .f2h _ => m.type == 0x81
    | .npToFd => m.type != 0x81
    | _ => false

/-- The next queued message of a mailbox is sent, once the one before it is taken or withdrawn (R247). -/
def sendNext (s : State) (b : BoxId) : State :=
  match queueAt s.mbx b with
  | [] => s
  | m :: rest =>
    if (boxAt s.mbx b).full || waitsForLock s.locks b m then s
    else
      let s1 := { s with mbx := updBox (setQueue s.mbx b rest) b (loadBox m) }
      let s2 := ((List.range 8).map (fin 17)).foldl (fun x i => carry x b (4 * i.val) ((boxAt s1.mbx b).msg.at (fin 16 i.val))) s1
      goMail (carry s2 b 0x40 8) b

/-- F2H_SEND. -/
def execF2hSend (box : BoxId) (s : State) : Host.Outcome State Fault Refusal :=
  .next (if senderUp s box then settle (sendNext s box) else s)

/-- The bits of a set register that set doorbells (Table 10.2). -/
def bellBits (v : Word) : Word := v &&& 0x3FFFFFFF#32

/-- A write to the set register of a doorbell receiver (R245, R246, R251). Front Desk sets no bit of a host's. -/
def setDoorbell (s : State) (bell : BellId) (v : Word) : State :=
  match bell with
  | .host _ => s
  | .fdHost p => if ownReach s p then (if bellBits v = 0 then s else wake 2 (ring s bell (bellBits v))) else s
  | .fdPeer p => if peerReach s p then (if bellBits v = 0 then s else wake 2 (ring s bell (bellBits v))) else s
  | .fdPorter => if s.elec.life == .running then ring s bell (bellBits v) else s
  | .porter => if deskAwake s then ring s bell (bellBits v) else s
  | .peer p => if deskAwake s && slPresent (envOf s) s.desk p then peerWrite s p 0x200 v else s

/-- DOORBELL_SET. -/
def execDoorbellSet (bell : BellId) (v : Word) (s : State) : Host.Outcome State Fault Refusal :=
  .next (settle (setDoorbell s bell v))

/-- Whether the owner of a doorbell register can write it now. -/
def ownerUp (s : State) (b : BellId) : Bool :=
  match b with
  | .host p => ownReach s p
  | .fdHost p => deskAwake s && portPresent s.fuses.grade p
  | .fdPorter => deskAwake s
  | .porter => s.elec.life == .running
  | .fdPeer p => deskAwake s && slPresent (envOf s) s.desk p
  | .peer _ => false

/-- A write to DB_MASK: a pending bit that it unmasks notifies at once (R245). -/
def maskBell (s : State) (id : BellId) (v : Word) : State :=
  match bellAt s.mbx id with
  | none => s
  | some b =>
    let b' := { b with mask := v }
    let s1 := { s with mbx := setBell s.mbx id b' }
    if b.pend &&& b.mask &&& ~~~ v = 0 then s1 else notify s1 id b'

/-- W1C of DB_PEND (R245). -/
def clearPend (s : State) (id : BellId) (v : Word) : State :=
  match bellAt s.mbx id with
  | none => s
  | some b => { s with mbx := setBell s.mbx id { b with pend := b.pend &&& ~~~ v } }

/-- DB_MASK_WRITE: the receiver's write of DB_MASK; and its W1C of DB_PEND, which has no row of its own (log entry 10). -/
def execDbMaskWrite (bell : BellId) (w : BellWrite) (s : State) : Host.Outcome State Fault Refusal :=
  .next (
    if ownerUp s bell then
      match w.reg with
      | .mask => settle (maskBell s bell w.value)
      | .pend => settle (clearPend s bell w.value)
    else s)

/-! ## Host messages (R249, R250) -/

/-- The host message that waits in H2F of a port, when Front Desk runs, with the type wanted. -/
def hostMail (s : State) (p : Fin 4) (type : Nat) : Option Box :=
  let b := s.mbx.h2f.at p
  if deskAwake s && portPresent s.fuses.grade p && b.full && mailType b == type then some b else none

/-- Whether the length and the reserved bits of MSG0 are as Table 10.6 has them. -/
def mailForm (b : Box) : Bool := lenOf b.len == 8 && bits (b.msg.at 0).toNat 8 8 == 0

/-- PING: taken with OK, or BAD_ARGUMENT when a reserved word is not 0. -/
def execPing (port : Fin 4) (s : State) : Host.Outcome State Fault Refusal :=
  .next (match hostMail s port 1 with
    | none => s
    | some b =>
      let ok := mailForm b && (List.range 7).all fun i => (b.msg.at (fin 16 (i + 1))) == 0
      settle (takeMail s (.h2f port) (if ok then 0 else 2)))

/-- A SENSOR_READ that is taken with OK: Front Desk asks Night Porter (R343). -/
def askPorter (s : State) (p : Fin 4) (tag channel : Nat) : State :=
  let k := s.mbx.nextAsk
  let s1 := { s with mbx := { s.mbx with asks := s.mbx.asks ++ [(k, p, tag)], nextAsk := (k + 1) % 65536 } }
  postMail s1 .fdToNp ⟨1, k, [BitVec.ofNat 32 channel]⟩

/-- SENSOR_READ: taken, then answered by a SENSOR_REPLY; BUSY when the reply queue is full (R249, R250). -/
def execSensorRead (port : Fin 4) (s : State) : Host.Outcome State Fault Refusal :=
  .next (match hostMail s port 2 with
    | none => s
    | some b =>
      let ch := mailWord b 1
      if !mailForm b || decide (128 ≤ ch) then settle (takeMail s (.h2f port) 2)
      else if 8 ≤ repliesDue s.mbx port then settle (takeMail s (.h2f port) 3)
      else settle (askPorter (takeMail s (.h2f port) 0) port (mailTag b) ch))

end Sys2Proof.Machine
end

