-- ==== Sys2Proof/Machine/LockRegs.lean ====
section
/-!
DEFINITION. The 64 lock registers (R253 to R256).
-/
namespace Sys2Proof.Machine

/-- Whether a requester of Table 10.10 can reach the locks now. IDs 6 to 15 are not used. -/
def lockReach (s : State) (who : Requester) : Bool :=
  if who.val = 0 then deskAwake s
  else if who.val = 1 then s.elec.life == .running
  else if who.val < 6 then modReach s (fin 4 (who.val - 2))
  else if who.val < 16 then false
  else peerReach s (fin 16 (who.val - 16))

/-- What a read of a lock returns (R254). -/
def lockValue (l : Locks) (n : Fin 64) : Nat :=
  match l.owner.at n with
  | none => 0
  | some w => w.val + 1

/-- A read of a lock: a free one is taken. -/
def lockTaken (l : Locks) (who : Requester) (n : Fin 64) : Locks :=
  match l.owner.at n with
  | none => { l with owner := l.owner.put n (some who) }
  | some _ => l

/-- A release write (R255). -/
def lockReleased (l : Locks) (who : Requester) (n : Fin 64) (v : Word) : Locks :=
  if l.owner.at n = some who ∧ bits v.toNat 0 5 = who.val then { l with owner := l.owner.put n none }
  else { l with badRelease := satAdd 32 l.badRelease 1 }

/-- Every lock of a requester is released (R256). -/
def freeLocks (l : Locks) (who : Requester) : Locks :=
  { l with owner := l.owner.map fun o => if o = some who then none else o }

/-- Whether Front Desk can reach the locks of a peer: it runs, and the module is a peer. The access waits for a direct link (R300). -/
def lockPeer (s : State) (who : Requester) (id : Fin 64) : Bool :=
  who.val == 0 && deskAwake s && s.fab.peers.any fun x => x.id.toNat == id.val

/-- A message to the lock registers of a peer (Table 12.7): a read, or a release. -/
def lockMsg (s : State) (id : Fin 64) (rtype : Nat) (body : Bytes) : State :=
  { s with desk := { s.desk with tx := s.desk.tx ++ [ownMsg (envOf s) 4 rtype id.val 0 body] } }

/-- LOCK_READ: of a lock of this module by any requester; or of a lock of a peer by Front Desk, whose answer comes as a read completion
(R253, R300). -/
def execLockRead (who : Requester) (l : LockRef) (s : State) : Host.Outcome State Fault Refusal :=
  .next (match l.peer with
    | none =>
      if lockReach s who then
        { s with reply := .reg (BitVec.ofNat 32 (lockValue s.locks l.n)), locks := lockTaken s.locks who l.n }
      else s
    | some id =>
      if lockPeer s who id then
        let s1 := lockMsg s id 2 (leBytes 4 (0x38000 + 8 * l.n.val))
        settle { s1 with locks := { s1.locks with asked := s1.locks.asked ++ [(BitVec.ofNat 6 id.val, l.n)] } }
      else s)

/-- LOCK_RELEASE: of a lock of this module, or by Front Desk of a lock of a peer, which judges the ID it carries (R255, R300). The ID that
a peer knows this module by is 16 and the port on which its traffic arrives there. -/
def execLockRelease (who : Requester) (l : LockRef) (v : Word) (s : State) : Host.Outcome State Fault Refusal :=
  .next (match l.peer with
    | none => if lockReach s who then { s with locks := lockReleased s.locks who l.n v } else s
    | some id =>
      if lockPeer s who id then settle (lockMsg s id 1 (leBytes 4 (0x38004 + 8 * l.n.val) ++ leBytes 4 v.toNat)) else s)

/-- The completion of a read of a peer's lock: it answers the oldest read of that peer that is under way. -/
def lockAnswered (l : Locks) (src : BitVec 6) (v : Word) : Locks :=
  match l.asked.find? fun x => x.1 == src with
  | none => l
  | some x => { l with
      asked := l.asked.erase x
      answers := (l.answers.filter fun y => !(y.1 == x.1 && y.2.1 == x.2)) ++ [(x.1, x.2, v)] }

end Sys2Proof.Machine
end

