-- ==== Sys2Proof/Machine/Ports.lean ====
section
/-!
DEFINITION. The USB4 ports (Chapter 11): arrival and departure of a partner (R276 to R280, R236, R252), changes of link
state (R259), accesses through the aperture (R268, R269, R418) and MSI-X (R265).
-/
namespace Sys2Proof.Machine

/-! ## A port's blocks -/

/-- The queues of a port (R203). -/
def portQueues (p : Fin 4) : List (Fin 64) := (List.range 16).map fun k => fin 64 (4 * k + p.val)

/-- The fences of a port (R228). -/
def portFences (p : Fin 4) : List (Fin 256) := (List.range 64).map fun k => fin 256 (64 * p.val + k)

/-- Queues at their reset values. -/
def resetQueues (d : Desk) (p : Fin 4) : Desk :=
  (portQueues p).foldl (fun d n => { d with
    sqs := d.sqs.put n ⟨false, 0, 0, 0, 0, 0, false, false, 500, [], [], none, none, none, [], [], [], [], false⟩
    marks := d.marks.put n none
    cqs := d.cqs.put n ⟨false, 0, 0, false, false, 0, 0, 0, false, 0, false, false, []⟩ }) d

/-- Fences of a port set alike. -/
def setFences (d : Desk) (p : Fin 4) (v : BitVec 64) (err : Bool) : Desk :=
  { d with fences := (portFences p).foldl (fun f i => f.put i ⟨v, err, (f.at i).hiLatch⟩) d.fences }

/-- The host pair of a port when its partner departs, or before the next is bound (R252), its F2H mailbox apart. -/
def clearPair (m : Mailboxes) (p : Fin 4) : Mailboxes :=
  { m with
    h2f := m.h2f.upd p fun b => { b with full := false, limit := 10000 }
    f2hQueue := m.f2hQueue.put p []
    asks := m.asks.filter fun a => a.2.1 != p
    host := m.host.upd p fun b => { b with pend := 0, mask := 0xFFFFFFFF }
    fdHost := m.fdHost.upd p fun b => { b with pend := b.pend &&& 0x7FFFFFFF#32 } }

/-- The requester ID of a port's partner (Table 10.10). -/
def partnerId (p : Fin 4) : Requester := fin 32 (2 + p.val)

/-! ## Arrival (R278) -/

/-- The port bound to a partner: windows, function and counters fresh, ARRIVE, ARRIVALS and STATE written. -/
def boundPort (now : Nat) (q : Port) : Port :=
  { q with
    guest := { q.guest with
      state := .bound, arrive := now
      arrivals := satAdd 16 q.guest.arrivals 1 }
    dw := Tab.all 64 ⟨0, 0, false, false, false⟩
    apw := Tab.all 64 ⟨false, 0⟩
    fault := ⟨0, false, false, 0, 0, false⟩, faultCount := 0, apwErr := 0, apwUe := 0
    msix := Tab.all 64 ⟨0, 0, true⟩, pba := Tab.all 64 false, msixEnable := false, busMaster := false, d3hot := false
    msixMask := false, payload := 0, readSize := 2, aerAbort := false }

/-- An arrival, step 3: the entry ARRIVING, with what the arrival brings. -/
def arrivingPort (a : Arrival) (q : Port) : Port :=
  { q with
    guest := { q.guest with state := .arriving, linkMode := a.mode, uuid := a.uuid, topo := a.topo }
    events := q.events.drop 1 }

/-- An arrival, steps 4 and 5: the port bound and the other partners told. -/
def bindPort (s : State) (p : Fin 4) : State :=
  let d1 := setFences (resetQueues s.desk p) p 0 false
  let m := clearPair s.mbx p
  let s1 := { s with
    desk := { d1 with ports := d1.ports.upd p (boundPort (rtcOf s.desk)) }
    mbx := { m with dropped := m.dropped.put p 0 } }
  noticeAll s1 4 p.val (some p)

/-! ## Departure (R279, R236) -/

/-- Whether a command under way in a queue keeps the departure of its port open. -/
def queueBusy (d : Desk) (n : Fin 64) : Bool :=
  let q := d.sqs.at n
  q.cur.isSome || q.pre.isSome || q.launch.isSome

/-- A terminal stop reaches every command of a queue, as `stopIndex` treats each (R236 step 2). -/
def stopQueue (k : Stop) (d : Desk) (n : Fin 64) : Desk := (openIndices (d.sqs.at n)).foldl (fun x i => stopIndex x n k i) d

/-- The waiting ABORTs of a port's queues complete PARTNER_GONE. -/
def dropAborts (d : Desk) (p : Fin 4) : Desk :=
  let mine := d.aborts.filter fun w => queuePort w.sq == p
  mine.foldl (fun x w => commitCmd x w.sq { w.cmd with status := stGone })
    { d with aborts := d.aborts.filter fun w => queuePort w.sq != p }

/-- The beginning of a departure, steps 3 and 4: the entry DEPARTING, the EVENT record, the port's commands stopped. -/
def startDeparture (d : Desk) (p : Fin 4) (cause : BitVec 4) : Desk :=
  let d1 := { d with ports := d.ports.upd p fun q =>
    { q with guest := { q.guest with state := .departing, linkMode := if cause = 1 then 0 else q.guest.linkMode } } }
  let d2 := eventRecord d1 0xFF 0xFF 0 0 5 p.val 0 0
  dropAborts ((portQueues p).foldl (stopQueue .departure) d2) p

/-- Slots of a departed owner: EMPTY at once, or without an owner until their users have ended (R54). -/
def orphanSlots (d : Desk) (p : Fin 4) : Desk :=
  { d with slots := d.slots.map fun x => if x.owner = some p then { x with owner := none } else x }

/-- Queues of a departing port disabled, nothing of them waiting (R236 step 5). -/
def disableQueues (d : Desk) (p : Fin 4) : Desk :=
  (portQueues p).foldl (fun d n => { d with
    sqs := d.sqs.upd n fun q => { q with enable := false, allot := [] }
    cqs := d.cqs.upd n fun c => { c with enable := false, waiting := [] } }) d

/-- The port when its departure is complete: windows gone, DEPART, cause and count written, EMPTY. -/
def leftPort (now : Nat) (cause : BitVec 4) (q : Port) : Port :=
  { q with
    guest := { q.guest with state := .empty, depart := now, cause := cause, departs := satAdd 16 q.guest.departs 1 }
    dw := Tab.all 64 ⟨0, 0, false, false, false⟩, apw := Tab.all 64 ⟨false, 0⟩
    fault := ⟨0, false, false, 0, 0, false⟩, events := q.events.drop 1 }

/-- The fences of a departing port are raised with ERR set: every queue's next packet that waits on one of them is released for good,
whatever the port's next partner finds there (R236 steps 4 and 6). -/
def freeWaiters (d : Desk) (p : Fin 4) : Desk :=
  let d1 := setFences d p 0xFFFFFFFFFFFFFFFF true
  let freed (n : Fin 64) (c : Cand) : Bool :=
    let on (f : Nat) : Bool := decide (f / 64 = p.val)
    !waitsMet d c.pkt && waitsMet d1 c.pkt &&
      ((pktWait c.pkt && on (pktWaitFence c.pkt)) || (pktOp c.pkt == some .fenceWait && on (field c.pkt 16 1))) && (d.sqs.at n).enable
  { d1 with marks := Tab.gen 64 fun k =>
      let n := fin 64 k
      match nextCand d n with
      | some c =>
        if freed n c then some ⟨c.index, ((d.sqs.at n).launch.map (·.next)).getD 0, (headMark d n c).any (·.held), true⟩ else d.marks.at n
      | none => d.marks.at n }

/-- A launch whose itinerary has been emptied and that has no packet under way ends with what its packets gave (log
entry 32). -/
def endEmptied (d : Desk) : Desk :=
  { d with sqs := d.sqs.map fun q => match q.cur, q.launch with
    | none, some l =>
      if (l.cmd.itin.map fun i => (d.itins.at i).packets.isEmpty).getD false then
        { q with
          launch := none
          cur := some { l.cmd with stage := .ended, status := l.first, began := true, result := slice (leBytes 4 l.done) 0 28 } }
      else q
    | _, _ => q }

/-- A pending F2H message is withdrawn by R243 and counted, and the port's host pair is emptied (R252). -/
def leavePair (s : State) (p : Fin 4) : State :=
  let s1 := if (s.mbx.f2h.at p).full then withdrawMail s (.f2h p) else s
  { s1 with mbx := clearPair s1.mbx p }

/-- The rest of a departure, once the last of the port's running commands has committed (R236, R279 steps 4 to 7). -/
def endDeparture (s : State) (p : Fin 4) (cause : BitVec 4) : State :=
  let d1 := freeWaiters s.desk p
  let d2 := endEmptied { d1 with itins := d1.itins.map fun i => if i.owner = some p then { i with packets := [], refs := [], owner := none } else i }
  let d3 := reapSlots (orphanSlots (disableQueues d2 p) p)
  let used := d3.ledger.enable && d3.ledger.port == p
  let l := if used then { d3.ledger with enable := false, windowGone := true, lag := false } else d3.ledger
  let d4 := { d3 with ledger := l, ports := d3.ports.upd p (leftPort (rtcOf s.desk) cause) }
  let s1 := leavePair { s with desk := d4, locks := freeLocks s.locks (partnerId p) } p
  noticeAll s1 5 p.val (some p)

/-- A departure that nothing holds open any more is completed. -/
def finishDeparture (s : State) (p : Fin 4) (cause : BitVec 4) : State :=
  if (portQueues p).any (queueBusy s.desk) then s else endDeparture s p cause

/-- Front Desk deals with the oldest event of a port, as far as it can go now: a departure begins and, unless a running command holds
it open, ends; an arrival makes the entry ARRIVING, and the next time BOUND (R278 to R280). -/
def servePort (s : State) (p : Fin 4) : State :=
  let q := s.desk.ports.at p
  match q.guest.state, q.events with
  | .empty, .arrival a :: _ => { s with desk := { s.desk with ports := s.desk.ports.upd p (arrivingPort a) } }
  | .arriving, _ => bindPort s p
  | .bound, .departure c :: _ => finishDeparture { s with desk := startDeparture s.desk p c } p c
  | .departing, .departure c :: _ => finishDeparture s p c
  | _, _ => s

/-- Front Desk deals with the events of every port. -/
def servePorts (s : State) : State := ((List.range 4).map (fin 4)).foldl servePort s

/-- An event of a port reaches Front Desk once it is awake (step 2 of R278 and R279). -/
def portEvent (s : State) (p : Fin 4) (es : List PortEvent) : State :=
  let w := wake 4 { s with desk := { s.desk with ports := s.desk.ports.upd p fun q => { q with events := q.events ++ es } } }
  settle (if deskAwake w then servePort w p else w)

/-- Whether a partner is on the tunnel of a port, the events that Front Desk has not dealt with counted. -/
def tunnelUp (q : Port) : Bool :=
  match q.events.getLast? with
  | some (.arrival _) => true
  | some (.departure _) => false
  | none => q.guest.state != .empty

/-- What the partner on the tunnel of a port brought with it. -/
def tunnelGuest (q : Port) : Arrival :=
  match q.events.getLast? with
  | some (.arrival a) => a
  | _ => ⟨q.guest.uuid, q.guest.topo, q.guest.linkMode⟩

/-- PARTNER_ARRIVAL: the tunnel of a port is activated; on a DEPARTING port the arrival waits for the departure (R280). -/
def execPartnerArrival (port : Fin 4) (uuid : BitVec 128) (topo : BitVec 64) (mode : BitVec 3) (s : State) :
    Host.Outcome State Fault Refusal :=
  .next (
    if s.elec.life == .running && portPresent s.fuses.grade port && !tunnelUp (s.desk.ports.at port) then
      portEvent s port [.arrival ⟨uuid, topo, mode⟩]
    else s)

/-- PARTNER_DEPARTURE: causes 1 to 5 of Table 11.10. From this moment the router issues no request to the partner (R279 step 1). A
Function Level Reset is followed at once by the arrival of the same partner. -/
def execPartnerDeparture (port : Fin 4) (cause : BitVec 4) (s : State) : Host.Outcome State Fault Refusal :=
  .next (
    if s.elec.life == .running && portPresent s.fuses.grade port && decide (1 ≤ cause.toNat) && decide (cause.toNat ≤ 5) &&
        tunnelUp (s.desk.ports.at port) then
      portEvent s port (.departure cause :: if cause = 3 then [.arrival (tunnelGuest (s.desk.ports.at port))] else [])
    else s)

/-- LINK_STATE_CHANGE: LINK_MODE follows the link; a bound partner's link is not lost by it (R259, R277). -/
def execLinkStateChange (port : Fin 4) (mode : BitVec 3) (s : State) : Host.Outcome State Fault Refusal :=
  .next (
    if s.elec.life == .running && portPresent s.fuses.grade port && decide (mode.toNat ≤ 4) &&
        (mode != 0 || (s.desk.ports.at port).guest.state == .empty) then
      { s with desk := { s.desk with ports := s.desk.ports.upd port fun q => { q with guest := { q.guest with linkMode := mode } } } }
    else s)

/-- USB2_CONFIGURED. -/
def execUsb2Configured (port : Fin 4) (s : State) : Host.Outcome State Fault Refusal :=
  .next (
    if s.elec.life != .off && s.elec.life != .held && portPresent s.fuses.grade port then
      { s with desk := { s.desk with ports := s.desk.ports.upd port fun q => { q with guest := { q.guest with usb2 := true } } } }
    else s)

/-! ## The aperture -/

/-- The stacks and packages that serve a range of device memory. -/
def unitsOf (a n : Nat) : List DramUnit := ((List.range n).filterMap fun i => unitOf (a + i)).eraseDups

/-- A code 8 access to a range of device memory wakes the memory paths it needs in DOZE and NIGHT, and starts their 1 ms again; no
other path wakes (R330). -/
def wakeMemory (a n : Nat) (s : State) : State :=
  if s.np.state == .doze || s.np.state == .night then
    let us := unitsOf a n
    { s with np := { s.np with
      memPaths := (s.np.memPaths.filter fun x => !us.contains x.1) ++ us.map fun u => (u, s.desk.now) } }
  else s

/-- The device address that an offset of BAR2 reaches, if its window maps memory (R268, R269, R311, R361). -/
def apertureTarget (g : Grade) (d : Desk) (p : Fin 4) (off : Nat) : Option Nat :=
  let w := (d.ports.at p).apw.at (fin 64 (off / 2 ^ 30))
  let base := w.base.toNat * 2 ^ 30
  if w.en && memVerdict g d base (2 ^ 30) == .ok then some (base + off % 2 ^ 30) else none

/-- A port changed. -/
def updPort (d : Desk) (p : Fin 4) (f : Port → Port) : Desk := { d with ports := d.ports.upd p f }

/-- A read through the aperture (R269, R418). -/
def apertureRead (g : Grade) (d : Desk) (p : Fin 4) (off len : Nat) : Desk × Reply :=
  match apertureTarget g d p off with
  | none => (updPort d p fun q => { q with apwErr := satAdd 32 q.apwErr 1 }, .bytes (List.replicate len 0xFF))
  | some a => match badSector d.mem a len with
    | some x =>
      (noteUe (updPort d p fun q => { q with apwUe := satAdd 32 q.apwUe 1, aerAbort := true }) (32 * x) none 0,
       .completerAbort)
    | none => (d, .bytes (cellReads d.mem.cells a len))

/-- A write through the aperture (R269, R418). -/
def apertureWrite (g : Grade) (d : Desk) (p : Fin 4) (off : Nat) (bs : Bytes) : Desk :=
  match apertureTarget g d p off with
  | none => updPort d p fun q => { q with apwErr := satAdd 32 q.apwErr 1 }
  | some a =>
    let d1 := { d with mem := memStore d.mem a bs }
    match narrowHits d.mem a bs.length with
    | [] => d1
    | x :: _ => noteUe (updPort d1 p fun q => { q with apwUe := satAdd 32 q.apwUe 1 }) (32 * x) none 0

/-- The wake of an aperture access: only one whose window maps memory needs a path (R269, R330). -/
def wakeAperture (p : Fin 4) (off n : Nat) (s : State) : State :=
  match apertureTarget s.fuses.grade s.desk p off with
  | some a => wakeMemory a n s
  | none => s

/-- Whether an access is one PCIe request: at least a byte, and within 4 KiB. -/
def oneRequest (off len : Nat) : Bool := decide (1 ≤ len) && decide (off % 4096 + len ≤ 4096)

/-- APERTURE_ACCESS. -/
def execApertureAccess (port : Fin 4) (off : BitVec 36) (acc : BarAccess) (s : State) :
    Host.Outcome State Fault Refusal :=
  .next (
    if !modReach s port then s
    else match acc with
    | .read len =>
      if oneRequest off.toNat len then
        let r := apertureRead s.fuses.grade s.desk port off.toNat len
        { wakeAperture port off.toNat len { s with desk := r.1 } with reply := r.2 }
      else s
    | .write data =>
      if oneRequest off.toNat data.length then
        wakeAperture port off.toNat data.length { s with desk := apertureWrite s.fuses.grade s.desk port off.toNat data }
      else s)

/-! ## MSI-X -/

/-- A pending vector that may now be sent is sent (R265). -/
def sendPending (p : Fin 4) (d : Desk) (v : Fin 64) : Desk :=
  let q := d.ports.at p
  if msixGoes q v && q.pba.at v then
    { updPort d p (fun x => { x with pba := x.pba.put v false }) with out := d.out ++ [.msix p v.val] }
  else d

/-- Every pending vector of a port that may now be sent is sent. -/
def sendAllPending (d : Desk) (p : Fin 4) : Desk := ((List.range 64).map (fin 64)).foldl (sendPending p) d

/-- A vector unmasked, MSI-X enabled, or another write to the function's configuration space (R262, R265, R266; log entry 10). -/
def unmaskMsix (d : Desk) (p : Fin 4) (c : MsixCtl) : Desk :=
  match c with
  | .vector v => sendPending p (updPort d p fun q => { q with msix := q.msix.upd v fun e => { e with mask := false } }) v
  | .enable => sendAllPending (updPort d p fun q => { q with msixEnable := true }) p
  | .disable => updPort d p fun q => { q with msixEnable := false }
  | .function mask => sendAllPending (updPort d p fun q => { q with msixMask := mask }) p
  | .busMaster on => sendAllPending (updPort d p fun q => { q with busMaster := on }) p
  | .power d3 => sendAllPending (updPort d p fun q => { q with d3hot := d3 }) p
  | .sizes payload read => updPort d p fun q => { q with payload := payload, readSize := read }
  | .aer => updPort d p fun q => { q with aerAbort := false }

/-- Whether a write of MSIX_UNMASK reaches its port: the table lies in BAR0, which a function in D3hot does not serve, the rest in
configuration space, which a bound function serves in every power state (R262, R278). -/
def configReach (s : State) (p : Fin 4) (c : MsixCtl) : Bool :=
  match c with
  | .vector _ => modReach s p
  | _ => s.elec.life == .running && portPresent s.fuses.grade p && (s.desk.ports.at p).guest.state == .bound

/-- MSIX_UNMASK. -/
def execMsixUnmask (port : Fin 4) (c : MsixCtl) (s : State) : Host.Outcome State Fault Refusal :=
  .next (if configReach s port c then { s with desk := unmaskMsix s.desk port c } else s)

end Sys2Proof.Machine
end

