-- ==== Sys2Proof/Machine/Recover.lean ====
section
/-!
DEFINITION. Recovery (Chapter 15): replay from a recovery point (R348, R353, R354), retirement of tiles (R351, R352,
R355), and the recovery of an uncorrectable read by the data lost (R349, Table 15.2).
-/
namespace Sys2Proof.Machine

/-! ## Replay -/

/-- Whether a command has lost a tile for good (R355). -/
def tilesGone (e : Env) (d : Desk) (c : Cmd) : Bool := !(c.tiles.all (tileServed e.fuses.grade d))

/-- A command whose stop was for a recovery goes on: on its tiles, or, when one of them is gone, from the head of its
queue as if preempted (R352 step 5, R355). -/
def goAgain (e : Env) (d : Desk) (n : Fin 64) (c : Cmd) : Desk :=
  let c1 := { c with stop := none, progressAt := d.now, fault := false, kept := [] }
  if tilesGone e d c then
    let c2 := { c1 with stage := .sliced, stopAt := d.now }
    { d with sqs := d.sqs.upd n fun q => { q with cur := some c2, allot := [] } }
  else setCur d n (some c1)

/-- A run goes back to a recovery point and runs on (R348), with its EVENT record of code 3 (R346). -/
def replayRun (e : Env) (d : Desk) (n : Fin 64) (c : Cmd) (g : Image) (a : Ann) : Desk :=
  let i := cmdSlot c
  let w := if tilesGone e d c then (d, { c with stop := none }) else reloadRun d n { c with stop := none } g
  let g := ((w.1.slots.at i).image).getD g
  let d1 := updSlot w.1 i fun s => { restoreAnn g c s a with replaySteps := [] }
  let d2 := { d1 with errs := { d1.errs with replays := satAdd 32 d1.errs.replays 1 } }
  let d3 := eventRecord d2 i.val n.val (pktQtag c.pkt) (pktPseq c.pkt) 3 0xFFFFFFFF (annStep a) 0
  let fills := g.home.flatMap fun w => toRanks e g 1 0 (fillBytes i g a w)
  let d4 := { d3 with tx := d3.tx ++ fills }
  if w.2.stop.isSome then setCur d4 n (some { w.2 with progressAt := d.now }) else releaseHeld e (goAgain e d4 n c) i

/-- The item of a slot at a step counter: a waypoint buffer or the entry point (R354 step 3). -/
def itemAt (s : Slot) (step : Nat) : Option Ann :=
  (s.buffers ++ s.entryPoint.toList).find? fun a => annStep a == step

/-- The body of a replay record. -/
def replayBytes (step id : Nat) : Bytes := leBytes 8 step ++ leBytes 4 id ++ leBytes 4 0

/-- A rank of a job at its preemption point: it sends its replay record once, and replays from the least STEP when it
holds one of every rank (R354). -/
def replayJob (e : Env) (d : Desk) (n : Fin 64) (c : Cmd) (g : Image) (a : Ann) : Desk :=
  let i := cmdSlot c
  let s := d.slots.at i
  let sent := s.replaySteps.any fun x => x.1 == g.rank
  let id := if s.replaySteps.isEmpty then s.replayId + 1 else s.replayId
  let steps := if sent then s.replaySteps else s.replaySteps ++ [(g.rank, annStep a)]
  let d1 := updSlot d i fun s => { s with replayId := id, replaySteps := steps }
  let d2 := if sent then d1 else { d1 with tx := d1.tx ++ toRanks e g 0 4 (replayBytes (annStep a) id) }
  if (List.range g.m).all fun r => steps.any fun x => x.1 == r then
    let least := (steps.map (·.2)).foldl min (annStep a)
    replayRun e d2 n c g ((itemAt s least).getD a)
  else d2

/-- The recovery that a stopped command asked for, at its preemption point (R348, R349, R354). A run with no whole item left
completes DATA_LOST with no stop waypoint. -/
def recover (e : Env) (d : Desk) (n : Fin 64) (c : Cmd) : Desk :=
  match pktOp c.pkt, (d.slots.at (cmdSlot c)).image with
  | some o, some g =>
    if opRun o && c.began then
      match recoveryPoint (d.slots.at (cmdSlot c)) with
      | none => stopRun e d n { c with stop := some .dataLost } g .dataLost
      | some a => if g.m = 1 then replayRun e d n c g a else replayJob e d n c g a
    else if opSlotQuiet o then
      -- rows lost while the tile holds a slot between its runs are built again from the image and the spins (R171, R174)
      goAgain e (updSlot d (cmdSlot c) fun s => rebuildFields g (fillMirror g s)) n c
    else goAgain e d n c
  | _, _ => goAgain e d n c

/-! ## Retirement of tiles (R351, R352) -/

/-- The command that holds a logical tile: dispatched or at work, on an allotment with that tile. -/
def tileHolder (d : Desk) (l : Nat) : Option (Fin 64 × Cmd) :=
  ((List.range 64).filterMap fun k =>
    ((d.sqs.at (fin 64 k)).cur.filter fun c => c.tiles.contains l && c.stage != .sliced && c.stage != .ended &&
      (match pktOp c.pkt with | some o => opTile o | none => false)).map fun c => (fin 64 k, c)).head?

/-- The spares of a die that fail their self-test: each is retired, with its own entry (R413). -/
def failSpares (d : Desk) (die : Fin 4) (k : Nat) : Desk :=
  ((d.tiles.spares.at die).take k).foldl (fun d x =>
    logFault { d with tiles := { d.tiles with
        spares := d.tiles.spares.upd die fun l => l.drop 1, retired := d.tiles.retired ++ [(die, x)] } }
      9 die.val none none 0 0) d

/-- The physical tile that serves a logical tile is retired and the next spare that passes takes over (R352 steps 3 to 5):
whether one did, and the desk. -/
def retireTile (d : Desk) (l : Fin 256) (spareFails : Nat) : Bool × Desk :=
  let die := fin 4 (l.val / 64)
  let d1 := match d.tiles.serves.at l with
    | some x => { d with tiles := { d.tiles with retired := d.tiles.retired ++ [(die, x)] } }
    | none => d
  let d2 := failSpares d1 die spareFails
  let holds := d2.tiles.holds.put l none
  let units := d2.tiles.units.put l {}
  match d2.tiles.spares.at die with
  | x :: rest =>
    let d3 := { d2 with
      tiles := { d2.tiles with serves := d2.tiles.serves.put l (some x), spares := d2.tiles.spares.put die rest, holds := holds, units := units }
      errs := { d2.errs with remaps := satAdd 32 d2.errs.remaps 1 } }
    (true, eventRecord d3 0xFF 0xFF 0 0 2 l.val 0 0)
  | [] => (false, { d2 with tiles := { d2.tiles with serves := d2.tiles.serves.put l none, holds := holds, units := units } })

/-- The stop that a fault asks of a command: TIMING_BROKEN inside a timed region (R186), a recovery, or the end of a
command whose geometry is gone (R355). -/
def faultStop (e : Env) (d : Desk) (c : Cmd) : Stop :=
  if inTimed c then .timing
  else if serviceable e.fuses.grade d c.tiles.length then .replay
  else .lastSpare

/-- A command stops for a fault; a run that something else stops goes back to its recovery point (R352). A further fault
during a replay of a job raises its REPLAY_ID (R354). -/
def stopForFault (e : Env) (d : Desk) (n : Fin 64) (c : Cmd) : Desk :=
  let c1 := askStop d.now (faultStop e d c) c
  let d1 := setCur d n (some { c1 with fault := true })
  updSlot d1 (cmdSlot c) fun s =>
    if (match pktOp c.pkt with | some o => opRun o | none => false) then { s with replaySteps := [] } else s

/-- Commands suspended by a time slice whose geometry is no longer serviceable stop for good (R355). -/
def dropUnplaceable (e : Env) (d : Desk) : Desk :=
  ((List.range 64).map (fin 64)).foldl (fun d n => match (d.sqs.at n).cur with
    | some c => if c.stage = .sliced ∧ !serviceable e.fuses.grade d c.tiles.length then
        setCur d n (some { askStop d.now .lastSpare c with fault := true }) else d
    | none => d) d

/-- A tile is retired at once: the command that holds it stops, the entry is written with the final action (R352, R413). Whether the
logical tile stays served, and the desk. -/
def retireNow (e : Env) (d : Desk) (x : DueTile) : Bool × Desk :=
  let r := retireTile d x.tile x.bad
  let d1 := match tileHolder d x.tile.val with
    | some (n, c) => stopForFault e r.2 n c
    | none => r.2
  (r.1, dropUnplaceable e (logFault d1 x.cls (x.tile.val / 64) (some x.tile.val) x.sq (if r.1 then 2 else 7) x.row))

/-- A tile is retired for a fault of a class with a log row. A command inside its timed region stops first, and the tile is remapped
only then (R186). -/
def retireFor (e : Env) (d : Desk) (l : Fin 256) (cls row spareFails : Nat) : Bool × Desk :=
  let holder := tileHolder d l.val
  let x : DueTile := ⟨l, cls, row, spareFails, holder.map fun h => h.1.val⟩
  match holder with
  | some (n, c) =>
    if inTimed c then
      let d1 := stopForFault e d n c
      (true, { d1 with tiles := { d1.tiles with due := d1.tiles.due ++ [x] } })
    else retireNow e d x
  | none => retireNow e d x

/-- The notice of a tile that is no longer served (R356). -/
def noteTile (l : Fin 256) (served : Bool) (s : State) : State := if served then s else noticeAll s 1 l.val none

/-- The retirements that waited for a fixed-timing command, once it has stopped (R186). -/
def retireDue (s : State) : State :=
  s.desk.tiles.due.foldl (fun s x =>
    if (tileHolder s.desk x.tile.val).any fun h => inTimed h.2 then s
    else
      let r := retireNow (envOf s) { s.desk with tiles := { s.desk.tiles with due := s.desk.tiles.due.erase x } } x
      noteTile x.tile r.1 { s with desk := r.2 }) s

/-- Words of 64 bits in the memories of a tile: CPS, ACM and SPS together (Table 1.5). -/
def tileWords : Nat := 598016

/-- Rows of a tile memory, by words of 64 bits: 256 to a row (log entry 31). -/
def tileRowOf (word : Nat) : Nat := word / 256

/-- Whether an uncorrectable word retires its tile (R351): a second one within 24 powered hours, or one at the same word. -/
def ueRetires (t : Tiles) (die : Fin 4) (phys word hour : Nat) : Bool :=
  t.ues.any fun u => u.die == die && u.phys == phys && (u.word == word || decide (hour ≤ u.hour + 24))

/-- An uncorrectable word in a tile's memory that a command's tile has read (R349, R351). -/
def tileUe (e : Env) (d : Desk) (l : Fin 256) (word spareFails : Nat) : Bool × Desk :=
  match d.tiles.serves.at l, (tileHolder d l.val).filter fun _ => decide (word < tileWords) with
  | some x, some (n, c) =>
    let die := fin 4 (l.val / 64)
    let d1 := { d with
      tiles := { d.tiles with ues := d.tiles.ues ++ [⟨die, x, word, e.np.hours⟩] }
      mem := { d.mem with sram := d.mem.sram.upd die fun k => { k with ue := satAdd 32 k.ue 1 } } }
    if ueRetires d.tiles die x word e.np.hours then retireFor e d1 l 3 (tileRowOf word) spareFails
    else
      let action := if inTimed c then 0
        else if (match pktOp c.pkt with | some o => opRun o | none => false) then 1 else 4
      (true, logFault (stopForFault e d1 n c) 3 die.val (some l.val) (some n.val) action (tileRowOf word))
  | _, _ => (true, d)

/-- Whether a run of SQ `n` has begun and has not ended. -/
def runAt (d : Desk) (n : Fin 64) : Option Cmd :=
  ((curOf d n [.anneal, .sample, .correlate, .resume]).filter fun c => c.began && c.stage != .ended)

/-- An uncorrectable word of a run's state outside the tiles: it replays (Table 15.2). -/
def runUe (e : Env) (d : Desk) (n : Fin 64) (cls die : Nat) (f : Slot → Slot) : Desk :=
  match runAt d n with
  | none => d
  | some c =>
    let d1 := updSlot (stopForFault e d n c) (cmdSlot c) f
    logFault d1 cls die none (some n.val) (if inTimed c then 0 else 1) 0

/-- The device address of what Front Desk keeps in the private area of a die: held rows (kind 0), suspension records (1), itineraries (2),
saved tile state (3), by index (R311; log entry 73). -/
def privateAddr (die kind index : Nat) : Nat := die * dieSpan + privateOff + Config.privatePlace kind index % 0x80000000

/-- Rows of a sliced run that are held in the private area of its first tile's die are lost: it replays (Table 15.2). -/
def heldUe (e : Env) (d : Desk) (n : Fin 64) (c : Cmd) : Desk :=
  if (runAt d n).isSome then
    noteUe (stopForFault e d n c) (privateAddr (c.tiles.headD 0 / 64) 0 n.val) (some n.val) (if inTimed c then 0 else 1)
  else d

/-- The count of uncorrectable words of a die's SRAM. -/
def countSramUe (d : Desk) (die : Fin 4) : Desk :=
  { d with mem := { d.mem with sram := d.mem.sram.upd die fun k => { k with ue := satAdd 32 k.ue 1 } } }

/-- Operands of a tensor command in a die: the unfinished row-block restarts (Table 15.2). -/
def tensorUe (e : Env) (d : Desk) (n : Fin 64) (die : Fin 4) : Desk :=
  match (d.sqs.at n).cur with
  | none => d
  | some c =>
    if (match pktOp c.pkt with | some o => opTensor o | none => false) && c.stage == .working then
      let d1 := if inTimed c then stopForFault e d n c else d
      logFault (countSramUe d1 die) 4 die.val none (some n.val) (if inTimed c then 0 else 4) 0
    else d

/-- A sector of device memory becomes uncorrectable. -/
def markUe (d : Desk) (a : Nat) : Desk :=
  if (unitOf a).isNone || d.mem.ue.contains (a / 32) then d else { d with mem := { d.mem with ue := d.mem.ue ++ [a / 32] } }

/-- A byte that a command reads is lost: DATA_LOST, or TIMING_BROKEN inside a timed region (Table 15.2, R186). -/
def readUe (d : Desk) (n : Fin 64) (addr : Nat) : Desk :=
  match (d.sqs.at n).cur with
  | none => d
  | some c =>
    if (unitOf addr).isNone || c.stage == .ended then d
    else
      let k : Stop := if inTimed c then .timing else .dataLost
      noteUe (setCur (markUe d addr) n (some { askStop d.now k c with fault := true })) addr (some n.val)
        (if k == .timing then 0 else 5)

/-- A launch of an itinerary that was lost ends DATA_LOST with its running packet; a launch not begun likewise. -/
def loseItin (d : Desk) (i : Fin 256) : Desk :=
  let d1 := { d with itins := d.itins.upd i fun x => { x with packets := [], refs := [], owner := none } }
  ((List.range 64).map (fin 64)).foldl (fun d n =>
    let q := d.sqs.at n
    let d2 :=
      if q.launch.any fun l => l.cmd.itin == some i then
        { d with sqs := d.sqs.upd n fun q => { q with launch := q.launch.map fun l =>
          { l with cmd := askStop d.now .dataLost l.cmd } } }
      else d
    endLaunch d2 n) d1

/-- A block record of a home copy reads uncorrectable at address `a` (R350). -/
def homeUe (d : Desk) (n : Fin 64) (a : Nat) : Desk :=
  match runAt d n with
  | none => d
  | some c => match (d.slots.at (cmdSlot c)).image with
    | none => d
    | some g =>
      match g.blocks.findIdx? fun b => decide (b.addr ≤ a) && decide (a < b.addr + recordLen b.fmt) with
      | none => d
      | some i =>
        let r := readBlock (markUe d a) n c g i
        setCur r.1 n (some r.2)

/-- A tile whose coupling blocks or bias codes are lost reloads them before its command replays (Table 15.2). -/
def dropCopy (e : Env) (d : Desk) (l : Fin 256) : Desk :=
  if tileServed e.fuses.grade d l.val && (tileHolder d l.val).isSome then
    holdTile d l.val none (groupSet [])
  else d

/-- The die whose tiles a slot's state concerns: that of the first logical tile that holds the slot, else CD0 (R311; log entry 73). -/
def slotDie (d : Desk) (i : Fin 64) : Nat :=
  (((List.range 256).find? fun l => (d.tiles.holds.at (fin 256 l)).any fun x => x.slot == i).getD 0) / 64

/-- The recovery of an uncorrectable read (Table 15.2): whether every tile stays served, and the desk. -/
def recoverLoss (e : Env) (d : Desk) (l : Loss) (spareFails : Nat) : Bool × Desk :=
  match l with
  | .tileImage t w => tileUe e (dropCopy e d t) t w spareFails
  | .tileState t w => tileUe e d t w spareFails
  | .heldRows n =>
    match (d.sqs.at n).cur with
    | some c => if c.stage = .sliced then (true, heldUe e d n c) else (true, d)
    | none => (true, d)
  | .stagingState die n => (true, if (runAt d n).isSome then countSramUe (runUe e d n 4 die.val id) die else d)
  | .waypointBuffer die n =>
    (true, if (runAt d n).isSome then
      countSramUe (runUe e d n 4 die.val fun s => { s with buffers := s.buffers.drop 1 }) die else d)
  | .tensorData die n => (true, tensorUe e d n die)
  | .homeBlock n a => (true, homeUe d n a)
  | .otherRead n a => (true, readUe d n a)
  | .suspension i =>
    (true, if (d.slots.at i).susp.isSome then
      noteUe (updSlot d i fun s => { s with susp := none, suspLost := true }) (privateAddr (slotDie d i) 1 i.val) none 5 else d)
  | .itinerary i =>
    (true, if (d.itins.at i).packets.isEmpty then d else noteUe (loseItin d i) (privateAddr 0 2 i.val) none 5)
  | .nightState i =>
    (true, if (d.slots.at i).state == .committed && (d.slots.at i).nightSaved then
      noteUe (updSlot (leaveSlot d i) i emptySlot) (privateAddr (slotDie d i) 3 i.val) none 5 else d)

/-- The logical tile that a loss concerns. -/
def lossTile (l : Loss) : Fin 256 :=
  match l with
  | .tileImage t _ => t
  | .tileState t _ => t
  | _ => 0

/-- UNCORRECTABLE_READ. -/
def execUncorrectableRead (l : Loss) (spareFails : Nat) (s : State) : Host.Outcome State Fault Refusal :=
  .next (
    if deskAwake s then
      let r := recoverLoss (envOf s) s.desk l spareFails
      settle (noteTile (lossTile l) r.1 { s with desk := r.2 })
    else s)

/-- TILE_LOGIC_FAULT: a residue, parity or sequencer watchdog fault retires the tile (R351). -/
def execTileLogicFault (l : Fin 256) (row spareFails : Nat) (s : State) : Host.Outcome State Fault Refusal :=
  .next (
    if deskAwake s && tileServed s.fuses.grade s.desk l.val then
      let r := retireFor (envOf s) s.desk l 5 row spareFails
      settle (noteTile l r.1 { s with desk := r.2 })
    else s)

/-- DIE_LINK_RETRY: a fixed-timing command that uses the link ends TIMING_BROKEN (R186). Die 4 is the hub die. The spec does not say
which links a job uses: the model takes the links between the dies that hold its tiles, and those between them and the hub (DESIGN
CHOICE, log entry 70). -/
def dieLinkRetry (d : Desk) (a b : Fin 5) : Desk :=
  ((List.range 64).map (fin 64)).foldl (fun d n => match (d.sqs.at n).cur with
    | some c =>
      let uses (x : Fin 5) : Bool := x.val = 4 || c.tiles.any fun l => l / 64 == x.val
      if inTimed c && a != b && uses a && uses b then setCur d n (some (askStop d.now .timing c)) else d
    | none => d) d

/-- Whether a die-to-die link is there: between dies of the grade, the hub die among them (R23). -/
def linkThere (g : Grade) (a b : Fin 5) : Bool :=
  let there (x : Fin 5) : Bool := x.val = 4 || decide (x.val < gradeDies g)
  a != b && there a && there b

/-- DIE_LINK_RETRY. -/
def execDieLinkRetry (a b : Fin 5) (s : State) : Host.Outcome State Fault Refusal :=
  .next (if deskAwake s && linkThere s.fuses.grade a b then settle { s with desk := dieLinkRetry s.desk a b } else s)

end Sys2Proof.Machine
end

