-- ==== Sys2Proof/Machine/FrontDesk.lean ====
section
/-!
DEFINITION. Front Desk's own events: dispatch and preload (R220, R222), commit points (R232), time slices (R223), stops at a
preemption point (R80, R232, R415), deadlines (R233), the no-progress limit (R230) and the fence deadlock (R229).
-/
namespace Sys2Proof.Machine

/-- DISPATCH: the round of R220, or the preload of a queue's next packet (R222). -/
def execDispatch (preload : Option (Fin 64)) (s : State) : Host.Outcome State Fault Refusal :=
  .next (
    if deskAwake s then
      onDesk s fun e d => match preload with
        | none => dispatchRound e d
        | some n => preloadNext e d n
    else s)

/-! ## Commit points -/

/-- The command of a queue whose work has ended and whose outputs are written (R232, R299). -/
def endedAt (d : Desk) (n : Fin 64) : Option Cmd := (d.sqs.at n).cur.filter fun c => c.stage == .ended && c.remote.isEmpty

/-- The commit point of the command of a queue. A QUERY takes its values here (R235). -/
def deskCommitPoint (e : Env) (d : Desk) (n : Fin 64) : Desk :=
  match endedAt d n with
  | none => d
  | some c =>
    if pktOp c.pkt == some .query && c.status == stOk then
      let r := queryResult e d c.pkt
      reapSlots (retire r.2 n { c with result := slice r.1 0 28 })
    else reapSlots (retire d n c)

/-- COMMIT_POINT. -/
def execCommitPoint (sq : Fin 64) (s : State) : Host.Outcome State Fault Refusal :=
  .next (
    if deskAwake s then settle (servePorts { s with desk := deskCommitPoint (envOf s) s.desk sq })
    else s)

/-! ## Time slices -/

/-- The commands that a time slice may preempt (R223). -/
def opSliced (o : Op) : Bool :=
  opRun o || opTensor o ||
  match o with
  | .copy | .fill | .loadCouplings | .loadBiases | .loadGroups => true
  | _ => false

/-- SQC.SLICE in ns: 1 to 1,000 in units of 100 µs (Table 9.2). -/
def sliceNs (d : Desk) : Nat := 100000 * max 1 (min 1000 d.slice.toNat)

/-- The slot and the tiles that the head of a queue, or its command suspended by a time slice, needs to go on. -/
def tilesWanted (e : Env) (d : Desk) (m : Fin 64) : Option (Option (Fin 64) × Nat) :=
  let slotOf (p : Bytes) (o : Op) : Option (Fin 64) := if opNamesSlot o then some (pktSlot p) else none
  match (d.sqs.at m).cur with
  | some c => match pktOp c.pkt with
    | some o => if c.stage == .sliced && c.stop.isNone then some (slotOf c.pkt o, c.tiles.length) else none
    | none => none
  | none => match nextCand d m with
    | some c => match pktOp c.pkt with
      | some o =>
        let t := cmdGeometry d m o c.pkt
        if opTile o && isReady d m c && serviceable e.fuses.grade d t && !(opRun o && runElsewhere d m (pktSlot c.pkt)) then some (slotOf c.pkt o, t) else none
      | none => none
    | none => none

/-- Whether a ready command of another queue can be placed only on tiles that queue `n` holds (R223 step 1). -/
def tilesNeeded (e : Env) (d : Desk) (n : Fin 64) : Bool :=
  let freed := { d with sqs := d.sqs.upd n fun q => { q with allot := [] } }
  ((List.range 64).map (fin 64)).any fun m => m != n &&
    match tilesWanted e d m with
    | some (i, t) => (allotFor e.fuses.grade d m i t).isNone && (allotFor e.fuses.grade freed m i t).isSome
    | none => false

/-- TIME_SLICE_EXPIRY: the command is told to stop at its next preemption point (R223, R220 step 4). -/
def sliceExpiry (e : Env) (d : Desk) (n : Fin 64) : Desk :=
  match (d.sqs.at n).cur with
  | none => d
  | some c => match pktOp c.pkt with
    | none => d
    | some o =>
      if opSliced o && c.stage == .working && c.stop.isNone && !inTimed c && decide (c.resumedAt + sliceNs d ≤ d.now) &&
          (d.drain || (!d.tripHold && tilesNeeded e d n)) then
        setCur d n (some { c with stop := some .slice, stopAt := d.now })
      else d

/-- TIME_SLICE_EXPIRY. -/
def execTimeSliceExpiry (sq : Fin 64) (s : State) : Host.Outcome State Fault Refusal :=
  .next (if deskAwake s then onDesk s fun e d => sliceExpiry e d sq else s)

/-- A suspended command goes on, on tiles that may be others (R223 step 5). The clock of its no-progress limit has stood
still (R230). -/
def goOn (d : Desk) (n : Fin 64) (c : Cmd) (tiles : List Nat) : Desk :=
  let slot := match pktOp c.pkt with
    | some o => if opNamesSlot o then some (cmdSlot c) else none
    | none => none
  let c1 := { c with
    tiles := tiles, stage := if c.began then .working else .dispatched, resumedAt := d.now
    progressAt := c.progressAt + (d.now - c.stopAt) }
  let r := match pktOp c.pkt, (d.slots.at (cmdSlot c)).image with
    | some o, some g => if opRun o && c.began then reloadRun d n c1 g else (takeTiles d tiles slot, c1)
    | _, _ => (takeTiles d tiles slot, c1)
  { r.1 with sqs := r.1.sqs.upd n fun q => { q with cur := some r.2, allot := tiles }, deadlockSince := none }

/-- TIME_SLICE_RESUME. -/
def execTimeSliceResume (s : State) : Host.Outcome State Fault Refusal :=
  .next (if deskAwake s then onDesk s fun e d => resumeRound e d goOn else s)

/-! ## Stops (R415, R232) -/

/-- A command is suspended by a time slice: its allotment is released (R223 steps 3 and 4). Its tiles may pass to another command: rows
of an open CORRELATE group keep their bits (R171), and the weights in the CPS are fetched again when it goes on. -/
def suspendSlice (d : Desk) (n : Fin 64) (c : Cmd) : Desk :=
  let c1 := { c with stage := .sliced, stop := none, stopAt := d.now, kept := [] }
  let d1 := { d with sqs := d.sqs.upd n fun q => { q with cur := some c1, allot := [] } }
  match pktOp c.pkt, (d.slots.at (cmdSlot c)).image with
  | some o, some g =>
    if opRun o then
      let d2 := if c.began then closeGroup d1 c g (d1.slots.at (cmdSlot c)).ann else d1
      updSlot d2 (cmdSlot c) fun s => { s with fetched := [], primed := false }
    else d1
  | _, _ => d1

/-- Outstanding reads of a stopped command are no longer waited for; writes are (R299). -/
def dropReads (c : Cmd) : Cmd := { c with remote := c.remote.filter (·.write) }

/-- A command that is no run ends with the status of its stop: a transfer with its bytes written, a tensor command with its
row-blocks finished, a commit with its slot OPEN (R232, R147, R152). -/
def stopOther (e : Env) (d : Desk) (n : Fin 64) (o : Op) (c : Cmd) (st : Nat) : Desk :=
  if opTensor o then
    if c.began then tensorEnd e d n o c st else endWork d n c st [] 0
  else match o with
    | .copy | .fill | .loadCouplings | .loadBiases | .loadGroups =>
      let l := transferLimit e d c (xferOf o c.pkt)
      endWork l.2 n c st (leBytes 8 c.done) l.1
    | .commitProblem | .coupleOut =>
      let l := openLimit (updSlot (leaveSlot d (cmdSlot c)) (cmdSlot c) (openSlot (queuePort n)))
      endWork l.2 n c st [] l.1
    | _ => endWork d n c st c.result 0

/-- A run told to stop, at its preemption point. One that has not begun leaves its beginning as a suspension record when
SUSPEND stops it, and reports no progress otherwise. -/
def stopRunAt (e : Env) (d : Desk) (n : Fin 64) (c : Cmd) (g : Image) (k : Stop) : Desk :=
  if c.began then stopRun e d n (dropReads c) g k
  else match k with
    | .suspend _ =>
      let d1 := beginRun e (setCur d n (some { c with stop := none })) n { c with stop := none } g
      match (d1.sqs.at n).cur with
      | some c1 => if c1.began then stopRun e d1 n { c1 with stop := some k, stopAt := c.stopAt } g k else d
      | none => d1
    | _ => endWork d n (dropReads c) (stopStatus k) [] 1

/-- Whether a command stands at a preemption point: a run between phases (R80); every other command between its units. After the
last phase of a sweep a run stops once the steps of R83 are done, with the records of other ranks that they need (DESIGN CHOICE, log
entry 68): the step counter then names the next sweep (Table 4.9). -/
def atPoint (d : Desk) (c : Cmd) : Bool :=
  match pktOp c.pkt, (d.slots.at (cmdSlot c)).image with
  | some o, some g =>
    let s := d.slots.at (cmdSlot c)
    !(opRun o && c.began && (midPhase g s || s.sweepDue))
  | _, _ => true

/-- Whether a tile command stands still for want of TCLK: from a trip until Front Desk holds it (R338 steps 1 to 3). -/
def stillOf (d : Desk) (c : Cmd) : Bool :=
  d.tclkOff && !d.tripLatched && c.stage == .working && (match pktOp c.pkt with | some o => opTile o | none => false)

/-- A stop takes hold at the command's preemption point. -/
def takeStopNow (e : Env) (d : Desk) (n : Fin 64) (c : Cmd) (k : Stop) : Desk :=
  match k with
  | .slice => if c.stage == .working then suspendSlice d n c else setCur d n (some { c with stop := none })
  | .replay => recover e d n c
  | _ => match pktOp c.pkt, (d.slots.at (cmdSlot c)).image with
    | some o, some g => if opRun o then stopRunAt e d n c g k else stopOther e d n o (dropReads c) (stopStatus k)
    | some o, none => stopOther e d n o (dropReads c) (stopStatus k)
    | none, _ => d

/-- PREEMPTION_POINT_STOP. -/
def deskStop (e : Env) (d : Desk) (n : Fin 64) : Desk :=
  match (d.sqs.at n).cur with
  | none => d
  | some c => match c.stop with
    | none => d
    | some k => if c.stage != .ended && c.stage != .preloaded && !stillOf d c && atPoint d c then takeStopNow e d n c k else d

/-- PREEMPTION_POINT_STOP. -/
def execPreemptionPointStop (sq : Fin 64) (s : State) : Host.Outcome State Fault Refusal :=
  .next (if deskAwake s then settle (retireDue { s with desk := deskStop (envOf s) s.desk sq }) else s)

/-- Whether an engine that waits 10 ms after a stop is reset (R230): not after a time slice or a SUSPEND, which a rank of a job waits
out at its barrier (R119, R197). -/
def resetsEngine (k : Stop) : Bool :=
  match k with
  | .slice => false
  | .suspend _ => false
  | _ => true

/-- An engine still waiting 10 ms after a stop is reset: a run goes back to its last preemption point and stops there
(R230 step 2). -/
def engineStop (e : Env) (d : Desk) (n : Fin 64) : Desk :=
  match (d.sqs.at n).cur with
  | none => d
  | some c => match c.stop with
    | none => d
    | some k =>
      if c.stage == .working && resetsEngine k && decide (c.stopAt + 10000000 ≤ d.now) then
        match (d.slots.at (cmdSlot c)).image, pktOp c.pkt with
        | some g, some o =>
          let s := d.slots.at (cmdSlot c)
          let back := match s.point with
            | some a => if opRun o && !atPoint d c then updSlot d (cmdSlot c) fun s => restoreAnn g c s a else d
            | none => d
          takeStopNow e back n c k
        | _, _ => takeStopNow e d n c k
      else d

/-- ENGINE_STOP_TIMEOUT. -/
def execEngineStopTimeout (sq : Fin 64) (s : State) : Host.Outcome State Fault Refusal :=
  .next (if deskAwake s then settle (retireDue { s with desk := engineStop (envOf s) s.desk sq }) else s)

/-! ## Deadlines, no progress, deadlock -/

/-- DEADLINE_EXPIRY: a head that is fence-blocked or waits for tiles when its deadline passes (R233). -/
def deadlineExpiry (e : Env) (d : Desk) (n : Fin 64) : Desk :=
  match (d.sqs.at n).cur, nextCand d n with
  | none, some c =>
    if pktDeadlineValid c.pkt && decide (pktDeadline c.pkt < d.now) && (fenceBlocked d n || waitsTiles e d n c) then
      failPacket d n (freshCmd d (d.sqs.at n) c.pkt c.index c.launch c.visible) stExpired false
    else d
  | _, _ => d

/-- DEADLINE_EXPIRY. -/
def execDeadlineExpiry (sq : Fin 64) (s : State) : Host.Outcome State Fault Refusal :=
  .next (if deskAwake s then onDesk s fun e d => deadlineExpiry e d sq else s)

/-- HANG_TIMEOUT: a running tile command with no progress for SQn_HANG ms is told to stop (R230). -/
def hangTimeout (d : Desk) (n : Fin 64) : Desk :=
  let q := d.sqs.at n
  match q.cur with
  | none => d
  | some c =>
    if c.stage == .working && (match pktOp c.pkt with | some o => opTile o | none => false) && q.hang != 0 &&
        decide (c.progressAt + 1000000 * q.hang.toNat ≤ d.now) then
      setCur d n (some (askStop d.now .hang c))
    else d

/-- HANG_TIMEOUT. -/
def execHangTimeout (sq : Fin 64) (s : State) : Host.Outcome State Fault Refusal :=
  .next (if deskAwake s then onDesk s fun _ d => hangTimeout d sq else s)

/-- The lowest-numbered queue with a fence-blocked head. -/
def firstBlocked (d : Desk) : Option (Fin 64) := ((List.range 64).map (fin 64)).find? fun n => fenceBlocked d n

/-- The head of that queue completes FENCE_DEADLOCK without running (R229). -/
def breakDeadlock (d : Desk) : Desk :=
  match firstBlocked d with
  | none => d
  | some n => match nextCand d n with
    | none => d
    | some c => failPacket d n (freshCmd d (d.sqs.at n) c.pkt c.index c.launch c.visible) stDeadlock false

/-- Whether the count of R229 has run out: 2^20 cycles of FDCLK. -/
def deadlockDue (d : Desk) : Bool :=
  match d.deadlockSince with
  | some t => decide (t + 655360 ≤ d.now)
  | none => false

/-- FENCE_DEADLOCK_EXPIRY: below IDLE it wakes the module. -/
def execFenceDeadlockExpiry (s : State) : Host.Outcome State Fault Refusal :=
  .next (
    if !deadlockDue s.desk then s
    else if deskAwake s then onDesk s fun _ d => breakDeadlock d
    else settle (wake 10 s))

end Sys2Proof.Machine
end

