-- ==== Sys2Proof/Machine/FabricLink.lean ====
section
/-!
DEFINITION. The links of Strelide: flits (R284, R286), retrains, hellos (R289, R290), peers (R291, R292), routes (R293),
and the delivery of messages end to end (R294).
-/
namespace Sys2Proof.Machine

/-! ## Small access -/

/-- A port of the fabric changed. -/
def updFab (s : State) (p : Fin 16) (f : FabPort → FabPort) : State :=
  { s with fab := { s.fab with ports := s.fab.ports.upd p f } }

/-- Something sent on a pin. -/
def emit (s : State) (l : List Out) : State := { s with desk := { s.desk with out := s.desk.out ++ l } }

/-- A port sends what it may. -/
def pumpState (s : State) (p : Fin 16) : State :=
  let r := pump s.desk.now p s.fab
  emit { s with fab := r.1 } r.2

/-- Whether a port takes flits: present, the link up. -/
def linkTakes (s : State) (p : Fin 16) : Bool :=
  s.elec.life == .running && slPresent (envOf s) s.desk p && (s.fab.ports.at p).link == .up

/-- A flit that failed CRC or FEC is counted (Table 12.8). -/
def badFlit (s : State) (p : Fin 16) : State := updFab s p fun q => { q with errs := satAdd 32 q.errs 1 }

/-- The credits that a flit returns (R284). -/
def takeCredits (f : Bytes) (q : FabPort) : FabPort :=
  let k := fieldBits f 6 2 0 5
  if k < 5 then { q with credits := q.credits.upd (fin 5 k) fun c => c + fieldBits f 6 2 5 11 } else q

/-- Receive buffer of a class is free again: its credits go back to the peer (R284, R295). -/
def freeRoom (s : State) (p : Fin 16) (cls n : Nat) : State :=
  let q := s.fab.ports.at p
  if n = 0 || 5 ≤ cls || q.link == .down || q.link == .absent then s
  else emit (updFab s p fun q => { q with given := q.given.upd (fin 5 cls) fun c => min (rxRoom cls) (c + n) })
    [.flit p (creditFlit cls n)]

/-! ## Routes (R293, R294) -/

/-- Modules that a route reaches and that are no peers yet (R291). -/
def newPeers (self : Nat) (f : Fabric) : List (BitVec 6) :=
  ((List.range 64).filter fun i => i != self && reachable self f i && !(f.peers.any fun x => x.id.toNat == i)).map (BitVec.ofNat 6)

/-- Peers that no route reaches start their timers, and those reached again stop them (R292); a module that a route newly reaches is a
peer, and the set has changed (R291). -/
def reachPeers (self now : Nat) (f : Fabric) : Fabric :=
  let new := newPeers self f
  { f with
    peers := (f.peers.map fun x =>
      { x with lostAt := if reachable self f x.id.toNat then none else x.lostAt.orElse fun _ => some now }) ++
      new.map fun i => ⟨i, Config.farUnits i.toNat, Config.farEpoch i.toNat, 0, none, false⟩
    gen := if new.isEmpty then f.gen else f.gen + 1 }

/-- Routes computed again from `old` to the fabric as it stands: every unacknowledged message whose route has changed is
sent again, and messages that waited are tried (R294). -/
def reroute (s : State) (old : Fabric) : State :=
  let self := s.elec.moduleId.toNat
  let f := reachPeers self s.desk.now s.fab
  let again := f.kept.filter fun m => exitPort self f m != exitPort self old m
  let r := again.foldl (fun (x : Fabric × List Out) m =>
    match exitPort self x.1 m with
    | some p => let q := pump s.desk.now p (queueOn p m x.1); (q.1, x.2 ++ q.2)
    | none => x) (f, [])
  let u := retryUnsent self s.desk.now r.1
  emit { s with fab := u.1 } (r.2 ++ u.2)

/-! ## Hellos (R289 to R291) -/

/-- The hello of this module on a port (Table 12.4). -/
def helloMsg (s : State) (p : Fin 16) : Msg :=
  let dst := ((cabled s.elec.moduleId.toNat p.val).headD (0, 0)).1
  ownMsg (envOf s) 4 0 dst 0 (leBytes 1 s.elec.moduleId.toNat ++ leBytes 1 p.val ++ [0, 0] ++
    leBytes 4 (gradeUnits s.fuses.grade).toNat ++ leBytes 4 s.desk.gctl.epoch.toNat ++ leBytes 4 0 ++
    leBytes 8 s.desk.bootId.toNat)

/-- A link fresh from training: numbers from 0, nothing outstanding, the hello waiting, receive credits as advertised (log entry 18). -/
def freshLink (m : Msg) (given : Tab 5 Nat) (q : FabPort) : FabPort :=
  { q with
    link := .up, accepted := false, greeted := false, refused := false, txSeq := 0, rxSeq := 0, nacked := false, replay := []
    queue := msgFlits m, nackCount := 0, failedTrains := 0, credits := Tab.all 5 0, given := given, turn := 0, part := Tab.all 5 [] }

/-- The flits that give the peer of a port its first receive credits (R295). -/
def firstCredits (p : Fin 16) (given : Tab 5 Nat) : List Out :=
  (List.range 5).map fun k => .flit p (creditFlit k (given.at (fin 5 k)))

/-- Whether a port is in a retrain of R286: its numbers and its replay buffer are kept. -/
def inRetrain (q : FabPort) : Bool := q.link == .training && decide (0 < q.failedTrains)

/-- LINK_UP: the link has trained (R288, R289). -/
def execLinkUp (p : Fin 16) (s : State) : Host.Outcome State Fault Refusal :=
  .next (
    if s.elec.life == .running && slPresent (envOf s) s.desk p && (s.fab.ports.at p).link != .up && !inRetrain (s.fab.ports.at p) then
      let given := freshCredits s.fab p
      settle (pumpState (emit (updFab s p (freshLink (helloMsg s p) given)) (firstCredits p given)) p)
    else s)

/-- What waits for a module that has gone is dropped, and its numbers begin again (R294). -/
def forgetModule (id : BitVec 6) (f : Fabric) : Fabric :=
  { f with
    peers := f.peers.filter fun x => x.id != id
    gen := f.gen + 1
    kept := f.kept.filter fun m => m.dst != id
    unsent := f.unsent.filter fun m => m.dst != id
    ahead := f.ahead.filter fun m => m.2.src != id
    outSeq := f.outSeq.filter fun x => x.1 != id
    inSeq := f.inSeq.filter fun x => x.1 != id }

/-- Whether a command is a run of a job whose module map names a module, or waits on an access to it. -/
def namesModule (d : Desk) (id : BitVec 6) (c : Cmd) : Bool :=
  (c.remote.any fun r => r.dst == id) ||
  ((match pktOp c.pkt with | some o => opRun o | none => false) &&
    match (d.slots.at (cmdSlot c)).image with
    | some g => decide (1 < g.m) && g.modMap.contains id.toNat
    | none => false)

/-- The commands of one queue that a gone module ends (R292 step 2, R123). -/
def goneQueue (id : BitVec 6) (d : Desk) (n : Fin 64) : Desk :=
  let q := d.sqs.at n
  let d1 := if q.pre.any (namesModule d id) then
      { d with sqs := d.sqs.upd n fun q => { q with pre := q.pre.map fun c => { c with stage := .ended, status := stGone } } }
    else d
  let d2 := match q.cur with
    | some c =>
      if namesModule d id c then
        let c1 := { c with remote := c.remote.filter fun r => r.dst != id }
        stopCur (setCur d1 n (some c1)) n .rankGone
      else d1
    | none => d1
  if q.fetch.any fun r => r.dst == id then
    match nextCand d2 n with
    | some c => failPacket d2 n (freshCmd d2 (d2.sqs.at n) c.pkt c.index c.launch c.visible) stGone (d2.sqs.at n).cur.isSome
    | none => d2
  else d2

/-- The ports whose direct peer a module is. -/
def portsOf (s : State) (id : BitVec 6) : List (Fin 16) :=
  ((List.range 16).map (fin 16)).filter fun p =>
    (s.fab.ports.at p).peerId == id && (cabled s.elec.moduleId.toNat p.val).any fun x => x.1 == id.toNat

/-- A mailbox with a message waiting withdraws it. -/
def withdrawFull (s : State) (b : BoxId) : State := if (boxAt s.mbx b).full then withdrawMail s b else s

/-- A module is declared gone (R292). -/
def peerGone (s : State) (id : BitVec 6) : State :=
  let ps := portsOf s id
  let s1 := { s with
    fab := forgetModule id s.fab
    desk := ((List.range 64).map (fin 64)).foldl (goneQueue id) s.desk
    locks := ps.foldl (fun l p => freeLocks l (fin 32 (16 + p.val))) { s.locks with asked := s.locks.asked.filter fun x => x.1 != id } }
  ps.foldl (fun x p => withdrawFull (withdrawFull x (.peerToFd p)) (.fdToPeer p)) s1

/-- A delivered message is taken: its receive buffer is free. -/
def takeInbox (s : State) (x : Fin 16 × Msg) : State :=
  freeRoom { s with fab := { s.fab with inbox := s.fab.inbox.erase x } } x.1 x.2.cls (msgFlitCount x.2)

/-- The oldest message of a kind in the inbox, and the state without it. -/
def popInbox (s : State) (f : Msg → Bool) : Option (Fin 16 × Msg × State) :=
  match s.fab.inbox.find? fun x => f x.2 with
  | some x => some (x.1, x.2, takeInbox s x)
  | none => none

/-- A hello that is accepted: the port's peer, and the module among the peers (R290, R291). -/
def acceptHello (s : State) (p : Fin 16) (b : Bytes) : State :=
  let id : BitVec 6 := BitVec.ofNat 6 (field b 0 1)
  let boot : BitVec 64 := BitVec.ofNat 64 (field b 16 8)
  let old := s.fab.peers.find? fun x => x.id == id
  let s1 := if old.any fun x => x.known && x.bootId != boot then peerGone s id else s
  let s2 := updFab s1 p fun q => { q with accepted := true, peerId := id, peerPort := BitVec.ofNat 4 (field b 1 1) }
  let x : Peer := ⟨id, BitVec.ofNat 32 (field b 4 4), BitVec.ofNat 32 (field b 8 4), boot, none, true⟩
  let there := s2.fab.peers.any fun x => x.id == id
  let s3 := if there then { s2 with fab := { s2.fab with peers := s2.fab.peers.map fun y => if y.id == id && !y.known then x else y } }
    else { s2 with fab := { s2.fab with peers := s2.fab.peers ++ [x], gen := s2.fab.gen + 1 } }
  pumpState (reroute s3 s.fab) p

/-- A hello is accepted or refused; a link once refused stays so until it trains again (R290). -/
def takeHello (s : State) (p : Fin 16) (b : Bytes) : State :=
  let id := field b 0 1
  let ok := (cabled s.elec.moduleId.toNat p.val).contains (id, field b 1 1)
  let own := id == s.elec.moduleId.toNat
  if (s.fab.ports.at p).refused then s
  else if ok && !own then acceptHello s p b
  else updFab s p fun q => { q with accepted := false, refused := true, cableErr := q.cableErr || !ok, dupId := q.dupId || own }

/-- HELLO. -/
def execHello (s : State) : Host.Outcome State Fault Refusal :=
  .next (
    if deskAwake s then
      match popInbox s fun m => m.cls == 4 && m.rtype == 0 with
      | some (p, m, t) => settle (takeHello t p m.body)
      | none => s
    else s)

/-- PEER_TIMEOUT in force, in ns (Table 12.8). -/
def peerLimit (f : Fabric) : Nat := 1000000 * max 1 (min 10000 f.timeout.toNat)

/-- PEER_TIMEOUT (R292). -/
def execPeerTimeout (m : Fin 64) (s : State) : Host.Outcome State Fault Refusal :=
  .next (
    let id : BitVec 6 := BitVec.ofNat 6 m.val
    if s.elec.life == .running &&
        (s.fab.peers.any fun x => x.id == id && x.lostAt.any fun t => decide (t + peerLimit s.fab ≤ s.desk.now)) then
      settle (peerGone s id)
    else s)

/-! ## Messages end to end (R294) -/

/-- A message in its turn enters the inbox, and so do those that waited for it, each with the port it arrived by. -/
def deliverNext : Nat → Fin 16 → Msg → Fabric → Fabric
  | 0, _, _, f => f
  | fuel + 1, p, m, f =>
    let f1 := { f with inbox := f.inbox ++ [(p, m)], inSeq := seqSet f.inSeq m.src m.cls (seqAfter m.mseq) }
    match f1.ahead.find? fun x => x.2.src == m.src && x.2.cls == m.cls && x.2.mseq == seqAfter m.mseq with
    | some x => deliverNext fuel x.1 x.2 { f1 with ahead := f1.ahead.erase x }
    | none => f1

/-- What an arrival in a class wakes (Table 14.3). -/
def arrivalWakes (cls : Nat) (s : State) : State := if cls = 0 ∨ cls = 1 ∨ cls = 4 then wake 5 s else s

/-- Whether a message is mailbox traffic of another module than the port's direct peer: it was never forwarded, and is not taken (R300). -/
def strayMail (s : State) (p : Fin 16) (m : Msg) : Bool :=
  m.cls == 4 && m.rtype != 0 && !((s.fab.ports.at p).accepted && (s.fab.ports.at p).peerId == m.src)

/-- The number of the message of a source and class that was delivered last. -/
def seqLast (f : Fabric) (m : Msg) : Nat := (seqOf f.inSeq m.src m.cls + 4294967295) % 4294967296

/-- A message for this module: delivered in MSEQ order, early arrivals held, duplicates discarded; the highest number
delivered is acknowledged. An arrival wakes the module whatever its turn (R328). -/
def arrive (s0 : State) (p : Fin 16) (m : Msg) : State :=
  let s := arrivalWakes m.cls s0
  let next := seqOf s.fab.inSeq m.src m.cls
  if m.cls = 4 ∧ m.rtype = 0 then { s with fab := { s.fab with inbox := s.fab.inbox ++ [(p, m)] } }
  else if strayMail s p m then s
  else if seqBefore m.mseq next then emit s [.msgAck m.src m.cls (seqLast s.fab m)]
  else if m.mseq = next then
    let f := deliverNext (s.fab.ahead.length + 1) p m s.fab
    emit { s with fab := f } [.msgAck m.src m.cls (seqLast f m)]
  else if s.fab.ahead.any fun x => x.2 == m then s
  else { s with fab := { s.fab with ahead := s.fab.ahead ++ [(p, m)] } }

/-- Whether a message is for this module: a hello always is. -/
def forMe (s : State) (m : Msg) : Bool := m.dst == s.elec.moduleId || (m.cls == 4 && m.rtype == 0)

/-- Whether an arriving message stays in the module, and so in the receive buffer of its port, until it is served. -/
def stays (s : State) (p : Fin 16) (m : Msg) : Bool :=
  forMe s m && ((m.cls == 4 && m.rtype == 0) ||
    (!strayMail s p m && !seqBefore m.mseq (seqOf s.fab.inSeq m.src m.cls) && !(s.fab.ahead.any fun x => x.2 == m)))

/-- A message that has crossed a link: for this module, or forwarded; mailbox traffic is never forwarded (R293, R300). -/
def landMsg (s : State) (p : Fin 16) (m : Msg) : State :=
  if forMe s m then arrive s p m
  else if m.cls = 4 then s
  else match routePort s.elec.moduleId.toNat s.fab m.dst.toNat with
    | some q =>
      let r := pump s.desk.now q (queueOn q m s.fab)
      emit { s with fab := r.1 } r.2
    | none => s

/-! ## Flits (R286) -/

/-- A data flit in its turn: its payload joins the message of its class. -/
def takeFlit (s : State) (p : Fin 16) (f : Bytes) : State :=
  let q := s.fab.ports.at p
  let k := fin 5 (flitClass f)
  let body := (if flitFirst f then [] else q.part.at k) ++ slice f 8 (flitLen f)
  if flitLast f then
    let s1 := updFab s p fun q => { q with part := q.part.put k [] }
    let m := msgOf body
    let goes := !q.refused && (q.accepted || field body 0 1 == 4)
    let s2 := if goes then landMsg s1 p m else s1
    if goes && stays s1 p m then s2 else freeRoom s2 p m.cls (ceilDiv body.length 244)
  else updFab s p fun q => { q with part := q.part.put k body }

/-- A data flit (R286 step 2): a nack for the first that fails or is out of order, and again when the flit it names
arrives bad (DEDUCED from step 4, log entry 36); otherwise an ack. A flit beyond the credits advertised for its class is not taken (R297);
credits go back as messages leave the receive buffer. -/
def dataFlit (s : State) (p : Fin 16) (f : Bytes) (fecGood : Bool) : State :=
  let q := s.fab.ports.at p
  let nack := Out.flit p (flitBytes 3 0 false false 0 q.rxSeq.toNat 31 0 [])
  if !(flitGood f && fecGood) then
    let s1 := badFlit s p
    if q.nacked && !(flitType f == 1 && flitSeq f == q.rxSeq) then s1
    else emit (updFab s1 p fun q => { q with nacked := true }) [nack]
  else if flitType f != 1 then s
  else if flitSeq f != q.rxSeq then
    if q.nacked then s else emit (updFab s p fun q => { q with nacked := true }) [nack]
  else
    let s1 := updFab s p fun q => takeCredits f { q with rxSeq := q.rxSeq + 1, nacked := false }
    if 5 ≤ flitClass f then
      emit (badFlit s1 p) [.flit p (flitBytes 2 0 false false 0 q.rxSeq.toNat 31 0 [])]
    else if q.given.at (fin 5 (flitClass f)) = 0 then s
    else
      let s2 := updFab s1 p fun q => { q with given := q.given.upd (fin 5 (flitClass f)) fun c => c - 1 }
      pumpState (takeFlit (emit s2 [.flit p (flitBytes 2 0 false false 0 q.rxSeq.toNat 31 0 [])]) p f) p

/-- DATA_FLIT. -/
def execDataFlit (p : Fin 16) (flit : Bytes) (fecGood : Bool) (s : State) : Host.Outcome State Fault Refusal :=
  .next (if linkTakes s p then settle (dataFlit s p flit fecGood) else s)

/-- The unacknowledged flits after an ack of all up to `seq`. -/
def afterAck (seq : BitVec 12) (l : List (BitVec 12 × Bytes)) : List (BitVec 12 × Bytes) :=
  match l.findIdx? fun x => x.1 == seq with
  | some i => l.drop (i + 1)
  | none => l

/-- An ack at its port (R286 step 1): the flits it covers leave the replay buffer. The first that does covers the own hello, which the peer
has then received (R289; log entry 18). -/
def takeAck (now : Nat) (f : Bytes) (q : FabPort) : FabPort :=
  let rest := afterAck (flitAck f) q.replay
  takeCredits f { q with
    replay := rest, nackCount := 0, ackAt := now
    greeted := q.greeted || decide (rest.length < q.replay.length) }

/-- ACK_FLIT (R286 step 1). -/
def execAckFlit (p : Fin 16) (flit : Bytes) (fecGood : Bool) (s : State) : Host.Outcome State Fault Refusal :=
  .next (
    if !linkTakes s p then s
    else if !(flitGood flit && fecGood) then badFlit s p
    else if flitType flit != 2 then s
    else settle (pumpState (updFab s p (takeAck s.desk.now flit)) p))

/-- The flits from a named one on. -/
def fromNack (seq : BitVec 12) (l : List (BitVec 12 × Bytes)) : List (BitVec 12 × Bytes) :=
  match l.findIdx? fun x => x.1 == seq with
  | some i => l.drop i
  | none => []

/-- NACK_FLIT (R286 step 3). -/
def execNackFlit (p : Fin 16) (flit : Bytes) (fecGood : Bool) (s : State) : Host.Outcome State Fault Refusal :=
  .next (
    if !linkTakes s p then s
    else if !(flitGood flit && fecGood) then badFlit s p
    else if flitType flit != 3 then s
    else
      let q := s.fab.ports.at p
      let again := fromNack (flitAck flit) q.replay
      let s1 := updFab s p fun q => takeCredits flit { q with
        retries := satAdd 32 q.retries again.length, ackAt := s.desk.now
        nackSeq := flitAck flit, nackCount := if q.nackCount ≠ 0 ∧ q.nackSeq = flitAck flit then q.nackCount + 1 else 1 }
      settle (pumpState (emit s1 (again.map fun x => .flit p x.2)) p))

/-- IDLE_FLIT (R284). -/
def execIdleFlit (p : Fin 16) (flit : Bytes) (fecGood : Bool) (s : State) : Host.Outcome State Fault Refusal :=
  .next (
    if !linkTakes s p then s
    else if !(flitGood flit && fecGood) then badFlit s p
    else if flitType flit != 0 then s
    else settle (pumpState (updFab s p (takeCredits flit)) p))

/-! ## Retrains and routes -/

/-- Whether this end asks for a retrain (R286 step 4): eight nacks of one flit, or 10 µs without an answer, or a retrain that failed. -/
def retrainDue (now : Nat) (q : FabPort) : Bool :=
  inRetrain q || (q.link == .up && !q.replay.isEmpty && (decide (8 ≤ q.nackCount) || decide (q.ackAt + 10000 ≤ now)))

/-- Whether a link can be retrained: by this end when it is due, by the far end at any time, of which this end sees the training alone
(R286 steps 4 and 5). -/
def mayRetrain (q : FabPort) : Bool := q.link == .up || inRetrain q

/-- A link is DOWN. -/
def downLink (q : FabPort) : FabPort := { q with link := .down, accepted := false, greeted := false, queue := [], replay := [] }

/-- One retrain of a link (R286 steps 4 and 5). -/
def retrain (s : State) (p : Fin 16) (trained : Bool) : State :=
  let q := s.fab.ports.at p
  let up (q : FabPort) : FabPort := { q with retrains := satAdd 32 q.retrains 1 }
  if trained then
    let s1 := updFab s p fun q => { up q with
      retries := satAdd 32 q.retries q.replay.length, link := .up, failedTrains := 0, nackCount := 0, nacked := false, ackAt := s.desk.now }
    pumpState (emit s1 (q.replay.map fun x => .flit p x.2)) p
  else if q.failedTrains + 1 < 3 then
    updFab s p fun q => { up q with link := .training, failedTrains := q.failedTrains + 1 }
  else reroute (updFab s p fun q => downLink { up q with failedTrains := 0 }) s.fab

/-- LINK_RETRAIN: either end may have begun it. -/
def execLinkRetrain (p : Fin 16) (trained : Bool) (s : State) : Host.Outcome State Fault Refusal :=
  .next (
    if s.elec.life == .running && slPresent (envOf s) s.desk p && mayRetrain (s.fab.ports.at p) then
      settle (retrain s p trained)
    else s)

/-- Every unacknowledged message that goes by a port is sent again by it. -/
def resendOn (s : State) (p : Fin 16) : State :=
  let self := s.elec.moduleId.toNat
  let mine := s.fab.kept.filter fun m => exitPort self s.fab m == some p
  pumpState { s with fab := mine.foldl (fun f m => queueOn p m f) s.fab } p

/-- Whether Table 12.3 joins two modules. -/
def cabledPair (x y : Nat) : Bool := (List.range 16).any fun p => (cabled x p).any fun c => c.1 == y

/-- The links between other modules after one of them has trained or gone DOWN. -/
def setFar (x y : Fin 64) (trained : Bool) (f : Fabric) : Fabric :=
  let l := (if x.val < y.val then (x, y) else (y, x))
  let rest := f.far.filter fun z => z != l
  { f with far := if trained then rest ++ [l] else rest }

/-- ROUTE_CHANGE: a link goes DOWN, or a link that has trained and whose hello was accepted takes its place in the routes
(R294). The link is one of the module's own, or one between two other modules, of which its routes of two hops depend (R293). -/
def execRouteChange (l : FabLink) (trained : Bool) (s : State) : Host.Outcome State Fault Refusal :=
  .next (match l with
    | .own p =>
      let q := s.fab.ports.at p
      if s.elec.life == .running && slPresent (envOf s) s.desk p && q.link == .up then
        if trained then (if q.accepted then settle (resendOn (reroute s s.fab) p) else s)
        else settle (reroute (updFab s p downLink) s.fab)
      else s
    | .far x y =>
      if s.elec.life == .running && gradeSl s.fuses.grade != 0 && cabledPair x.val y.val &&
          x.val != s.elec.moduleId.toNat && y.val != s.elec.moduleId.toNat then
        settle (reroute { s with fab := setFar x y trained s.fab } s.fab)
      else s)

/-- MESSAGE_ACK (R294): retained messages up to the number go. -/
def execMessageAck (m : Fin 64) (cls : Fin 5) (mseq : Word) (s : State) : Host.Outcome State Fault Refusal :=
  .next (
    if s.elec.life == .running then
      let f := { s.fab with kept := s.fab.kept.filter fun x =>
        !(x.dst.toNat == m.val && x.cls == cls.val && !seqBefore mseq.toNat x.mseq) }
      let r := retryUnsent s.elec.moduleId.toNat s.desk.now f
      settle (emit { s with fab := r.1 } r.2)
    else s)

end Sys2Proof.Machine
end

