-- ==== Sys2Proof/Machine/FabricMsg.lean ====
section
/-!
DEFINITION. Messages that have been delivered to the module (Table 12.7): records of jobs (R117, R120 to R122, R354), remote
memory (R298, R299), and the registers of the fabric pairs and the locks (R300).
-/
namespace Sys2Proof.Machine

/-! ## Records of jobs -/

/-- The oldest record of a kind is routed by its JOB_KEY (R120). -/
def takeRecordRow (cls rtype : Nat) (s : State) : State :=
  if deskAwake s then
    match popInbox s fun m => m.cls == cls && m.rtype == rtype with
    | some (_, m, t) => settle { t with desk := routeRecord (envOf t) t.desk m }
    | none => s
  else s

/-- FLIP_NOTICE_RECEIVE. -/
def execFlipNoticeReceive (s : State) : Host.Outcome State Fault Refusal := .next (takeRecordRow 0 0 s)

/-- BOUNDARY_SPIN_RECEIVE. -/
def execBoundarySpinReceive (s : State) : Host.Outcome State Fault Refusal := .next (takeRecordRow 1 0 s)

/-- SWEEP_END_RECORD. -/
def execSweepEndRecord (s : State) : Host.Outcome State Fault Refusal := .next (takeRecordRow 0 1 s)

/-- EXCHANGE_RECORD. -/
def execExchangeRecord (s : State) : Host.Outcome State Fault Refusal := .next (takeRecordRow 0 2 s)

/-- STOP_RECORD. -/
def execStopRecord (s : State) : Host.Outcome State Fault Refusal := .next (takeRecordRow 0 3 s)

/-- REPLAY_RECORD. -/
def execReplayRecord (s : State) : Host.Outcome State Fault Refusal := .next (takeRecordRow 0 4 s)

/-! ## Remote memory: the target (R298) -/

/-- Whether a message is a remote access of a type. -/
def isRemote (rtype : Nat) (m : Msg) : Bool := (m.cls == 2 || m.cls == 3) && m.rtype == rtype

/-- Whether a peer's range is memory of this module that serves (R298, R361). -/
def servesPeer (s : State) (addr n : Nat) : Bool :=
  decide (1 ≤ n) && decide (n ≤ 4096) && addrModule addr == s.elec.moduleId.toNat &&
  memVerdict s.fuses.grade s.desk (addrDevice addr) n == .ok

/-- The answer to a peer's access. -/
def answer (s : State) (m : Msg) (rtype : Nat) (err : Bool) (body : Bytes) : State :=
  let r : Msg := ⟨m.cls, rtype, s.elec.moduleId, m.src, err, m.key, body, 0⟩
  { s with desk := { s.desk with tx := s.desk.tx ++ [r] } }

/-- A peer's read (R298). -/
def serveRead (s : State) (m : Msg) : State :=
  let addr := field m.body 0 8
  let n := field m.body 8 4
  let a := addrDevice addr
  if !servesPeer s addr n then answer s m 1 true []
  else match badSector s.desk.mem a n with
    | some x => answer { s with desk := noteUe s.desk (32 * x) none 0 } m 1 true []
    | none => answer s m 1 false (cellReads s.desk.mem.cells a n)

/-- The wake of a peer's access to a range that the module serves (R330). -/
def wakePeer (addr n : Nat) (s : State) : State := if servesPeer s addr n then wakeMemory (addrDevice addr) n s else s

/-- READ_REQUEST. -/
def execReadRequest (s : State) : Host.Outcome State Fault Refusal :=
  .next (
    if s.elec.life == .running then
      match popInbox s (isRemote 0) with
      | some (_, m, t) => settle (serveRead (wakePeer (field m.body 0 8) (field m.body 8 4) t) m)
      | none => s
    else s)

/-- A peer's write (R298, R306). -/
def serveWrite (s : State) (m : Msg) : State :=
  let addr := field m.body 0 8
  let bs := m.body.drop 8
  let a := addrDevice addr
  if !servesPeer s addr bs.length then answer s m 3 true []
  else
    let d := { s.desk with mem := memStore s.desk.mem a bs }
    match narrowHits s.desk.mem a bs.length with
    | [] => answer { s with desk := d } m 3 false []
    | x :: _ => answer { s with desk := noteUe d (32 * x) none 0 } m 3 true []

/-- REMOTE_WRITE. -/
def execRemoteWrite (s : State) : Host.Outcome State Fault Refusal :=
  .next (
    if s.elec.life == .running then
      match popInbox s (isRemote 2) with
      | some (_, m, t) => settle (serveWrite (wakePeer (field m.body 0 8) (m.body.drop 8).length t) m)
      | none => s
    else s)

/-! ## Remote memory: the requester (R298, R299) -/

/-- An access that failed at its target is an uncorrectable read of the command's own (R298, R306). -/
def remoteLost (now : Nat) (c : Cmd) : Cmd :=
  if c.stage == .ended then (if terminal c.stop then c else { c with status := stDataLost })
  else { askStop now .dataLost c with fault := true }

/-- The answer to an outstanding access of a command. -/
def cmdAnswer (now : Nat) (m : Msg) (r : Remote) (c : Cmd) : Cmd :=
  let c1 := { c with remote := c.remote.erase r }
  if m.err then remoteLost now c1
  else if r.write then c1
  else { c1 with cache := cellWrites c1.cache r.addr m.body }

/-- The outstanding access that a message answers, among those of a list. -/
def asked (write : Bool) (m : Msg) (l : List Remote) : Option Remote :=
  l.find? fun r => r.write == write && r.tag == m.key.toNat && r.dst == m.src

/-- The answer at one queue: for its command, or for the reads of its head's dispatch. -/
def queueAnswer (now : Nat) (write : Bool) (m : Msg) (q : Sq) : Sq :=
  let q1 := match q.cur with
    | some c => match asked write m c.remote with
      | some r => { q with cur := some (cmdAnswer now m r c) }
      | none => q
    | none => q
  match asked write m q1.fetch with
  | some r =>
    if m.err then { q1 with fetch := q1.fetch.erase r, fetchErr := true }
    else { q1 with fetch := q1.fetch.erase r, fetched := cellWrites q1.fetched r.addr m.body }
  | none => q1

/-- The answer to an access of this module; a read completion may also be that of a peer's lock (R253). -/
def takeAnswer (write : Bool) (s : State) : State :=
  if deskAwake s then
    match popInbox s (fun m => isRemote (if write then 3 else 1) m || (!write && m.cls == 4 && m.rtype == 3)) with
    | some (_, m, t) =>
      if m.cls = 4 then settle { t with locks := lockAnswered t.locks m.src (BitVec.ofNat 32 (field m.body 0 4)) }
      else
      let sqs := t.desk.sqs.map (queueAnswer t.desk.now write m)
      settle { t with desk := { t.desk with sqs := sqs } }
    | none => s
  else s

/-- READ_COMPLETION. -/
def execReadCompletion (s : State) : Host.Outcome State Fault Refusal := .next (takeAnswer false s)

/-- WRITE_ACKNOWLEDGEMENT. -/
def execWriteAcknowledgement (s : State) : Host.Outcome State Fault Refusal := .next (takeAnswer true s)

/-! ## Registers of a pair (Tables 10.2 to 10.4) -/

/-- The sender's copy of a mailbox's status (Table 10.3). -/
def sendStatus (b : Box) : Word :=
  BitVec.ofNat 32 (b2n b.full + 2 * b2n b.collSend + 4 * b2n b.timeout + 8 * b2n b.ackValid + 256 * b.seq.toNat)

/-- The receiver's copy. -/
def recvStatus (b : Box) : Word :=
  BitVec.ofNat 32 (b2n b.full + 2 * b2n b.collRecv + 16 * b2n b.staleAck + 256 * b.seq.toNat)

/-- A write into the mailbox part of a pair, by the party that sends `snd` and receives `rcv`. -/
def pairWrite (s : State) (snd rcv : BoxId) (off : Nat) (v : Word) : State :=
  if off < 0x40 ∧ off % 4 = 0 then writeMail s snd (fin 17 (off / 4)) v
  else if off = 0x40 then writeMail s snd 16 v
  else if off = 0x44 then (if v.getLsbD 0 then goMail s snd else s)
  else if off = 0x48 then { s with mbx := updBox s.mbx snd (clearSend v) }
  else if off = 0x50 then { s with mbx := updBox s.mbx snd fun b => { b with limit := v.extractLsb' 0 20 } }
  else if off = 0x148 then { s with mbx := updBox s.mbx rcv (clearRecv v) }
  else if off = 0x14C then ackMail s rcv v
  else s

/-- A read of the mailbox part of a pair. -/
def pairRead (s : State) (snd rcv : BoxId) (off : Nat) : Word :=
  let a := boxAt s.mbx snd
  let b := boxAt s.mbx rcv
  if off < 0x40 ∧ off % 4 = 0 then a.msg.at (fin 16 (off / 4))
  else if off = 0x40 then a.len.zeroExtend 32
  else if off = 0x48 then sendStatus a
  else if off = 0x4C then a.ack
  else if off = 0x50 then a.limit.zeroExtend 32
  else if 0x100 ≤ off ∧ off < 0x140 ∧ off % 4 = 0 then b.msg.at (fin 16 (off / 4))
  else if off = 0x140 then b.len.zeroExtend 32
  else if off = 0x148 then recvStatus b
  else 0

/-- The lock that an offset of the LCK region names, of its read or its release register (Table 10.8). -/
def lockOffset (off base : Nat) : Option (Fin 64) :=
  if base ≤ off ∧ off < base + 512 ∧ (off - base) % 8 = 0 then some (fin 64 ((off - base) / 8)) else none

/-- A direct peer's register write (R300). -/
def peerRegWrite (s : State) (p : Fin 16) (off : Nat) (v : Word) : State :=
  match lockOffset off 0x38004 with
  | some n => { s with locks := lockReleased s.locks (fin 32 (16 + p.val)) n v }
  | none =>
    if off = 0x200 then setDoorbell s (.fdPeer p) v
    else pairWrite s (.peerToFd p) (.fdToPeer p) off v

/-- FABRIC_REGISTER_WRITE: of the direct peer on the port it arrived by, which `arrive` has made sure of; it is served though the link has
since gone DOWN (R300). -/
def execFabricRegisterWrite (s : State) : Host.Outcome State Fault Refusal :=
  .next (
    if s.elec.life == .running then
      match popInbox s fun m => m.cls == 4 && m.rtype == 1 with
      | some (p, m, t) =>
        settle (peerRegWrite t p (field m.body 0 4) (BitVec.ofNat 32 (field m.body 4 4)))
      | none => s
    else s)

/-- Which locks are held (Table 10.8). -/
def locksHeld (l : Locks) : Nat := (List.range 64).foldl (fun a n => if (l.owner.at (fin 64 n)).isSome then a + 2 ^ n else a) 0

/-- The registers of the LCK block whose reading has no effect. -/
def lockStatus (l : Locks) (off : Nat) : Word :=
  if off = 0x38200 then BitVec.ofNat 32 (locksHeld l)
  else if off = 0x38204 then BitVec.ofNat 32 (locksHeld l / 2 ^ 32)
  else if off = 0x38208 then BitVec.ofNat 32 l.badRelease
  else 0

/-- A direct peer's register read: what it gets, and the state after it (R300, R254). -/
def peerRegRead (s : State) (p : Fin 16) (off : Nat) : Word × State :=
  match lockOffset off 0x38000 with
  | some n => (BitVec.ofNat 32 (lockValue s.locks n), { s with locks := lockTaken s.locks (fin 32 (16 + p.val)) n })
  | none => if 0x38000 ≤ off then (lockStatus s.locks off, s) else (pairRead s (.peerToFd p) (.fdToPeer p) off, s)

/-- FABRIC_REGISTER_READ. -/
def execFabricRegisterRead (s : State) : Host.Outcome State Fault Refusal :=
  .next (
    if s.elec.life == .running then
      match popInbox s fun m => m.cls == 4 && m.rtype == 2 with
      | some (p, m, t) =>
        let r := peerRegRead t p (field m.body 0 4)
        settle (answer r.2 m 3 false (leBytes 4 r.1.toNat))
      | none => s
    else s)

end Sys2Proof.Machine
end

