-- ==== Sys2Proof/Machine/Porter.lean ====
section
/-!
DEFINITION. The porter pair (R343, Table 14.8): what Front Desk and Night Porter do with each message, and what follows
of it: descents (R329, R332), clock steps (R335) and thermal trips (R338, R339).
-/
namespace Sys2Proof.Machine

/-! ## Channels (R324, Table 14.1) -/

/-- Whether Night Porter samples a channel on a grade. -/
def channelSampled (g : Grade) (n : Nat) : Bool :=
  let die (k : Nat) : Bool := decide (k < gradeDies g)
  if n < 48 then die (n / 12)
  else if n < 52 then true
  else if n < 64 then die ((n - 52) / 3)
  else if n < 88 then die ((n - 64) / 6)
  else if n = 94 then gradeLp g
  else if n < 103 then true
  else if n = 103 then gradeSl g != 0
  else if n < 112 then false
  else die ((n - 112) / 4)

/-- Whether the filter register of a channel is there: that of a unit absent on the grade reads 0 and takes no write (R395); channels 104 to
111, which no grade samples, have theirs (Table 14.9). -/
def filterThere (g : Grade) (n : Nat) : Bool := channelSampled g n || (decide (104 ≤ n) && decide (n < 112))

/-- MSG1 to MSG5 of a SENSOR_REPLY (R249): channel, filtered value, RTC count, status. -/
def sensorWords (s : State) (n : Fin 128) : List Word :=
  let on := channelSampled s.fuses.grade n.val
  [BitVec.ofNat 32 n.val, if on then BitVec.ofInt 32 (s.np.val.at n) else 0, BitVec.ofNat 32 (rtcOf s.desk),
   BitVec.ofNat 32 (rtcOf s.desk / 2 ^ 32), if on then 0 else 1]

/-! ## Messages -/

/-- The message of a type that waits in the mailbox from Night Porter, when Front Desk runs. -/
def porterMail (s : State) (type : Nat) : Option Box :=
  let b := s.mbx.npToFd
  if deskAwake s && b.full && mailType b == type then some b else none

/-- Front Desk takes the message in the mailbox from Night Porter. -/
def takePorter (s : State) (code : Nat) : State := takeMail s .npToFd code

/-- Night Porter queues a message for Front Desk. -/
def porterSays (s : State) (type : Nat) (words : List Nat) : State :=
  postMail s .npToFd ⟨type, 0, words.map (BitVec.ofNat 32)⟩

/-- SENSOR_REQ: Night Porter takes it and answers with SENSOR_VAL. -/
def execSensorReq (s : State) : Host.Outcome State Fault Refusal :=
  .next (
    let b := s.mbx.fdToNp
    if s.elec.life == .running && b.full && mailType b == 1 then
      let w := sensorWords s (fin 128 (mailWord b 1))
      settle (postMail (takeMail s .fdToNp 0) .npToFd ⟨0x81, mailTag b, w⟩)
    else s)

/-- A value from Night Porter goes to the host that asked for it. -/
def passValue (s : State) (b : Box) : State :=
  match s.mbx.asks.find? fun a => a.1 == mailTag b with
  | none => s
  | some a =>
    let s1 := { s with mbx := { s.mbx with asks := s.mbx.asks.filter fun x => x.1 != mailTag b } }
    postMail s1 (.f2h a.2.1) ⟨0x81, a.2.2, (List.range 5).map fun i => b.msg.at (fin 16 (i + 1))⟩

/-- SENSOR_VAL: Front Desk takes it and queues the SENSOR_REPLY (R249). -/
def execSensorVal (s : State) : Host.Outcome State Fault Refusal :=
  .next (match porterMail s 0x81 with
    | none => s
    | some b => settle (passValue (takePorter s 0) b))

/-- PLAN: recorded (R341). -/
def execPlan (s : State) : Host.Outcome State Fault Refusal :=
  .next (match porterMail s 4 with
    | none => s
    | some _ => settle (takePorter s 0))

/-- NOTICE_REQ: the NOTICE goes to every bound partner. -/
def execNoticeReq (s : State) : Host.Outcome State Fault Refusal :=
  .next (match porterMail s 6 with
    | none => s
    | some b => settle (noticeAll (takePorter s 0) (mailWord b 1) (mailWord b 2) none))

/-- WOKE: Front Desk learns the wake cause and the state left. -/
def execWoke (s : State) : Host.Outcome State Fault Refusal :=
  .next (match porterMail s 7 with
    | none => s
    | some _ => settle (takePorter s 0))

/-! ## Descents -/

/-- The state of a code of Table 14.2. -/
def stateOf (k : Nat) : PState :=
  match k with
  | 0 => .active | 1 => .idle | 2 => .nap | 3 => .doze | _ => .night

/-- Whether no queue holds an uncompleted command (R329). -/
def queuesEmpty (d : Desk) : Bool := ((List.range 64).map (fin 64)).all fun n =>
  uncompleted (d.sqs.at n) == 0 && (d.sqs.at n).cur.isNone && (d.sqs.at n).launch.isNone

/-- Whether the conditions of a descent to a state hold, timers apart (R329). -/
def descentHolds (s : State) (target : Nat) : Bool :=
  match s.np.state, target with
  | .idle, 2 => quietNow s
  | .nap, 3 => true
  | .doze, 4 => s.np.dozeNight != 0 && queuesEmpty s.desk
  | _, _ => false

/-- What a committed slot keeps across NIGHT: its saved state; rows are rebuilt from image and spins, and what the
staging buffers held beside the best states is gone (R314, R318). -/
def nightSlot (s : Slot) : Slot :=
  match s.state, s.image with
  | .committed, some g => { rebuildFields g s with nightSaved := true, fetched := [], buffers := [], entryPoint := none }
  | _, _ => s

/-- The step of a descent that Night Porter makes once Front Desk allows it. -/
def descendTo (s : State) (target : Nat) : State :=
  let s1 := { s with np := { s.np with state := stateOf target, timer := s.desk.now, asked := none } }
  if target = 4 then { s1 with desk := { s1.desk with slots := s1.desk.slots.map nightSlot } } else s1

/-- DESCEND: answered in every state, since Night Porter's own request wakes nothing (log entry 29). OK when the
conditions still hold, and the descent follows if no wake event has ended it; else BUSY, which restarts the timer. -/
def execDescend (s : State) : Host.Outcome State Fault Refusal :=
  .next (
    let b := s.mbx.npToFd
    if s.elec.life == .running && b.full && mailType b == 2 then
      let target := mailWord b 1
      let t := takePorter s 0
      if s.np.asked == some (.descend target) then
        if descentHolds t target then settle (descendTo t target)
        else settle { takePorter s 3 with np := { s.np with asked := none, timer := s.desk.now } }
      else settle (takePorter s 3)
    else s)

/-! ## Clock steps (R335) -/

/-- Whether a timed region runs. -/
def timedLive (d : Desk) : Bool := d.sqs.toList.any fun q => q.cur.any inTimed

/-- Every command inside its timed region is told to stop, to complete TIMING_BROKEN (R186). -/
def breakTiming (d : Desk) : Desk :=
  { d with sqs := d.sqs.map fun q => { q with cur := q.cur.map fun c => if inTimed c then askStop d.now .timing c else c } }

/-- A step down of the clock or the gating for its reasons: the first sets THROTTLE_ON (R336). -/
def stepDown (s : State) (f gate : Nat) (cap heat : Bool) : State :=
  let p := s.np
  let s1 := { s with np := { p with
    f := f, gate := gate, capThrottle := p.capThrottle || cap, thermalThrottle := p.thermalThrottle || heat } }
  if p.capThrottle || p.thermalThrottle then s1 else porterSays s1 6 [2, 0xFFFFFFFF]

/-- Night Porter makes a clock step that it asked for. -/
def makeStep (s : State) : State :=
  match s.np.asked with
  | some (.clockStop f gate _ cap heat) => stepDown { s with np := { s.np with asked := none } } f gate cap heat
  | _ => s

/-- CLOCK_STOP: the commands in a timed region are stopped; the answer OK comes when none is left, and the step
follows. -/
def execClockStop (s : State) : Host.Outcome State Fault Refusal :=
  .next (match porterMail s 3 with
    | none => s
    | some _ =>
      if timedLive s.desk then settle { s with desk := breakTiming s.desk }
      else settle (makeStep (takePorter s 0)))

/-- CLOCK_STOP_TIMEOUT: no answer within 2 ms. -/
def execClockStopTimeout (s : State) : Host.Outcome State Fault Refusal :=
  .next (match s.np.asked with
    | some (.clockStop _ _ t _ _) =>
      if s.elec.life == .running && decide (t + 2000000 ≤ s.desk.now) then
        settle (makeStep { s with desk := breakTiming s.desk })
      else s
    | _ => s)

/-! ## Trips (R338, R339) -/

/-- Whether a command runs on tiles. -/
def onTiles (c : Cmd) : Bool := match pktOp c.pkt with
  | some o => opTile o
  | none => false

/-- A tile command is held: a run at its last waypoint on chip, every other command at its last whole unit. -/
def holdCmd (d : Desk) (n : Fin 64) : Desk :=
  match (d.sqs.at n).cur with
  | none => d
  | some c =>
    if onTiles c && (c.stage == .dispatched || c.stage == .working) then
      let d1 := setCur d n (some { c with stage := .held, resumedAt := d.now })
      match pktOp c.pkt, (d.slots.at (cmdSlot c)).image with
      | some o, some g =>
        if opRun o && c.began && g.m == 1 then
          match recoveryPoint (d.slots.at (cmdSlot c)) with
          | some a => updSlot d1 (cmdSlot c) fun s => restoreAnn g c s a
          | none => d1
        else d1
      | _, _ => d1
    else d

/-- Front Desk holds the tile commands (R338 step 3). -/
def holdAll (d : Desk) : Desk := ((List.range 64).map (fin 64)).foldl holdCmd { d with tripHold := true }

/-- A held command goes on: a fixed-timing command to end TIMING_BROKEN, a run of one module from its waypoint with its
EVENT record, a rank of a job by the replay of R354. -/
def unholdCmd (d : Desk) (n : Fin 64) : Desk :=
  match (d.sqs.at n).cur with
  | none => d
  | some c =>
    if c.stage = .held then
      let c1 := { c with
        stage := if c.began then .working else .dispatched, resumedAt := d.now
        progressAt := c.progressAt + (d.now - c.resumedAt) }
      match pktOp c.pkt, (d.slots.at (cmdSlot c)).image with
      | some o, some g =>
        if c.fixed && c.began then setCur d n (some (askStop d.now .timing c1))
        else if opRun o && c.began then
          if g.m = 1 then
            setCur (eventRecord d (cmdSlot c).val n.val (pktQtag c.pkt) (pktPseq c.pkt) 3 0xFFFFFFFF
              (annStep (d.slots.at (cmdSlot c)).ann) 0) n (some c1)
          else setCur d n (some (match c1.stop with | none => { c1 with stop := some .replay, stopAt := d.now } | some _ => c1))
        else setCur d n (some c1)
      | _, _ => setCur d n (some (if c.fixed && c.began then askStop d.now .timing c1 else c1))
    else d

/-- Front Desk resumes the held commands (R338 step 5). -/
def unholdAll (d : Desk) : Desk := ((List.range 64).map (fin 64)).foldl unholdCmd { d with tripHold := false }

/-- A held command of a module that has latched off ends GEOMETRY_UNAVAILABLE at once (R339). -/
def dropHeld (d : Desk) (n : Fin 64) : Desk :=
  match (d.sqs.at n).cur with
  | none => d
  | some c =>
    if c.stage = .held ∨ (c.stage = .sliced ∧ onTiles c) then
      setCur d n (some { askStop d.now .lastSpare c with stage := if c.began then .working else .dispatched, fault := true })
    else d

/-- The trip is latched: no tile is serviceable until reset (R339). -/
def latchTrip (d : Desk) : Desk :=
  ((List.range 64).map (fin 64)).foldl dropHeld { d with tripHold := false, tripLatched := true }

/-- TRIP: 0 tripped, 1 restored, 2 latched. -/
def execTrip (s : State) : Host.Outcome State Fault Refusal :=
  .next (match porterMail s 5 with
    | none => s
    | some b =>
      let t := takePorter s 0
      match mailWord b 1 with
      | 0 => settle { t with desk := holdAll t.desk }
      | 1 => settle { t with desk := unholdAll t.desk }
      | 2 => settle (noticeAll { t with desk := latchTrip t.desk } 1 0xFFFFFFFF none)
      | _ => settle t)

end Sys2Proof.Machine
end

