-- ==== Sys2Proof/Machine/Keccak.lean ====
section
/-!
DEFINITION. SHAKE256 with 256-bit output: the hash of R362, R367 and R386. The manual names it and does not print
it; it is taken from FIPS 202 (PRESUMED, log entry 9).
-/
namespace Sys2Proof.Machine

/-- The state of the permutation: 25 lanes, lane x + 5y. -/
abbrev Lanes := List (BitVec 64)

/-- Lane (x mod 5, y mod 5). -/
def laneAt (a : Lanes) (x y : Nat) : BitVec 64 := a.getD (x % 5 + 5 * (y % 5)) 0

/-- The rotation of lane x + 5y. -/
def keccakRot : List Nat :=
  [0, 1, 62, 28, 27, 36, 44, 6, 55, 20, 3, 10, 43, 25, 39, 41, 45, 15, 21, 8, 18, 2, 61, 56, 14]

/-- The step of the round-constant register. -/
def rcStep (r : Nat) : Nat := if r < 128 then 2 * r else (2 * r - 256) ^^^ 0x71

/-- The round constant: bit 2^j − 1 is the j-th output of the register after 7·round steps. -/
def roundConst (round : Nat) : BitVec 64 :=
  ((List.range 7).foldl (fun (a : BitVec 64 × Nat) j =>
    (if a.2 % 2 = 1 then a.1 ||| (1#64 <<< (2 ^ j - 1)) else a.1, rcStep a.2)) (0, Nat.repeat rcStep (7 * round) 1)).1

/-- One round: theta, rho, pi, chi, iota. -/
def keccakRound (a : Lanes) (round : Nat) : Lanes :=
  let c := (List.range 5).map fun x => laneAt a x 0 ^^^ laneAt a x 1 ^^^ laneAt a x 2 ^^^ laneAt a x 3 ^^^ laneAt a x 4
  let d := (List.range 5).map fun x => c.getD ((x + 4) % 5) 0 ^^^ (c.getD ((x + 1) % 5) 0).rotateLeft 1
  let t := (List.range 25).map fun i => (a.getD i 0 ^^^ d.getD (i % 5) 0).rotateLeft (keccakRot.getD i 0)
  -- lane (x, y) of the permuted state is lane (x + 3y, x) of the rotated one
  let b := (List.range 25).map fun i => laneAt t (i % 5 + 3 * (i / 5)) (i % 5)
  let e := (List.range 25).map fun i =>
    b.getD i 0 ^^^ (~~~ (laneAt b (i + 1 - 5 * (i / 5)) (i / 5)) &&& laneAt b (i + 2 - 5 * (i / 5)) (i / 5))
  (e.getD 0 0 ^^^ roundConst round) :: e.drop 1

/-- The 24 rounds. -/
def keccakF (a : Lanes) : Lanes := (List.range 24).foldl keccakRound a

/-- One block of 136 bytes taken in. -/
def absorb (a : Lanes) (block : Bytes) : Lanes :=
  keccakF ((List.range 25).map fun i =>
    a.getD i 0 ^^^ (if i < 17 then BitVec.ofNat 64 (field block (8 * i) 8) else 0))

/-- The padded message of SHAKE256: 0x1F, zeros, and the last bit of the last block. -/
def shakePad (m : Bytes) : Bytes :=
  let z := 135 - m.length % 136
  if z = 0 then m ++ [0x9F#8] else m ++ [0x1F#8] ++ List.replicate (z - 1) 0 ++ [0x80#8]

/-- Blocks of 136 bytes taken in, `n` of them. -/
def absorbAll : Nat → Bytes → Lanes → Lanes
  | 0, _, a => a
  | n + 1, m, a => absorbAll n (m.drop 136) (absorb a (m.take 136))

/-- The 32 bytes of SHAKE256 over a message. -/
def shake256 (m : Bytes) : Bytes :=
  let p := shakePad m
  let a := absorbAll (p.length / 136) p (List.replicate 25 0)
  (List.range 4).flatMap fun i => leBytes 8 (a.getD i 0).toNat

end Sys2Proof.Machine
end

