-- ==== Sys2Proof/Machine/Trng.lean ====
section
/-!
DEFINITION. The random source (Chapter 17): sampling, health tests, the conditioner, the pool and its readers, and
SEED_DRAW.
-/
namespace Sys2Proof.Machine

/-! ## Health tests (R387) -/

/-- Repetition-count and adaptive-proportion cutoffs (Table 17.2). -/
def repCutoff : Nat := 41
def propCutoff : Nat := 800
/-- Samples in an adaptive-proportion window, and in a statistics window (R389). -/
def propWindow : Nat := 1024
def statWindow : Nat := 65536

/-- One sample of one source: the run of equal samples, the window's count, the statistics. -/
def sampleSource (pos statPos : Nat) (v : Bool) (s : Source) : Source :=
  { s with
    last := v, run := if 0 < s.run ∧ s.last = v then s.run + 1 else 1
    apFirst := if pos = 0 then v else s.apFirst
    apCount := if pos = 0 then 1 else if v = s.apFirst then s.apCount + 1 else s.apCount
    ones := if statPos = 0 then b2n v else s.ones + b2n v
    pairs := if statPos = 0 then 0 else s.pairs + b2n (v && s.last) }

/-- Whether a source fails, and at which test. -/
def sourceFails (s : Source) : Option Nat :=
  if repCutoff ≤ s.run then some 0 else if propCutoff ≤ s.apCount then some 1 else none

/-- The lowest source that fails, with its test. -/
def healthFailure (t : Trng) : Option (Nat × Nat) :=
  firstSome (fun i => (sourceFails (t.src.at (fin 11 i))).map fun k => (i, k)) (List.range 11)

/-- The tests begin again with the next sample. -/
def freshTests (t : Trng) : Trng := { t with pos := 0, raw := [], src := t.src.map fun s => { s with run := 0, apCount := 0 } }

/-- TRNG_DATA_HI as latched at a read (Table 17.4). -/
def trngStatus (t : Trng) (valid fail : Bool) : Word :=
  BitVec.ofNat 32 (b2n valid + 2 * b2n (t.state == .startup || t.state == .requal) + 4 * b2n fail)

/-- A health failure at the random source (R393 steps 1, 2, 4 and 5): pool and held blocks go, stalled reads are
released. -/
def failTrng (t : Trng) (src test : Nat) : Trng :=
  let words := t.waiting.filterMap fun r => match r with | .word w _ => some w | _ => none
  let f := freshTests t
  let t1 := { f with
    fails := satAdd 32 t.fails 1, lastFail := BitVec.ofNat 32 (src + 16 * test + 32), pool := [], blocks := []
    waiting := t.waiting.filter fun r => match r with | .word _ _ => false | _ => true }
  let t2 :=
    if t.state = .requal then
      if t.attempt < 3 then { t1 with attempt := t.attempt + 1 } else { t1 with state := .off }
    else { t1 with state := .requal, attempt := 1 }
  { t2 with latch := words.foldl (fun l w => l.put w 4#32) t2.latch }

/-! ## Windows (R388, R390) -/

/-- A conditioned block of eight words (R386). -/
def conditioned (raw : List Bool) : List Word :=
  let bytes := (List.range 64).map fun i => BitVec.ofNat 8 (((List.range 8).foldl (fun a j => a + b2n (raw.getD (8 * i + j) false) * 2 ^ j) 0))
  let out := shake256 bytes
  (List.range 8).map fun j => BitVec.ofNat 32 (field out (4 * j) 4)

/-- Blocks enter the pool while it has room for them (R391). -/
def enterPool (pool : List Word) (blocks : List (List Word)) : List Word :=
  blocks.foldl (fun p b => if p.length + b.length ≤ 512 then p ++ b else p) pool

/-- The adaptive-proportion windows close without a failure (R388, R390, R393 step 4). -/
def closeWindow (t : Trng) : Trng :=
  let t1 := { t with pos := 0, raw := [] }
  match t.state with
  | .ready => { t1 with pool := enterPool t.pool t.blocks, blocks := [] }
  | .startup | .requal => { t1 with state := .ready, attempt := 0, blocks := [] }
  | .off => t

/-- The statistics of R389 are published. -/
def closeStats (t : Trng) : Trng :=
  { t with statPos := 0, src := t.src.map fun s => { s with onesOut := s.ones, pairsOut := s.pairs } }

/-- Raw bits and conditioned blocks after one more sample (R386). -/
def condition (t : Trng) (bit : Bool) : Trng :=
  let raw := t.raw ++ [bit]
  if raw.length < 512 then { t with raw := raw } else { t with raw := [], blocks := t.blocks ++ [conditioned raw] }

/-- One sample period (R385 to R390): windows that are full close first. -/
def sampleTrng (v : BitVec 11) (t0 : Trng) : Trng :=
  let t1 := if t0.pos = propWindow then closeWindow t0 else t0
  let t := if t1.statPos = statWindow then closeStats t1 else t1
  if t.state = .off then t
  else
    let src := Tab.gen 11 fun i => sampleSource t.pos t.statPos (v.getLsbD i) (t.src.at (fin 11 i))
    let t2 := { t with src := src, pos := t.pos + 1, statPos := t.statPos + 1 }
    match healthFailure t2 with
    | some (s, k) => failTrng t2 s k
    | none =>
      if t.state = .ready then
        condition t2 ((List.range 11).foldl (fun a i => a != v.getLsbD i) false)
      else t2

/-! ## SEED_DRAW -/

/-- The words of a seed as 16 bytes, s0 first (R100). -/
def seedBytes (ws : List Word) : Bytes := (ws.take 4).flatMap fun w => leBytes 4 w.toNat

/-- A SEED_DRAW has its words: to its window or its destination, and into its entry (R100, R227). -/
def seedDone (e : Env) (d : Desk) (n : Fin 64) (c : Cmd) (ws : List Word) : Desk :=
  let p := c.pkt
  let bs := seedBytes ws
  if bit (field p 16 1) 0 then
    let d1 := { d with itins := d.itins.upd (fin 256 (field p 18 1)) fun i =>
      { i with window := spliceBytes i.window (field p 19 1) bs } }
    endWork d1 n c stOk bs 0
  else
    let w := cmdWrite e d n c 3 (field p 24 8) bs
    if w.2.stop.isSome then setCur w.1 n (some { w.2 with stopAt := d.now, result := slice bs 0 28 }) else endWork w.1 n w.2 stOk bs 0

/-- SEED_DRAW: it takes its words at once, waits for them, or finds the source unavailable (R391, R393). -/
def seedDraw (s : State) (n : Fin 64) : State :=
  match workOf s.desk n .seedDraw with
  | none => s
  | some c0 =>
    let c := beginWork s.desk c0
    let e := envOf s
    if s.trng.state == .requal || s.trng.state == .off then { s with desk := endWork s.desk n c stRng [] 0 }
    else if s.trng.waiting.any fun r => r == .seed n then s
    else if s.trng.waiting.isEmpty && decide (4 ≤ s.trng.pool.length) then
      { s with desk := seedDone e s.desk n c (s.trng.pool.take 4), trng := { s.trng with pool := s.trng.pool.drop 4 } }
    else
      { s with desk := setCur s.desk n (some c), trng := { s.trng with waiting := s.trng.waiting ++ [.seed n] } }

/-- SEED_DRAW. -/
def execSeedDraw (sq : Fin 64) (s : State) : Host.Outcome State Fault Refusal := .next (settle (seedDraw s sq))

end Sys2Proof.Machine
end

