-- ==== Sys2Proof/Machine/TrngEvents.lean ====
section
/-!
DEFINITION. The events of the random source (R385 to R393): samples, windows, reads of TRNG_DATA_LO, and the delivery of
words to the readers that wait.
-/
namespace Sys2Proof.Machine

/-- Whether the random source runs: from hub-die power-good until the next reset (R385). -/
def trngOn (s : State) : Bool := s.elec.life != .off && s.elec.life != .held

/-- Whether a requester can read TRNG_DATA now. -/
def trngReach (s : State) (who : Requester) : Bool := decide (who.val < 6) && lockReach s who

/-- The bound of a stalled read in ns (R392). -/
def stallBound (who : Requester) : Nat := if who.val < 2 then 50000 else 15000

/-- A read of TRNG_DATA_LO (R391, R392). -/
def trngRead (s : State) (who : Requester) : State :=
  let t := s.trng
  if t.state = .off then { s with trng := { t with latch := t.latch.put who 4#32 }, reply := .reg 0 }
  else match t.waiting, t.pool with
  | [], w :: rest =>
    { s with trng := { t with pool := rest, latch := t.latch.put who (trngStatus t true false) }, reply := .reg w }
  | _, _ => { s with trng := { t with waiting := t.waiting ++ [.word who s.desk.now] }, reply := .stall }

/-- TRNG_DATA_READ. -/
def execTrngDataRead (who : Requester) (s : State) : Host.Outcome State Fault Refusal :=
  .next (if trngReach s who then trngRead s who else s)

/-- The stalled read of a requester that has reached its bound. -/
def lateRead (t : Trng) (now : Nat) (who : Requester) : Option Reader :=
  t.waiting.find? fun r => match r with
    | .word w since => w == who && decide (since + stallBound who ≤ now)
    | _ => false

/-- TRNG_READ_TIMEOUT: data 0 with VALID = 0 (R392). -/
def execTrngReadTimeout (who : Requester) (s : State) : Host.Outcome State Fault Refusal :=
  .next (match if trngOn s then lateRead s.trng s.desk.now who else none with
    | none => s
    | some r =>
      let t := s.trng
      { s with
        trng := { t with waiting := t.waiting.erase r, latch := t.latch.put who (trngStatus t false false) }
        reply := .reg 0 })

/-- Whether a queue's SEED_DRAW still waits for its words. -/
def seedWaits (d : Desk) (n : Fin 64) : Bool := (workOf d n .seedDraw).isSome

/-- Words that a reader takes as one step (R391). -/
def readerWords (r : Reader) : Nat :=
  match r with
  | .word _ _ => 1
  | .seed _ => 4
  | .keys => 24

/-- A SEED_DRAW whose command has been stopped waits no longer. -/
def staleReader (d : Desk) (r : Reader) : Bool :=
  match r with
  | .seed n => !seedWaits d n
  | _ => false

/-- The first reader is served its consecutive words, once the pool holds them (R391); key generation takes its own by
`keysDrawn`. -/
def deliver (s : State) : State :=
  let t := s.trng
  match t.waiting.filter fun r => !staleReader s.desk r with
  | [] => { s with trng := { t with waiting := [] } }
  | r :: rest =>
    let k := readerWords r
    if t.pool.length < k then { s with trng := { t with waiting := r :: rest } }
    else
      let ws := t.pool.take k
      let t1 := { t with pool := t.pool.drop k, waiting := rest }
      match r with
      | .word who _ =>
        { s with trng := { t1 with latch := t1.latch.put who (trngStatus t true false) }, reply := .reg (ws.headD 0) }
      | .seed n =>
        let s1 := { s with trng := t1 }
        match workOf s.desk n .seedDraw with
        | some c => settle { s1 with desk := seedDone (envOf s1) s.desk n c ws }
        | none => s1
      | .keys => { s with trng := t1, sec := { s.sec with drawn := ws } }

/-- POOL_DELIVERY. -/
def execPoolDelivery (s : State) : Host.Outcome State Fault Refusal :=
  .next (if trngOn s then deliver s else s)

/-- The LIFECYCLE command that waits for the words of the identity key, with its queue (R380 step 3). -/
def keyWaiter (d : Desk) : Option (Fin 64 × Cmd) :=
  ((List.range 64).filterMap fun k =>
    ((workOf d (fin 64 k) .lifecycle).filter fun c => c.stage == .working && c.done == 1).map fun c => (fin 64 k, c)).head?

/-- A key generation that waits for words fails: a LIFECYCLE completes RNG_UNAVAILABLE, and an alias key is tried again at
the next boot or ATTEST (R376, R380, R393). -/
def failKeys (s : State) : State :=
  match keyWaiter s.desk with
  | some (n, c) => { s with desk := endWork s.desk n c stRng [] 0 }
  | none => { s with sec := { s.sec with genFailed := true, genWanted := false } }

/-- Every SEED_DRAW that waits for words completes RNG_UNAVAILABLE, and a key generation that waits fails (R393 step 3). -/
def releaseReaders (s : State) : State :=
  let seeds := s.trng.waiting.filterMap fun r => match r with
    | .seed n => some n
    | _ => none
  let keys := s.trng.waiting.any fun r => r == .keys
  let d := seeds.foldl (fun d n => match workOf d n .seedDraw with
    | some c => endWork d n c stRng [] 0
    | none => d) s.desk
  let s1 := { s with
    desk := d
    trng := { s.trng with waiting := s.trng.waiting.filter fun r => match r with | .word _ _ => true | _ => false } }
  if keys then failKeys s1 else s1

/-- One sample period, with what a health failure does outside the random source (R393). -/
def sampleStep (v : BitVec 11) (s : State) : State :=
  let t := sampleTrng v s.trng
  let s1 := { s with trng := t }
  if t.fails = s.trng.fails && t.state == s.trng.state then s1
  else if t.state = .ready then s1
  else
    let s2 := releaseReaders s1
    if t.state = .off && s.trng.state != .off then noticeAll s2 1 0xFFFFFFFF none else s2

/-- TRNG_SAMPLE. -/
def execTrngSample (v : BitVec 11) (s : State) : Host.Outcome State Fault Refusal :=
  .next (if trngOn s then settle (sampleStep v s) else s)

/-- WINDOW_CLOSE: when the windows of R387 are full (R388, R390). -/
def execWindowClose (s : State) : Host.Outcome State Fault Refusal :=
  .next (if trngOn s && s.trng.pos == propWindow then { s with trng := closeWindow s.trng } else s)

/-- STATS_WINDOW: when 65,536 samples are counted (R389). -/
def execStatsWindow (s : State) : Host.Outcome State Fault Refusal :=
  .next (if trngOn s && s.trng.statPos == statWindow then { s with trng := closeStats s.trng } else s)

end Sys2Proof.Machine
end

