-- ==== Sys2Proof/Machine/Trust.lean ====
section
/-!
DEFINITION. Trust (Chapter 16): firmware images (R363, R366, R367, R371), IMAGE_STAGE and IMAGE_INSTALL (R372), the
lifecycle (R378 to R380), the alias key (R376), ATTEST (R377) and the confirmation of a pending slot (R374).
-/
namespace Sys2Proof.Machine

/-! ## The ERRS status word -/

/-- ERRS.STATUS (Table 15.6). -/
def errsStatus (s : State) : Nat :=
  b2n (degraded s) + 2 * b2n (anyTileLost s.fuses.grade s.desk) + 4 * b2n (anyDieDisabled s.desk) + 8 * b2n (aged s.np) +
  16 * b2n s.np.tripLatched

/-! ## Images -/

/-- A public key that the module trusts (R363). -/
def vkeyOk (vroot key : Bytes) : Bool := key.length == 68 && key.take 4 == [0, 0, 0, 0x12] && shake256 key == vroot

/-- The bytes of an image that its signature covers, and its length (R366). -/
def imageBody (b : Bytes) : Bytes := b.take (256 + field b 20 4)
def imageLen (b : Bytes) : Nat := 256 + field b 20 4 + 2820
/-- The vendor key, the security version and the version of an image (Table 16.2). -/
def imageKey (b : Bytes) : Bytes := slice b 24 68
def imageRollback (b : Bytes) : Nat := field b 16 4
def imageVersion (b : Bytes) : Nat := field b 8 4
/-- The measurement of an image (R367). -/
def measure (b : Bytes) : Bytes := shake256 (imageBody b)

/-- The limit of BODY_LEN by image type (R366). -/
def bodyLimit (type : Nat) : Nat :=
  match type with
  | 0 => 262144
  | 1 => 10485760
  | _ => 786432

/-- Whether the header of an image has its form (R371). -/
def imageHeaderOk (b : Bytes) : Bool :=
  field b 0 4 == 1 && field b 5 3 == 0 && (slice b 92 164).all fun x => x == 0

/-- Whether an image is of a type, within its size, and no longer than the bytes at hand. -/
def sizeOk (type : Nat) (b : Bytes) : Bool :=
  field b 4 1 == type && decide (field b 20 4 ≤ bodyLimit type) && decide (imageLen b ≤ b.length)

/-- Whether the vendor's signature of an image holds (R363). -/
def signedOk (vroot b : Bytes) : Bool :=
  vkeyOk vroot (imageKey b) && Config.xmssVerify (imageKey b) (imageBody b) (slice b (256 + field b 20 4) 2820)

/-- Whether a security version is high enough: any is in SERVICE (R371). -/
def rollbackOk (lc : Lifecycle) (counter : Word) (b : Bytes) : Bool :=
  lc == .service || decide (counter.toNat ≤ imageRollback b)

/-- Whether images are accepted in a lifecycle state (R371). -/
def installable (lc : Lifecycle) : Bool := lc == .provisioned || lc == .field || lc == .service

/-- The checks of R371 as a result code of SEC.FW_STATUS: 1 when all hold. -/
def imageVerdictCode (vroot : Bytes) (lc : Lifecycle) (counter : Word) (type : Nat) (b : Bytes) : Nat :=
  if !imageHeaderOk b then 2
  else if !sizeOk type b then 5
  else if !signedOk vroot b then 3
  else if !rollbackOk lc counter b then 4
  else if !installable lc then 6
  else 1

/-! ## IMAGE_STAGE and IMAGE_INSTALL -/

/-- Bytes put into a run at an offset, zeros between its end and the offset. -/
def placeBytes (b : Bytes) (off : Nat) (x : Bytes) : Bytes :=
  spliceBytes (b ++ List.replicate (off - b.length) 0) off x

/-- The staging slot of a piece: by the TYPE byte when the piece has it, else that of the pieces before (R372). -/
def stageSlotOf (s : Secure) (off : Nat) (x : Bytes) : Option (Fin 2) :=
  if off ≤ 4 ∧ 4 < off + x.length then
    match (x.getD (4 - off) 0).toNat with
    | 1 => some 0
    | 2 => some 1
    | _ => none
  else some s.stageSlot

/-- A piece is copied to its staging slot. A TYPE of no staging slot makes the command end BAD_PACKET. -/
def stagePiece (s : State) (n : Fin 64) (c : Cmd) (x : Bytes) : State :=
  let off := field c.pkt 32 8
  match stageSlotOf s.sec off x with
  | none => { s with desk := endWork s.desk n c stBad [] 0 }
  | some k =>
    { s with
      desk := endWork s.desk n c stOk [] 0
      sec := { s.sec with stageSlot := k, staging := s.sec.staging.upd k fun b => placeBytes b off x } }

/-- The source of a management command at hand, read whole: by its command, or the reads are outstanding, or they failed. -/
def mgmtSource (e : Env) (d : Desk) (n : Fin 64) (c : Cmd) (addr len : Nat) : Desk × Cmd × Option Bytes :=
  if len = 0 then (d, c, some [])
  else
    let a := askOperands e d c 3 [(addr, len)]
    if readsOut a.2 then (a.1, a.2, none)
    else
      let r := readRange e a.1 n a.2.cache addr len
      match r.fail with
      | some k => (r.desk, { a.2 with stop := some k, stopAt := d.now, fault := k == .dataLost }, none)
      | none => (r.desk, { a.2 with cache := [] }, some r.bytes)

/-- IMAGE_STAGE. -/
def imageStage (s : State) (n : Fin 64) : State :=
  match workOf s.desk n .imageStage with
  | none => s
  | some c0 =>
    let r := mgmtSource (envOf s) s.desk n (beginWork s.desk c0) (field c0.pkt 24 8) (field c0.pkt 40 8)
    match r.2.2 with
    | none => { s with desk := setCur r.1 n (some r.2.1) }
    | some x => stagePiece { s with desk := r.1 } n r.2.1 x

/-- IMAGE_STAGE. -/
def execImageStage (sq : Fin 64) (s : State) : Host.Outcome State Fault Refusal := .next (settle (imageStage s sq))

/-- The slot record of an image: 0 Front Desk, 1 Night Porter. -/
def fwOf (s : Secure) (image : Nat) : FwType := if image = 0 then s.fd else s.np

/-- A slot record written. -/
def setFw (s : Secure) (image : Nat) (f : FwType) : Secure := if image = 0 then { s with fd := f } else { s with np := f }

/-- An image written to the slot that is not active, which becomes pending (R372 steps 2 and 3). -/
def installSlot (f : FwType) (b : Bytes) : FwType :=
  { f with slots := f.slots.put (f.active + 1) ⟨b.take (imageLen b), false⟩, pending := some (f.active + 1), attempts := 0, fails := 0 }

/-- IMAGE_INSTALL (R372). -/
def imageInstall (s : State) (n : Fin 64) : State :=
  match workOf s.desk n .imageInstall with
  | none => s
  | some c0 =>
    let c := beginWork s.desk c0
    let k := field c.pkt 16 1
    let b := s.sec.staging.at (fin 2 k)
    let f := fwOf s.sec k
    let code := imageVerdictCode s.fuses.vroot s.sec.lifecycle f.rollback (k + 1) b
    let sec := { s.sec with fwResult := BitVec.ofNat 8 code, fwImage := BitVec.ofNat 2 k }
    if code = 1 then { s with desk := endWork s.desk n c stOk [] 0, sec := setFw sec k (installSlot f b) }
    else { s with desk := endWork s.desk n c stBad [] 0, sec := sec }

/-- IMAGE_INSTALL. -/
def execImageInstall (sq : Fin 64) (s : State) : Host.Outcome State Fault Refusal := .next (settle (imageInstall s sq))

/-! ## Wipes (R321, R322) -/

/-- The secure SRAM reads 0, and a signature that was not released never is (R322). -/
def wipeSram (s : State) : State :=
  let spoil (c : Cmd) : Cmd := if pktOp c.pkt == some .attest && c.done == 2 then { c with done := 3 } else c
  { s with
    desk := { s.desk with sqs := s.desk.sqs.map fun q => { q with cur := q.cur.map spoil } }
    sec := { s.sec with sram := [], engineWarm := false, wipeCount := satAdd 16 s.sec.wipeCount 1 } }

/-! ## Keys (R376) -/

/-- The seed of a key: its 24 words, 96 bytes. -/
def keySeed (ws : List Word) : Bytes := (ws.take 24).flatMap fun w => leBytes 4 w.toNat

/-- The measurements of the firmware that runs. -/
def epochOf (s : Secure) : Bytes × Bytes := (s.fd.meas, s.np.meas)

/-- Whether an alias key can be certified: the identity key stands and has a leaf left. -/
def certifiable (s : Secure) : Bool := s.idKey.isSome && decide (s.idLeaf < 1024)

/-- Whether the alias key serves the firmware epoch and has a leaf left. -/
def aliasServes (s : Secure) : Bool :=
  match s.attKey with
  | some k => (k.fd, k.np) == epochOf s && decide (s.attLeaf < 65536)
  | none => false

/-- Bytes 0 to 191 of an alias certificate (Table 16.4). -/
def certBody (serial : BitVec 64) (s : Secure) (pk : Bytes) : Bytes :=
  leBytes 4 1 ++ leBytes 4 s.idLeaf ++ leBytes 8 serial.toNat ++ slice pk 0 68 ++ slice s.measFs 0 32 ++
  slice s.fd.meas 0 32 ++ slice s.np.meas 0 32 ++ List.replicate 12 0

/-- A new alias key, certified by one leaf of the identity key. -/
def newAlias (serial : BitVec 64) (s : Secure) (idSeed : Bytes) (ws : List Word) : Secure :=
  let seed := keySeed ws
  let body := certBody serial s (Config.xmssPublic 0x11 seed)
  { s with
    attKey := some ⟨seed, s.idLeaf, body ++ slice (Config.xmssSign idSeed s.idLeaf body) 0 2500, s.measFs, s.fd.meas, s.np.meas⟩
    attLeaf := 0, idLeaf := s.idLeaf + 1, genWanted := false, genFailed := false, engineWarm := true, drawn := [] }

/-- The 24 words that a key generation takes: already drawn, at once from the pool, or later. -/
def takeKeys (s : State) : State :=
  let t := s.trng
  if !s.sec.drawn.isEmpty || t.waiting.any (fun r => r == .keys) then s
  else if t.waiting.isEmpty && decide (24 ≤ t.pool.length) then
    { s with trng := { t with pool := t.pool.drop 24 }, sec := { s.sec with drawn := t.pool.take 24 } }
  else { s with trng := { t with waiting := t.waiting ++ [.keys] } }

/-- ALIAS_KEY_GENERATION: a wanted key is generated and certified once its words are drawn. -/
def aliasGeneration (s : State) : State :=
  match s.sec.idKey with
  | none => s
  | some seed =>
    if !(s.sec.genWanted && certifiable s.sec) then s
    else if s.trng.state == .requal || s.trng.state == .off then
      { s with sec := { s.sec with genFailed := true, genWanted := false } }
    else
      let s1 := takeKeys s
      if s1.sec.drawn.isEmpty then s1 else { s1 with sec := newAlias s.fuses.serial s1.sec seed s1.sec.drawn }

/-- ALIAS_KEY_GENERATION. -/
def execAliasKeyGeneration (s : State) : Host.Outcome State Fault Refusal :=
  .next (if s.elec.life == .running then aliasGeneration s else s)

/-! ## The lifecycle (R378 to R380) -/

/-- The code of a lifecycle state (Table 16.5). -/
def lcCode (l : Lifecycle) : Nat :=
  match l with
  | .blank => 0 | .provisioned => 1 | .field => 2 | .service => 3 | .retired => 4

/-- The lifecycle state of a code. -/
def lcOf (k : Nat) : Lifecycle :=
  match k with
  | 0 => .blank | 1 => .provisioned | 2 => .field | 3 => .service | _ => .retired

/-- The permitted transitions (R379). -/
def lcPermitted (a b : Lifecycle) : Bool :=
  match a, b with
  | .blank, .provisioned => true
  | .provisioned, .field => true
  | .field, .service => true
  | .service, .field => true
  | .retired, _ => false
  | _, .retired => true
  | _, _ => false

/-- Whether a token holds (Table 16.6, R363): the vendor's key is that of the first stage, whose hash is VROOT. -/
def tokenOk (f : Fuses) (s : Secure) (target : Nat) (t : Bytes) : Bool :=
  let key := imageKey s.firstStage
  field t 0 4 == 1 && field t 4 1 == lcCode s.lifecycle && field t 5 1 == target && field t 6 2 == s.lcCount.toNat &&
  field t 8 8 == f.serial.toNat && ((slice t 16 48).all fun x => x == 0) && lcPermitted s.lifecycle (lcOf target) &&
  vkeyOk f.vroot key && Config.xmssVerify key (t.take 64) (slice t 64 2820)

/-- Steps 4 and 5 of R380. -/
def enterLifecycle (s : Secure) (l : Lifecycle) : Secure :=
  let s1 := { s with
    lifecycle := l, lcCount := s.lcCount + 1
    tampered := if s.lifecycle = .service ∧ l = .field then false else s.tampered }
  if l = .retired then
    { s1 with idKey := none, attKey := none, staging := Tab.all 2 [], genWanted := false }
  else s1

/-- The transition is made and the command completes OK. -/
def lifecycleDone (s : State) (n : Fin 64) (c : Cmd) : State :=
  { s with sec := enterLifecycle s.sec (lcOf (field c.pkt 16 1)), desk := endWork s.desk n c stOk [] 0 }

/-- Step 3 of R380: the identity key from its 24 words. -/
def identityStep (s : State) (n : Fin 64) (c : Cmd) : State :=
  if s.trng.state == .requal || s.trng.state == .off then { s with desk := endWork s.desk n c stRng [] 0 }
  else
    let s1 := takeKeys { s with desk := setCur s.desk n (some { c with done := 1 }) }
    if s1.sec.drawn.isEmpty then s1
    else lifecycleDone { s1 with sec := { s1.sec with idKey := some (keySeed s1.sec.drawn), idLeaf := 0, drawn := [] } } n c

/-- A LIFECYCLE whose token is at hand (R380). -/
def lifecycleToken (s : State) (n : Fin 64) (c : Cmd) (t : Bytes) : State :=
  if !tokenOk s.fuses s.sec (field c.pkt 16 1) t then { s with desk := endWork s.desk n c stBad [] 0 }
  else
    let w := wipeSram s
    let s1 := { w with sec := { w.sec with wipeLc := true } }
    if s.sec.lifecycle = .blank ∧ lcOf (field c.pkt 16 1) = .provisioned then identityStep s1 n c
    else lifecycleDone s1 n c

/-- LIFECYCLE. -/
def lifecycleRun (s : State) (n : Fin 64) : State :=
  match workOf s.desk n .lifecycle with
  | none => s
  | some c0 =>
    let c := beginWork s.desk c0
    if c.done = 1 then identityStep s n c
    else
      let r := mgmtSource (envOf s) s.desk n c (field c.pkt 24 8) 2884
      match r.2.2 with
      | none => { s with desk := setCur r.1 n (some r.2.1) }
      | some t => lifecycleToken { s with desk := r.1 } n r.2.1 t

/-- LIFECYCLE. -/
def execLifecycle (sq : Fin 64) (s : State) : Host.Outcome State Fault Refusal := .next (settle (lifecycleRun s sq))

/-! ## ATTEST (R377) -/

/-- The module ID as FAB.SELF reports it: 0 without a fabric (R395). -/
def selfId (s : State) : Nat := if gradeSl s.fuses.grade = 0 then 0 else s.elec.moduleId.toNat

/-- FLAGS of a report (Table 16.3). -/
def attFlags (s : Secure) : Nat := b2n s.tampered + 2 * b2n s.fd.reverted + 4 * b2n s.np.reverted + 8 * b2n s.recovered

/-- SEC.WIPE (Table 16.8). -/
def wipeWord (s : Secure) : Nat :=
  b2n s.wipeCase + 2 * b2n s.wipeV + 4 * b2n s.wipeC + 8 * b2n s.wipeLc + 65536 * s.wipeCount

/-- The body of a report, bytes 0 to 319 (Table 16.3). -/
def attBody (s : State) (result : Nat) (nonce : Bytes) : Bytes :=
  let x := s.sec
  leBytes 4 1 ++ leBytes 4 result ++ leBytes 4 (if result = 0 then 5704 else 320) ++ leBytes 1 (lcCode x.lifecycle) ++
  leBytes 1 (attFlags x) ++ leBytes 2 x.lcCount.toNat ++ slice nonce 0 32 ++ slice x.measFs 0 32 ++ slice x.fd.meas 0 32 ++
  slice x.np.meas 0 32 ++ leBytes 4 s.desk.gctl.fwVersion.toNat ++ leBytes 4 x.npVersion.toNat ++
  leBytes 4 s.desk.gctl.epoch.toNat ++ leBytes 4 (gradeUnits s.fuses.grade).toNat ++ leBytes 8 s.desk.bootId.toNat ++
  leBytes 8 s.fuses.serial.toNat ++ leBytes 1 (selfId s) ++ leBytes 3 0 ++ leBytes 4 x.fd.rollback.toNat ++
  leBytes 4 x.np.rollback.toNat ++ leBytes 4 (errsStatus s) ++ leBytes 4 (servedCount s.fuses.grade s.desk) ++
  leBytes 4 (wipeWord x) ++
  (match x.idKey with | some k => slice (Config.xmssPublic 0x10 k) 0 68 | none => List.replicate 68 0) ++
  List.replicate 52 0

/-- A report is written to DEST and the command completes OK (R377 step 5). -/
def attWrite (s : State) (n : Fin 64) (c : Cmd) (report : Bytes) : State :=
  let w := cmdWrite (envOf s) s.desk n c 3 (field c.pkt 24 8) report
  { s with desk :=
    if w.2.stop.isSome then setCur w.1 n (some { w.2 with stopAt := s.desk.now }) else endWork w.1 n w.2 stOk [] 0 }

/-- Steps 3 and 4 of R377: the report filled in and signed with the next leaf, not yet released. -/
def attSign (s : State) (n : Fin 64) (c : Cmd) (k : AttKey) : State :=
  let i := s.sec.attLeaf
  let msg := attBody s 0 (slice c.pkt 32 32) ++ slice k.cert 0 2692
  { s with
    sec := { s.sec with attLeaf := i + 1, engineWarm := true, genWanted := s.sec.genWanted || decide (i + 1 = 65536) }
    desk := setCur s.desk n (some { c with done := 2, out := msg ++ slice (Config.xmssSign k.seed i msg) 0 2692 }) }

/-- ATTEST by its progress: 0 not tried, 1 waits for a key, 2 signed, 3 the signature lost to a wipe. -/
def attestRun (s : State) (n : Fin 64) : State :=
  match workOf s.desk n .attest with
  | none => s
  | some c0 =>
    let c := beginWork s.desk c0
    let alone (r : Nat) : State := attWrite s n c (attBody s r (slice c.pkt 32 32))
    let waits : State := { s with desk := setCur s.desk n (some { c with done := 1 }) }
    if c.done = 2 then attWrite s n c c.out
    else if c.done = 3 then alone 3
    else if s.sec.genWanted && certifiable s.sec then waits
    else match s.sec.attKey with
      | some k =>
        if aliasServes s.sec then attSign s n c k
        else if s.sec.genFailed && certifiable s.sec then
          (if c.done = 1 then alone 2 else { waits with sec := { s.sec with genWanted := true, genFailed := false } })
        else alone 1
      | none =>
        if s.sec.genFailed && certifiable s.sec then
          (if c.done = 1 then alone 2 else { waits with sec := { s.sec with genWanted := true, genFailed := false } })
        else alone 1

/-- ATTEST. -/
def execAttest (sq : Fin 64) (s : State) : Host.Outcome State Fault Refusal := .next (settle (attestRun s sq))

/-! ## Confirmation (R374) -/

/-- Whether the module has run healthily for 1 s. -/
def healthy (s : State) : Bool :=
  s.elec.life == .running && match s.sec.idleSince with
    | some t => decide (t + 1000000000 ≤ s.desk.now)
    | none => false

/-- Whether the pending slot of a type is the one that runs. -/
def confirmDue (f : FwType) : Bool := f.pending.isSome && f.pending == f.running

/-- A pending slot that runs is confirmed. -/
def confirmSlot (f : FwType) : FwType :=
  match f.pending with
  | some p =>
    { f with
      active := p, pending := none, attempts := 0, fails := 0, reverted := false
      rollback := BitVec.ofNat 32 (max f.rollback.toNat (imageRollback (f.slots.at p).image)) }
  | none => f

/-- SLOT_CONFIRM. -/
def slotConfirm (s : Secure) : Secure :=
  let a := confirmDue s.fd
  let b := confirmDue s.np
  { s with
    fd := if a then confirmSlot s.fd else s.fd
    np := if b then confirmSlot s.np else s.np
    recovered := s.recovered && !a && !b }

/-- SLOT_CONFIRM. -/
def execSlotConfirm (s : State) : Host.Outcome State Fault Refusal :=
  .next (if healthy s then { s with sec := slotConfirm s.sec } else s)

end Sys2Proof.Machine
end

