-- ==== Sys2Proof/Machine/Reset.lean ====
section
/-!
DEFINITION. Reset and boot: margin planning (R340, R341), what a reset leaves (R357, R358, Table 15.4), the boot (R368 to
R371, R351, R360), power and the reset pin (R404 to R407), and the resets the module makes itself (R345, Table 15.3).
-/
namespace Sys2Proof.Machine

/-! ## The plan (R340) -/

/-- The path-delay monitors on the dies in service. -/
def monitors (g : Grade) (d : Desk) : List Nat :=
  (List.range 16).filter fun m => decide (m / 4 < gradeDies g) && !d.tiles.disabled.at (fin 4 (m / 4))

/-- The least slack at a clock and a voltage in measurement `n`, and the monitor that reports it. -/
def leastSlack (ms : List Nat) (fp voff n : Nat) : Int × Nat :=
  match ms with
  | [] => (150, 0)
  | m :: rest => rest.foldl (fun b k => if Config.slack k fp voff n < b.1 then (Config.slack k fp voff n, k) else b)
      (Config.slack m fp voff n, m)

/-- A plan under way: clock, voltage offset, measurements made, least slack and its monitor. -/
structure Plan where
  fp : Nat
  voff : Nat
  n : Nat
  least : Int × Nat
deriving DecidableEq, Repr

/-- The first loop of R340, of at most `fuel` steps. -/
def planVolts (ms : List Nat) : Nat → Plan → Plan
  | 0, p => p
  | fuel + 1, p =>
    if p.least.1 < 150 ∧ p.voff < 30 then
      planVolts ms fuel ⟨p.fp, p.voff + 5, p.n + 1, leastSlack ms p.fp (p.voff + 5) p.n⟩
    else p

/-- The second loop of R340. -/
def planClock (ms : List Nat) : Nat → Plan → Plan
  | 0, p => p
  | fuel + 1, p =>
    if p.least.1 < 150 ∧ 1500 < p.fp then
      planClock ms fuel ⟨p.fp - 25, p.voff, p.n + 1, leastSlack ms (p.fp - 25) p.voff p.n⟩
    else p

/-- The plan as revised from a voltage offset and a number of steps, with measurements counted from `n`. -/
def replan (ms : List Nat) (voff steps n : Nat) : Plan :=
  let fp := 2000 - 25 * steps
  planClock ms 20 (planVolts ms 6 ⟨fp, voff, n + 1, leastSlack ms fp voff n⟩)

/-- The steps of a plan below 2,000 MHz. -/
def Plan.steps (p : Plan) : Nat := (2000 - p.fp) / 25

/-! ## What a reset leaves (Table 15.4) -/

/-- Memory after a warm reset: bytes outside the private areas, their sound or unsound sectors, and repairs. -/
def resetMemory (m : Memory) : Memory :=
  { cells := m.cells.filter fun c => !isPrivate c.1
    ue := m.ue.filter fun x => !isPrivate (32 * x)
    ueFound := m.ueFound.filter fun x => !isPrivate (32 * x)
    dueRows := m.dueRows, soft := m.soft, hard := m.hard }

/-- Memory after a loss of power. -/
def lostMemory (m : Memory) : Memory := { soft := m.soft, hard := m.hard }

/-- Front Desk after a reset. The free values taken and the record of the pins go on: they are the model's own. -/
def resetDesk (d : Desk) (cause : BitVec 4) (mem : Memory) : Desk :=
  { freeCtr := d.freeCtr
    tiles := { d.tiles with holds := Tab.all 256 none, units := Tab.all 256 {} }
    errs := { resetCause := cause }
    mem := mem
    ports := d.ports.map fun p => { host := p.host }
    bootId := d.bootId
    out := d.out }

/-- Night Porter after a reset: the ageing plan and the powered hours stay (Table 14.9). -/
def resetPorter (g : Grade) (p : Porter) : Porter :=
  let steps := p.pendSteps.getD p.steps
  { pcapHost := BitVec.ofNat 16 (gradeWatts g), cap := gradeWatts g, voff := p.voff, steps := steps, worst := p.worst, plans := p.plans
    hours := p.hours, nextPlan := p.hours + 24, f := 2000 - 25 * steps }

/-- What secure flash keeps (R369, R375, R378). -/
def resetSecure (x : Secure) : Secure :=
  let ft (f : FwType) : FwType := { f with meas := List.replicate 32 0 }
  { lifecycle := x.lifecycle, tampered := x.tampered, lcCount := x.lcCount, fd := ft x.fd, np := ft x.np
    recovered := x.recovered, firstStage := x.firstStage, idKey := x.idKey, idLeaf := x.idLeaf, attKey := x.attKey
    attLeaf := x.attLeaf, idleSince := none, flashFault := x.flashFault }

/-- The module in reset, with a memory and a cause. -/
def inReset (s : State) (cause : BitVec 4) (mem : Memory) : State :=
  { pending := s.pending
    fuses := s.fuses
    elec := { s.elec with life := .held, cause := cause }
    desk := resetDesk s.desk cause mem
    mbx := {}
    locks := {}
    np := resetPorter s.fuses.grade s.np
    trng := {}
    sec := resetSecure s.sec
    recov := {}
    smb := {}
    fab := {}
    reply := s.reply }

/-- BOOT_ID advances with every reset (R198). -/
def nextBoot (s : State) : State := { s with desk := { s.desk with bootId := s.desk.bootId + 1 } }

/-- A warm reset of a cause begins (R357, R358). -/
def warmReset (cause : BitVec 4) (s : State) : State := nextBoot (inReset s cause (resetMemory s.desk.mem))

/-- A warm reset for a fault, which is logged in secure flash before it (R346). -/
def faultReset (cause : BitVec 4) (cls die : Nat) (s : State) : State :=
  let r := warmReset cause s
  { r with sec := { r.sec with flashFault := some (cls, die) } }

/-- Whether the module is up: neither without power nor in reset. -/
def isUp (s : State) : Bool := s.elec.life != .off && s.elec.life != .held

/-! ## The choice of slots (R369) -/

/-- Whether the image of a slot passes at boot (R368 step 2). -/
def bootable (vroot : Bytes) (lc : Lifecycle) (type : Nat) (f : FwType) (k : Fin 2) : Bool :=
  let b := (f.slots.at k).image
  imageHeaderOk b && sizeOk type b && signedOk vroot b && rollbackOk lc f.rollback b

/-- A pending slot is given up: FAILED, and REVERTED for its type. -/
def giveUp (f : FwType) (p : Fin 2) : FwType :=
  { f with slots := f.slots.upd p fun x => { x with failed := true }, pending := none, attempts := 0, fails := 0, reverted := true }

/-- The active slot, or the other one when it fails and the other is neither FAILED nor empty. -/
def chooseActive (vroot : Bytes) (lc : Lifecycle) (type : Nat) (f : FwType) : FwType :=
  let o := f.active + 1
  if bootable vroot lc type f f.active then { f with running := some f.active }
  else if !(f.slots.at o).failed && !(f.slots.at o).image.isEmpty && bootable vroot lc type f o then { f with running := some o }
  else { f with running := none }

/-- The slot of a type that the first stage boots; `running` is none when no slot passes. -/
def chooseSlot (vroot : Bytes) (lc : Lifecycle) (type : Nat) (cause : BitVec 4) (f : FwType) : FwType :=
  match f.pending with
  | none => chooseActive vroot lc type f
  | some p =>
    let bad := f.running == some p && (cause == 3 || cause == 5)
    let fails := f.fails + b2n bad
    if 3 ≤ fails then chooseActive vroot lc type (giveUp f p)
    else
      let g := { f with fails := fails, attempts := f.attempts + 1 }
      if bootable vroot lc type g p then { g with running := some p }
      else chooseActive vroot lc type (giveUp g p)

/-- The image that runs. -/
def runningImage (f : FwType) : Bytes := match f.running with
  | some k => (f.slots.at k).image
  | none => []

/-! ## Self-tests (R351, R360) -/

/-- A die whose link fails its test is disabled: the higher-numbered of the link (R360). -/
def disableLinks (g : Grade) (t : Tiles) (ls : List (Fin 4 × Fin 4)) : Tiles :=
  ls.foldl (fun t l =>
    if l.1 != l.2 && decide (l.1.val < gradeDies g) && decide (l.2.val < gradeDies g) then
      { t with disabled := t.disabled.put (fin 4 (max l.1.val l.2.val)) true }
    else t) t

/-- An untried spare that fails its test is retired. -/
def testSpare (d : Desk) (x : Fin 4 × Nat) : Desk :=
  if (d.tiles.spares.at x.1).contains x.2 then
    logFault { d with tiles := { d.tiles with
        spares := d.tiles.spares.upd x.1 fun l => l.erase x.2, retired := d.tiles.retired ++ [x] } }
      9 x.1.val none none 0 0
  else d

/-- The logical tile that a physical tile of a die serves. -/
def servedBy (d : Desk) (x : Fin 4 × Nat) : Option Nat :=
  (List.range 256).find? fun l => l / 64 == x.1.val && d.tiles.serves.at (fin 256 l) == some x.2

/-- A tile in service that fails its test is retired, and a spare takes over. -/
def testTile (d : Desk) (x : Fin 4 × Nat) : Desk :=
  match servedBy d x with
  | none => d
  | some l =>
    let r := retireTile d (fin 256 l) 0
    logFault r.2 9 x.1.val (some l) none (if r.1 then 2 else 7) 0

/-- The tests of Night Porter at boot: links, spares, tiles in service. -/
def bootTests (g : Grade) (d : Desk) (f : BootFindings) : Desk :=
  let present := f.badTiles.filter fun x => decide (x.1.val < gradeDies g)
  let d1 := { d with tiles := disableLinks g d.tiles f.badLinks }
  present.foldl testTile (present.foldl testSpare d1)

/-! ## The boot (R368) -/

/-- A fault that reset the module is copied from secure flash into the error log (R346). -/
def copyFault (s : State) : State :=
  match s.sec.flashFault with
  | none => s
  | some (cls, die) =>
    { s with desk := logFault s.desk cls die none none 6 0, sec := { s.sec with flashFault := none } }

/-- Night Porter's plan at boot, before the first command (R341). -/
def bootPlan (s : State) : State :=
  let p := replan (monitors s.fuses.grade s.desk) s.np.voff s.np.steps s.desk.freeCtr
  { s with
    desk := { s.desk with freeCtr := p.n }
    np := { s.np with
      voff := p.voff, steps := p.steps, f := p.fp, worst := p.least.2, plans := satAdd 8 s.np.plans 1
      nextPlan := s.np.hours + 24 } }

/-- Steps 3 to 5: repairs made permanent, tests, plan, IDLE; a new alias key is wanted when the epoch has none. -/
def bootFirmware (s : State) (f : BootFindings) : State :=
  let m := { s.desk.mem with hard := s.desk.mem.hard ++ s.desk.mem.soft, soft := [] }
  let s1 := bootPlan { s with desk := bootTests s.fuses.grade { s.desk with mem := m } f }
  let fdImage := runningImage s.sec.fd
  let npImage := runningImage s.sec.np
  let x := { s1.sec with
    fd := { s1.sec.fd with meas := measure fdImage }
    np := { s1.sec.np with meas := measure npImage }
    npVersion := BitVec.ofNat 32 (imageVersion npImage), idleSince := some s1.desk.now }
  { s1 with
    elec := { s1.elec with life := .running }
    desk := { s1.desk with gctl := { s1.desk.gctl with
      epoch := BitVec.ofNat 32 (field fdImage 12 4), fwVersion := BitVec.ofNat 32 (imageVersion fdImage) } }
    sec := { x with genWanted := certifiable x && !aliasServes x } }

/-- Step 2 onward: the slots are chosen; without one of each type the module enters recovery mode (R369). -/
def bootSlots (s : State) (f : BootFindings) : State :=
  let fd := chooseSlot s.fuses.vroot s.sec.lifecycle 1 s.elec.cause s.sec.fd
  let np := chooseSlot s.fuses.vroot s.sec.lifecycle 2 s.elec.cause s.sec.np
  let s1 := { s with sec := { s.sec with fd := fd, np := np } }
  if fd.running.isSome && np.running.isSome then bootFirmware s1 f
  else { s1 with elec := { s1.elec with life := .recovery } }

/-- Whether the first stage passes its check (R368 step 1). -/
def firstStageOk (s : State) : Bool :=
  imageHeaderOk s.sec.firstStage && sizeOk 0 s.sec.firstStage && signedOk s.fuses.vroot s.sec.firstStage

/-- The boot from step 1. -/
def boot (s : State) (f : BootFindings) : State :=
  let s1 := copyFault s
  if s1.sec.lifecycle = .retired then { s1 with elec := { s1.elec with life := .retired } }
  else if firstStageOk s1 then bootSlots { s1 with sec := { s1.sec with measFs := measure s1.sec.firstStage } } f
  else { s1 with elec := { s1.elec with life := .recovery } }

/-- The straps as sampled at a rising edge of RESET_N or at power-on (R403). -/
def sampleStraps (e : Electrical) (f : BootFindings) : Electrical :=
  if e.cause = 0 ∨ e.cause = 1 then { e with moduleId := BitVec.ofNat 6 (8 * f.tray.toNat + f.slot.toNat) } else e

/-! ## Power and reset -/

/-- POWER_ON: inrush, rails, PG; the module stays in reset (R406 steps 1 and 2). -/
def powerOn (s : State) : State :=
  match s.elec.life with
  | .off => nextBoot { s with elec := { s.elec with
      life := .held, vin := true, pg := true, resetN := false, prsntN := false, cause := 0 } }
  | _ => s

/-- POWER_ON. -/
def execPowerOn (s : State) : Host.Outcome State Fault Refusal := .next (powerOn s)

/-- The module without power: what secure flash keeps, and nothing else. -/
def unpowered (s : State) : State :=
  let r := inReset s 0 (lostMemory s.desk.mem)
  { r with elec := { r.elec with life := .off, vin := false, pg := false } }

/-- POWER_LOSS (R404). -/
def execPowerLoss (s : State) : Host.Outcome State Fault Refusal :=
  .next (match s.elec.life with
    | .off => s
    | _ => unpowered s)

/-- RAIL_FAULT: PG falls, and the module resets itself as for a loss of input (R407). -/
def execRailFault (s : State) : Host.Outcome State Fault Refusal :=
  .next (match s.elec.life with
    | .off => s
    | _ =>
      let r := nextBoot (inReset s 0 (lostMemory s.desk.mem))
      { r with elec := { r.elec with pg := false } })

/-- MODULE_REMOVAL: PRSNT_N breaks first (R401, R405). -/
def execModuleRemoval (s : State) : Host.Outcome State Fault Refusal :=
  .next { s with elec := { s.elec with prsntN := true } }

/-- RESET_ASSERT: RESET_N low for 100 µs while PG is released (R407). In a reset the module makes itself, the boot that
follows is of cause 1. -/
def resetAssert (s : State) : State :=
  let low (t : State) : State := { t with elec := { t.elec with resetN := false } }
  match s.elec.life with
  | .off => low s
  | .held => if s.elec.cause = 0 ∨ !s.elec.pg then low s
    else low { s with elec := { s.elec with cause := 1 }, desk := { s.desk with errs := { s.desk.errs with resetCause := 1 } } }
  | _ => low (if s.elec.pg then warmReset 1 s else s)

/-- RESET_ASSERT. -/
def execResetAssert (s : State) : Host.Outcome State Fault Refusal := .next (resetAssert s)

/-- RESET_RELEASE: the module in reset, with its rails up and RESET_N high, boots. -/
def resetRelease (s : State) (f : BootFindings) : State :=
  match s.elec.life with
  | .held => latchStatus <| boot { s with elec := sampleStraps { s.elec with resetN := true, pg := true } f } f
  | _ => s

/-- RESET_RELEASE. -/
def execResetRelease (f : BootFindings) (s : State) : Host.Outcome State Fault Refusal := .next (resetRelease s f)

/-! ## Resets the module makes itself (Table 15.3) -/

/-- HUB_FATAL: an uncorrectable word in Front Desk SRAM or secure SRAM (class 11, cause 3). -/
def execHubFatal (_where : HubSram) (s : State) : Host.Outcome State Fault Refusal :=
  .next (if isUp s then faultReset 3 11 4 s else s)

/-- FD_WATCHDOG: the 1 s hardware watchdog of the Front Desk core, while firmware runs with FDCLK (cause 5). -/
def execFdWatchdog (s : State) : Host.Outcome State Fault Refusal :=
  .next (if deskAwake s then faultReset 5 11 4 s else s)

/-- The die that a failed die-to-die link is logged under: the higher-numbered compute die of the link. -/
def linkDie (a b : Fin 5) : Nat := if a.val = 4 then b.val else if b.val = 4 then a.val else max a.val b.val

/-- DIE_LINK_DOWN: a link that fails three retrains in a row (class 10, cause 4). -/
def execDieLinkDown (a b : Fin 5) (s : State) : Host.Outcome State Fault Refusal :=
  .next (if isUp s && linkThere s.fuses.grade a b then faultReset 4 10 (linkDie a b) s else s)

/-- HUB_TRIP: a hub-die sensor at or above 110 °C (R339, cause 2). -/
def execHubTrip (s : State) : Host.Outcome State Fault Refusal := .next (if isUp s then warmReset 2 s else s)

/-! ## Night Porter's restart (R342) -/

/-- Night Porter's core restarts from its image: filters begin afresh, f and gate stay (R342). -/
def restartPorter (s : State) : State :=
  { s with
    np := { s.np with npRestart := true, y := Tab.all 128 none, asked := none, timer := s.desk.now }
    sec := { s.sec with idleSince := some s.desk.now } }

/-! ## Activation (R373) -/

/-- A write to SEC.FW_CTL. ACTIVATE acts at once; CANCEL of the same write comes after ACTIVATE_IDLE. -/
def fwCtl (s : State) (v : Word) : State :=
  if v.getLsbD 0 then warmReset 6 s
  else { s with sec := { s.sec with armed := (s.sec.armed || v.getLsbD 1) && !v.getLsbD 2 } }

/-- ACTIVATE. -/
def execActivate (port : Fin 4) (s : State) : Host.Outcome State Fault Refusal :=
  .next (if modReach s port then fwCtl s 1 else s)

/-- ACTIVATE_IDLE. -/
def execActivateIdle (port : Fin 4) (s : State) : Host.Outcome State Fault Refusal :=
  .next (if modReach s port then fwCtl s 2 else s)

/-- CANCEL. -/
def execCancel (port : Fin 4) (s : State) : Host.Outcome State Fault Refusal :=
  .next (if modReach s port then fwCtl s 4 else s)

/-- IDLE_ACTIVATION. -/
def execIdleActivation (s : State) : Host.Outcome State Fault Refusal :=
  .next (if s.elec.life == .running && s.sec.armed && queuesEmpty s.desk then warmReset 6 s else s)

/-! ## Wipes (R321, R382) -/

/-- A trigger of a wipe is recorded; the case switch tampers (R321, R322, R382). -/
def recordWipe (x : Secure) (t : WipeTrigger) : Secure :=
  match t with
  | .case => { x with wipeCase := true, tampered := true }
  | .vglitch => { x with wipeV := true }
  | .cglitch => { x with wipeC := true }

/-- One wipe, set off by a trigger, with the further triggers that fall during it: one wipe, and all of them recorded (R322). -/
def secureWipe (t : WipeTrigger) (more : List WipeTrigger) (s : State) : State :=
  let w := wipeSram s
  { w with sec := (t :: more).foldl recordWipe w.sec }

/-- SECURE_WIPE. -/
def execSecureWipe (w : WipeCause) (s : State) : Host.Outcome State Fault Refusal :=
  .next (match s.elec.life with
    | .off => s
    | _ => latchStatus (secureWipe w.first w.more s))

end Sys2Proof.Machine
end

