-- ==== Sys2Proof/Machine/MemHouse.lean ====
section
/-!
DEFINITION. Housekeeping of the memories (Chapter 13): refresh (R304), patrol scrub (R305, R307, R309), row repair (R307) and
the SRAM scrubbers (R316).
-/
namespace Sys2Proof.Machine

/-- Whether a stack or a package is present and in service (R3, R361). -/
def unitIn (g : Grade) (d : Desk) (u : DramUnit) : Bool :=
  match u with
  | .hbm h => decide (h.val / 3 < gradeDies g) && !d.tiles.disabled.at (fin 4 (h.val / 3))
  | .lp _ => gradeLp g && !anyDieDisabled d

/-- Whether DRAM is out of self-refresh by the module state (Table 14.2). -/
def dramAwake (p : Porter) : Bool := p.state != .doze && p.state != .night

/-- Whether a unit's controller serves accesses now: awake, woken by an access, or in a scrub burst (R305, R330). -/
def unitServes (s : State) (u : DramUnit) : Bool :=
  s.elec.life == .running && unitIn s.fuses.grade s.desk u &&
  (dramAwake s.np || (s.np.memPaths.any fun x => x.1 == u) || s.desk.mem.scrubBurst)

/-- Memory changed. -/
def updMem (s : State) (f : Memory → Memory) : State := { s with desk := { s.desk with mem := f s.desk.mem } }

/-- DRAM_REFRESH: a bank is refreshed, unless the stack refreshes itself. -/
def execDramRefresh (u : DramUnit) (s : State) : Host.Outcome State Fault Refusal :=
  .next (
    if s.elec.life == .running && unitIn s.fuses.grade s.desk u && dramAwake s.np then
      updMem s fun m => { m with refreshes := m.refreshes + 1 }
    else s)

/-! ## Patrol scrub -/

/-- Bytes of a stack and of a package. -/
def unitSize (u : DramUnit) : Nat :=
  match u with
  | .hbm _ => 51539607552
  | .lp _ => 103079215104

/-- The offset that the scrub of a unit visits next. -/
def scrubAt (m : Memory) (u : DramUnit) : Nat :=
  match u with
  | .hbm h => m.hbmScrub.at h
  | .lp l => m.lpScrub.at l

/-- The scrub of a unit goes on to the next sector, in ascending offset (R305). -/
def scrubNext (m : Memory) (u : DramUnit) : Memory :=
  let o := (scrubAt m u + 32) % unitSize u
  match u with
  | .hbm h => { m with hbmScrub := m.hbmScrub.put h o }
  | .lp l => { m with lpScrub := m.lpScrub.put l o }

/-- A row of a package is reported, once. -/
def markRow (m : Memory) (l : Fin 32) (row : Nat) : Memory :=
  if m.lpRows.contains (l, row) then m
  else { m with lpRows := m.lpRows ++ [(l, row)], lp := m.lp.upd l fun c => { c with rows := satAdd 32 c.rows 1 } }

/-- A corrected sector advances its counter (Table 13.6). -/
def countCe (m : Memory) (u : DramUnit) : Memory :=
  match u with
  | .hbm h => { m with hbm := m.hbm.upd h fun c => { c with ce := satAdd 32 c.ce 1 } }
  | .lp l => { m with lp := m.lp.upd l fun c => { c with ce := satAdd 32 c.ce 1 } }

/-- A corrected sector: counted, and the fourth distinct one of a row within 24 hours marks the row (R307, R309). -/
def sectorCorrected (m : Memory) (u : DramUnit) (sector now : Nat) : Memory :=
  let row := Config.dramRow sector
  let recent := m.ceSeen.filter fun x => decide (now ≤ x.time + 86400000000000) && !(x.unit == u && x.sector == sector)
  let m1 := { countCe m u with ceSeen := recent ++ [⟨u, row, sector, now⟩] }
  if 4 ≤ (m1.ceSeen.filter fun x => x.unit == u && x.row == row).length then
    match u with
    | .hbm h => markDue m1 h row
    | .lp l => markRow m1 l row
  else m1

/-- An uncorrectable sector found by the scrub: counted, logged with ACTION 0, left as it is; its row falls due when it is first
found (R305, R307, R413). -/
def sectorLost (d : Desk) (a : Nat) : Desk :=
  let m := if d.mem.ue.contains (a / 32) then d.mem else { d.mem with ue := d.mem.ue ++ [a / 32] }
  noteUe { d with mem := m } a none 0

/-- A user's read of a sector of a unit is corrected: counted, and its row judged (R303, R307, R323). -/
def readCorrected (d : Desk) (u : DramUnit) (sector : Nat) : Desk :=
  let a := unitAddr u (32 * sector % unitSize u) / 32
  if d.mem.ue.contains a then d else { d with mem := sectorCorrected d.mem u a d.now }

/-- The scrub reads the next sector of a unit. A sector known to be uncorrectable reads so whatever is found. A correction on the read
path of a user is of the sector `sector` of the unit, and the scrub stays where it is. -/
def scrubSector (d : Desk) (u : DramUnit) (sector : Nat) (f : Finding) : Desk :=
  let a := unitAddr u (scrubAt d.mem u)
  let d1 := { d with mem := scrubNext d.mem u }
  if f = .readCorrected then readCorrected d u sector
  else if d.mem.ue.contains (a / 32) then sectorLost d1 a
  else match f with
    | .uncorrectable => sectorLost d1 a
    | .corrected => { d1 with mem := sectorCorrected d1.mem u (a / 32) d.now }
    | _ => d1

/-- PATROL_SCRUB; and, with the finding `readCorrected`, the correction of a sector that a user of the unit reads (R323). -/
def execPatrolScrub (u : DramUnit) (sector : Nat) (f : Finding) (s : State) : Host.Outcome State Fault Refusal :=
  .next (if unitServes s u then settle { s with desk := scrubSector s.desk u sector f } else s)

/-- SCRUB_WAKE: in DOZE and NIGHT the memory paths are up for a burst of scrubbing; the module state and MEM_AWAKE stay. The
burst lasts until the clock next ticks. -/
def execScrubWake (s : State) : Host.Outcome State Fault Refusal :=
  .next (if s.elec.life == .running && !dramAwake s.np then updMem s fun m => { m with scrubBurst := true } else s)

/-- A row that is due is repaired from a bank with `spares` spare rows left, or stays for want of one (R307). -/
def repairRow (m : Memory) (h : Fin 12) (row spares : Nat) : Memory :=
  if spares = 0 then { m with hbm := m.hbm.upd h fun c => { c with noSpare := true, sparesLeft := 0 } }
  else
    let left := BitVec.ofNat 8 (min 255 (spares - 1))
    { m with
      dueRows := m.dueRows.erase (h, row), soft := m.soft ++ [(h, row)]
      hbm := m.hbm.upd h fun c => { c with
        softRepairs := BitVec.ofNat 8 (satAdd 8 c.softRepairs.toNat 1)
        sparesLeft := if (c.softRepairs = 0 ∧ !c.noSpare) ∨ left.toNat < c.sparesLeft.toNat then left else c.sparesLeft } }

/-- ROW_REPAIR. -/
def execRowRepair (h : Fin 12) (row spares : Nat) (s : State) : Host.Outcome State Fault Refusal :=
  .next (
    if unitServes s (.hbm h) && s.desk.mem.dueRows.contains (h, row) then updMem s fun m => repairRow m h row spares else s)

/-! ## SRAM scrubbers (R316, R318) -/

/-- Words of 64 bits of the memories of one macro (Table 1.5): CPS, ACM and SPS of a tile, a staging buffer of 32 MiB, 16 MiB of
Front Desk SRAM, 1 MiB of Night Porter SRAM, 256 KiB of secure SRAM (R26, R315). -/
def sramWords (u : SramUnit) : Nat :=
  match u with
  | .tile _ => tileWords
  | .spare _ _ => tileWords
  | .staging _ => 4194304
  | .frontDesk => 2097152
  | .nightPorter => 131072
  | .secure => 32768

/-- Whether an on-chip memory is at full voltage (Table 13.5). -/
def sramUp (s : State) (u : SramUnit) : Bool :=
  s.elec.life == .running &&
  match u with
  | .tile l => dramAwake s.np && !s.np.tripHold && tileServed s.fuses.grade s.desk l.val
  | .spare d x => dramAwake s.np && !s.np.tripHold && decide (d.val < gradeDies s.fuses.grade) && (s.desk.tiles.spares.at d).contains x
  | .staging d => dramAwake s.np && !s.np.tripHold && decide (d.val < gradeDies s.fuses.grade)
  | .frontDesk => s.np.state != .night
  | .nightPorter => true
  | .secure => true

/-- A corrected word advances its counter (Table 13.6). -/
def sramCorrected (m : Memory) (u : SramUnit) : Memory :=
  let die (d : Fin 4) : Memory := { m with sram := m.sram.upd d fun c => { c with ce := satAdd 32 c.ce 1 } }
  match u with
  | .tile l => die (fin 4 (l.val / 64))
  | .spare d _ => die d
  | .staging d => die d
  | _ => { m with hubCe := satAdd 32 m.hubCe 1 }

/-- An uncorrectable word of a tile that the scrubber finds: recorded, and the tile retired where R351 asks for it; else
counted with ACTION 0. -/
def tileScrubUe (s : State) (l : Fin 256) (word : Nat) : State :=
  let die := fin 4 (l.val / 64)
  match s.desk.tiles.serves.at l with
  | none => s
  | some x =>
    let d := countSramUe s.desk die
    let d1 := { d with tiles := { d.tiles with ues := d.tiles.ues ++ [⟨die, x, word, s.np.hours⟩] } }
    if ueRetires s.desk.tiles die x word s.np.hours then
      let r := retireFor (envOf s) d1 l 3 (tileRowOf word) 0
      noteTile l r.1 { s with desk := r.2 }
    else { s with desk := logFault d1 3 die.val (some l.val) none 0 (tileRowOf word) }

/-- An uncorrectable word of a spare that the scrubber finds: recorded, and the spare retired where R351 asks for it, with ACTION 0 in
either case (R413). -/
def spareUe (s : State) (die : Fin 4) (x word : Nat) : State :=
  let d := countSramUe s.desk die
  let gone := ueRetires s.desk.tiles die x word s.np.hours
  let t := { d.tiles with ues := d.tiles.ues ++ [⟨die, x, word, s.np.hours⟩] }
  let t1 := if gone then { t with spares := t.spares.upd die fun l => l.erase x, retired := t.retired ++ [(die, x)] } else t
  { s with desk := logFault { d with tiles := t1 } 3 die.val none none 0 (tileRowOf word) }

/-- An uncorrectable word that a scrubber finds (R316, R345). -/
def sramLost (s : State) (u : SramUnit) (word : Nat) : State :=
  match u with
  | .tile l => tileScrubUe s l word
  | .spare d x => spareUe s d x word
  | .staging d => { s with desk := logFault (countSramUe s.desk d) 4 d.val none none 0 0 }
  | .nightPorter => restartPorter (updMem s fun m => { m with hubUe := satAdd 32 m.hubUe 1 })
  | .frontDesk => faultReset 3 11 4 s
  | .secure => faultReset 3 11 4 s

/-- A pass over the SRAM of a die is complete with the last word of its staging buffer. -/
def passDone (m : Memory) (u : SramUnit) (word : Nat) : Memory :=
  match u with
  | .staging d =>
    if word + 1 = sramWords u then { m with sram := m.sram.upd d fun c => { c with scrub := satAdd 32 c.scrub 1 } } else m
  | _ => m

/-- SRAM_SCRUB: the scrubber reads word `word` of a macro; with the finding `readCorrected`, a scheduled access reads it and is
corrected (R316, R323). -/
def execSramScrub (u : SramUnit) (word : Nat) (f : Finding) (s : State) : Host.Outcome State Fault Refusal :=
  .next (
    if sramUp s u && decide (word < sramWords u) then
      let s1 := updMem s fun m => passDone m u word
      match f with
      | .clean => s1
      | .corrected => updMem s1 fun m => sramCorrected m u
      | .uncorrectable => settle (sramLost s1 u word)
      | .readCorrected => updMem s fun m => sramCorrected m u
    else s)

end Sys2Proof.Machine
end

