-- ==== Sys2Proof/Machine/QueueRegs.lean ====
section
/-!
DEFINITION. The queue registers as a partner writes them: submission queues (R203 to R206, Tables 9.1 to 9.3), SQ ring
memory (R396) and completion queues (R207, R208, Tables 9.4 and 9.5).
-/
namespace Sys2Proof.Machine

/-! ## Submission queues -/

/-- A write to a queue's registers reaches them only from the queue's own port (R203, R264). -/
def queueReach (s : State) (p : Fin 4) (n : Fin 64) : Bool := ownReach s p && queuePort n == p

/-- A new tail is good when it names an index of the ring and does not pass the head (R206). -/
def tailGood (q : Sq) (t : Nat) : Bool :=
  q.enable && decide (t < q.len) &&
  decide ((t + q.len - q.head.toNat) % q.len ≥ (q.tail.toNat + q.len - q.head.toNat) % q.len)

/-- The indices from the present tail up to a new one, each visible from now on. -/
def newVisible (q : Sq) (t now : Nat) : List (BitVec 12 × Nat) :=
  (List.range ((t + q.len - q.tail.toNat) % q.len)).map fun k => (BitVec.ofNat 12 ((q.tail.toNat + k) % q.len), now)

/-- A tail write (R206): the packets up to the new tail become visible, or TAIL_ERR is set. -/
def tailWritten (q : Sq) (t now : Nat) : Sq :=
  if tailGood q t then { q with tail := BitVec.ofNat 12 t, visible := q.visible ++ newVisible q t now }
  else { q with tailErr := true }

/-- A write to SQn_TAIL. The doorbell of an enabled queue wakes the module (code 1 of Table 14.3). -/
def sqTail (s : State) (n : Fin 64) (v : Word) : State :=
  let q := s.desk.sqs.at n
  let t := bits v.toNat 0 12
  let s1 := { s with desk := { s.desk with sqs := s.desk.sqs.put n (tailWritten q t s.desk.now) } }
  if q.enable then wake 1 s1 else s1

/-- The ring of a queue in SQ ring memory: its first byte and the byte past its end. -/
def ringRange (q : Sq) : Nat × Nat := (q.base.toNat, q.base.toNat + 128 * q.len)

/-- Whether a queue may be enabled (R205). -/
def sqValid (d : Desk) (n : Fin 64) (q : Sq) : Bool :=
  let others := ((List.range 64).map (fin 64)).filter fun i => i != n && (d.sqs.at i).enable
  let c := fin 64 q.cq.toNat
  decide (4 ≤ q.log2.toNat) && decide (q.log2.toNat ≤ 12) &&
  decide (q.base.toNat % (128 * q.len) = 0) &&
  (others.all fun i => !meets (ringRange q).1 (128 * q.len) (ringRange (d.sqs.at i)).1 (ringRange (d.sqs.at i)).2) &&
  decide (q.len + sumNat (others.map fun i => (d.sqs.at i).len) ≤ 32768) &&
  queuePort c == queuePort n && (d.cqs.at c).enable

/-- A write to SQn_CFG (R205, Table 9.2). -/
def sqCfgWritten (d : Desk) (n : Fin 64) (v : Word) : Sq :=
  let q := d.sqs.at n
  let q1 := { q with log2 := v.extractLsb' 1 4, cq := v.extractLsb' 5 6 }
  if v.getLsbD 0 then
    if q.enable then q
    else if sqValid d n q1 then { q1 with enable := true, head := 0, tail := 0, early := [], visible := [], allot := [] }
    else { q1 with cfgErr := true }
  else if q.enable then
    if uncompleted q = 0 then { q with enable := false } else { q with cfgErr := true }
  else q1

/-- A write to SQn_CFG. -/
def sqCfg (s : State) (n : Fin 64) (v : Word) : State :=
  { s with desk := { s.desk with sqs := s.desk.sqs.put n (sqCfgWritten s.desk n v) } }

/-- A write to SQ ring memory lands when all its bytes lie in one enabled ring of the port (R396). -/
def ringLands (d : Desk) (p : Fin 4) (off n : Nat) : Bool :=
  decide (1 ≤ n) && ((List.range 64).map (fin 64)).any fun i =>
    let q := d.sqs.at i
    queuePort i == p && q.enable && decide ((ringRange q).1 ≤ off) && decide (off + n ≤ (ringRange q).2)

/-- A write to SQ ring memory: whole, or not at all (R396). -/
def ringWrite (d : Desk) (p : Fin 4) (off : Nat) (data : Bytes) : Desk :=
  if ringLands d p off data.length then { d with ring := cellWrites d.ring off data } else d

/-! ## Completion queues -/

/-- A write to CQn_CFG (R207, Table 9.5). -/
def cqCfgWritten (c : Cq) (v : Word) : Cq :=
  let c1 := { c with
    log2 := v.extractLsb' 1 4, vector := v.extractLsb' 5 6, irq := v.getLsbD 11, report := v.getLsbD 12 }
  if v.getLsbD 0 then
    if c.enable then c
    else if 4 ≤ c1.log2.toNat ∧ c1.log2.toNat ≤ 12 then
      { c1 with enable := true, head := 0, tail := 0, phase := true, waiting := [] }
    else { c1 with cfgErr := true }
  else if c.enable then { c with enable := false, waiting := [] }
  else c1

/-- A write to CQn_CFG. -/
def cqCfg (s : State) (n : Fin 64) (v : Word) : State :=
  { s with desk := { s.desk with cqs := s.desk.cqs.upd n fun c => cqCfgWritten c v } }

/-- The entries of a completion queue that wait for room are written while Front Desk runs (R208). -/
def drainCq (awake : Bool) (d : Desk) (n : Fin 64) : Desk :=
  if awake then cqDrain (d.cqs.at n).waiting.length d n else d

/-- A write to CQn_HEAD (R208, R400). -/
def cqHead (s : State) (n : Fin 64) (v : Word) : State :=
  let d := { s.desk with cqs := s.desk.cqs.upd n fun c => { c with head := v.extractLsb' 0 12 } }
  { s with desk := drainCq (deskAwake s) d n }

/-! ## The commands -/

/-- SQ_TAIL_WRITE. -/
def execSqTailWrite (port : Fin 4) (sq : Fin 64) (v : Word) (s : State) : Host.Outcome State Fault Refusal :=
  .next (if queueReach s port sq then settle (sqTail s sq v) else s)

/-- SQ_RING_WRITE. -/
def execSqRingWrite (port : Fin 4) (off : BitVec 22) (data : Bytes) (s : State) : Host.Outcome State Fault Refusal :=
  .next (if ownReach s port then settle { s with desk := ringWrite s.desk port off.toNat data } else s)

/-- SQ_ENABLE: the write of a value whose ENABLE bit is 1. -/
def execSqEnable (port : Fin 4) (sq : Fin 64) (v : Word) (s : State) : Host.Outcome State Fault Refusal :=
  .next (if queueReach s port sq then settle (sqCfg s sq (v ||| 1)) else s)

/-- SQ_DISABLE: the write of a value whose ENABLE bit is 0. -/
def execSqDisable (port : Fin 4) (sq : Fin 64) (v : Word) (s : State) : Host.Outcome State Fault Refusal :=
  .next (if queueReach s port sq then settle (sqCfg s sq (v &&& ~~~ 1#32)) else s)

/-- CQ_ENABLE: the write of a value whose ENABLE bit is 1. -/
def execCqEnable (port : Fin 4) (cq : Fin 64) (v : Word) (s : State) : Host.Outcome State Fault Refusal :=
  .next (if queueReach s port cq then settle (cqCfg s cq (v ||| 1)) else s)

/-- CQ_DISABLE: the write of a value whose ENABLE bit is 0. -/
def execCqDisable (port : Fin 4) (cq : Fin 64) (v : Word) (s : State) : Host.Outcome State Fault Refusal :=
  .next (if queueReach s port cq then settle (cqCfg s cq (v &&& ~~~ 1#32)) else s)

/-- CQ_HEAD_WRITE. -/
def execCqHeadWrite (port : Fin 4) (cq : Fin 64) (v : Word) (s : State) : Host.Outcome State Fault Refusal :=
  .next (if queueReach s port cq then settle (cqHead s cq v) else s)

end Sys2Proof.Machine
end

