-- ==== Sys2Proof/Machine/Power.lean ====
section
/-!
DEFINITION. Night Porter (Chapter 14): sampling and filters (R324, R325), the controller of power and heat (R334 to R336),
the limiter (R337), thermal trips (R338, R339), descents and wakes (R327 to R331), re-planning (R341) and its own restart
(R342).
-/
namespace Sys2Proof.Machine

/-! ## Sampling (R324, R325) -/

/-- Channels 102 and 103 as the module's own registers give them (Table 14.1). -/
def linkChannel (s : State) (n : Nat) : Int :=
  if n = 102 then
    sumNat ((List.range (gradeUp s.fuses.grade)).map fun p => (s.desk.ports.at (fin 4 p)).guest.linkMode.toNat * 2 ^ (3 * p))
  else
    let code (p : Nat) : Nat := match (s.fab.ports.at (fin 16 p)).link with
      | .absent => 0 | .training => 1 | .up => 2 | .down => 3
    signed 32 (sumNat ((List.range 16).map fun p =>
      (if slPresent (envOf s) s.desk (fin 16 p) then code p else 0) * 2 ^ (2 * p)))

/-- The raw sample of a channel in a round. -/
def rawSample (s : State) (raw : List Word) (n : Nat) : Int :=
  if n = 102 ∨ n = 103 then linkChannel s n else (raw.getD n 0).toInt

/-- The filter of R325 after one more sample. -/
def filtered (shift : Nat) (y : Option Int) (x : Int) : Int :=
  match y with
  | none => x
  | some v => v + (x - v) / ((2 ^ shift : Nat) : Int)

/-- One round of samples. Channels that are not sampled, and the filters of 102 and 103, stay as they are. -/
def sampleAll (s : State) (raw : List Word) : Porter :=
  let p := s.np
  let on (n : Nat) : Bool := channelSampled s.fuses.grade n
  let x (n : Nat) : Int := rawSample s raw n
  let y (n : Nat) : Int :=
    if n = 102 ∨ n = 103 then x n else filtered (p.filt.at (fin 128 n)).toNat (p.y.at (fin 128 n)) (x n)
  { p with
    rounds := p.rounds + 1
    raw := Tab.gen 128 fun n => if on n then x n else p.raw.at (fin 128 n)
    val := Tab.gen 128 fun n => if on n then signed 32 (unsigned 32 (y n)) else p.val.at (fin 128 n)
    y := Tab.gen 128 fun n => if on n then some (y n) else p.y.at (fin 128 n) }

/-! ## The controller (R334) -/

/-- The hottest die sensor among sampled channels below `k`. -/
def hottest (g : Grade) (p : Porter) (k : Nat) : Int :=
  let l := ((List.range k).filter (channelSampled g)).map fun n => p.val.at (fin 128 n)
  l.foldl max (l.headD 0)

/-- The controller's reasons to go down: power above the cap, a die at 95 °C (R334). -/
def overCap (p : Porter) : Bool := decide ((1000 * p.cap : Nat) < p.val.at 101)
def overHeat (g : Grade) (p : Porter) : Bool := decide (95000 ≤ hottest g p 52)

/-- What one tick of the controller comes to: the clock, the gating, and whether it is a step down. -/
structure Tick where
  f : Nat
  gate : Nat
  down : Bool
deriving DecidableEq, Repr

/-- Whether it may go up. -/
def mayRise (g : Grade) (p : Porter) : Bool :=
  decide (p.val.at 101 < ((1000 * p.cap * 97 / 100 : Nat) : Int)) && decide (hottest g p 52 < 92000)

/-- One tick of R334 from the clock `f` in force. Under fixed timing it makes no step up (R335). -/
def controller (g : Grade) (p : Porter) (f : Nat) (fixed : Bool) : Tick :=
  let fp := plannedClock p
  let down := overCap p || overHeat g p
  let up := mayRise g p && !fixed
  if fp < f then ⟨fp, p.gate, false⟩
  else if down && decide (1000 < f) then ⟨f - 25, p.gate, true⟩
  else if down && decide (p.gate < 8) then ⟨f, p.gate + 1, true⟩
  else if up && decide (0 < p.gate) then ⟨f, p.gate - 1, false⟩
  else if up && decide (f < fp) then ⟨f + 25, p.gate, false⟩
  else ⟨f, p.gate, false⟩

/-- The end of a throttle, and the count of ticks below the plan (R336). -/
def reportThrottle (s : State) : State :=
  let p := s.np
  let below := decide (p.f < plannedClock p) || decide (0 < p.gate)
  if below then { s with np := { p with throttleCount := satAdd 32 p.throttleCount 1 } }
  else if p.capThrottle || p.thermalThrottle then
    porterSays { s with np := { p with capThrottle := false, thermalThrottle := false } } 6 [3, 0xFFFFFFFF]
  else s

/-- Whether a clock step waits for Front Desk's answer (R335). -/
def stepAsked (p : Porter) : Bool :=
  match p.asked with
  | some (.clockStop _ _ _ _ _) => true
  | _ => false

/-- The controller's tick. While a fixed-timing command is uncompleted, f is held where it is: no step up, and a step down of f or a step
of the gate only in a timed region, where Night Porter asks Front Desk first and holds f and gate until the step is made (R335). -/
def tickController (s : State) : State :=
  let fixed := fixedLive s.desk
  let g := s.fuses.grade
  let k := controller g s.np s.np.f fixed
  if stepAsked s.np then reportThrottle s
  else if !k.down then reportThrottle { s with np := { s.np with f := k.f, gate := k.gate } }
  else if timedLive s.desk then
    let s1 := porterSays s 3 [k.f, k.gate]
    reportThrottle { s1 with np := { s1.np with
      asked := some (.clockStop k.f k.gate s.desk.now (overCap s.np) (overHeat g s.np)) } }
  else if fixed && decide (k.f < s.np.f) then reportThrottle s
  else reportThrottle (stepDown s k.f k.gate (overCap s.np) (overHeat g s.np))

/-- A lower planned clock takes effect at a tick with no fixed-timing command uncompleted (R341); at 1,700 MHz or less
DEGRADED is reported (R340). -/
def applyPlan (s : State) : State :=
  match s.np.pendSteps with
  | none => s
  | some k =>
    if fixedLive s.desk then s
    else
      let s1 := { s with np := { s.np with steps := k, pendSteps := none } }
      if !aged s.np && aged s1.np then porterSays s1 6 [1, 0xFFFFFFFF] else s1

/-- Since when channels 0 to 47 have stayed below 85 °C under a trip (R338 step 4). -/
def coolDown (s : State) : State :=
  let p := s.np
  let cool := p.tripHold && decide (hottest s.fuses.grade p 48 < 85000)
  { s with np := { p with coolSince := if cool then p.coolSince.orElse fun _ => some s.desk.now else none } }

/-- The caps as written come into force at a tick (R409). -/
def latchCaps (g : Grade) (p : Porter) : Porter := { p with cap := leastCap g p, trayNow := p.trayCap }

/-- SAMPLE_ROUND: a round of samples each millisecond, then the controller; without firmware the samples alone (R281). -/
def execSampleRound (raw : List Word) (s : State) : Host.Outcome State Fault Refusal :=
  .next (
    if 1000000 * (s.np.rounds + 1) ≤ s.desk.now then
      match s.elec.life with
      | .running => settle (coolDown (tickController (applyPlan { s with np := latchCaps s.fuses.grade (sampleAll s raw) })))
      | .recovery => latchStatus { s with np := sampleAll s raw }
      | .retired => latchStatus { s with np := sampleAll s raw }
      | _ => s
    else s)

/-! ## The limiter (R337) -/

/-- LIMITER_ENGAGE: every other TCLK cycle is gated; a command in a timed region ends TIMING_BROKEN (R186). -/
def execLimiterEngage (s : State) : Host.Outcome State Fault Refusal :=
  .next (
    if s.elec.life == .running && !s.np.limiter then
      settle { s with
        np := { s.np with limiter := true, limiterAt := s.desk.now, limiterCount := satAdd 32 s.np.limiterCount 1 }
        desk := breakTiming s.desk }
    else s)

/-- LIMITER_RELEASE: at least 1 ms after the engagement. -/
def execLimiterRelease (s : State) : Host.Outcome State Fault Refusal :=
  .next (
    if s.elec.life == .running && s.np.limiter && decide (s.np.limiterAt + 1000000 ≤ s.desk.now) then
      settle { s with np := { s.np with limiter := false } }
    else s)

/-! ## Trips (R338, R339) -/

/-- The trips of the last 3,600 s, with one at `now`. -/
def tripsNow (p : Porter) (now : Nat) : List Nat := now :: p.tripTimes.filter fun t => decide (now ≤ t + 3600000000000)

/-- A trip: TCLK stops and the dies are held, Front Desk is told; the third within 3,600 s latches. A wake under way goes on, for Front
Desk runs on through a hold (R331, R338). -/
def tripDies (s : State) : State :=
  let times := tripsNow s.np s.desk.now
  let latch := decide (3 ≤ times.length)
  let s1 := porterSays { s with
    desk := { s.desk with tclkOff := true }
    np := { s.np with
      tripHold := true, tripLatched := latch, trips := satAdd 8 s.np.trips 1, tripTimes := times, coolSince := none
      asked := none } } 5 [0]
  if latch then porterSays s1 5 [2] else s1

/-- THERMAL_TRIP: a die sensor at or above 110 °C while the dies have power. -/
def execThermalTrip (s : State) : Host.Outcome State Fault Refusal :=
  .next (if s.elec.life == .running && !s.np.tripHold then settle (tripDies s) else s)

/-- TRIP_RESTORE: 1 s below 85 °C, and the trip not latched. -/
def execTripRestore (s : State) : Host.Outcome State Fault Refusal :=
  .next (
    if s.elec.life == .running && s.np.tripHold && !s.np.tripLatched &&
        (match s.np.coolSince with | some t => decide (t + 1000000000 ≤ s.desk.now) | none => false) then
      settle (wake 9 (porterSays { s with
        desk := { s.desk with tclkOff := false }
        np := { s.np with tripHold := false, coolSince := none } } 5 [1]))
    else s)

/-! ## Descents and wakes -/

/-- A setting of the NPI block as it acts: the nearest value within its range (R344). -/
def clampNpi (lo hi v : Nat) : Nat := max lo (min hi v)

/-- The state that NPI.FLOOR names. -/
def floorOf (p : Porter) : Nat := clampNpi 1 4 p.floor.toNat

/-- The descent that is due: its target (R329). -/
def descentDue (s : State) : Option Nat :=
  let p := s.np
  let since (d : Nat) : Bool := decide (p.timer + d ≤ s.desk.now)
  let target := match p.state with
    | .idle => if p.quiet && since (1000 * clampNpi 1 1000000 p.idleNap.toNat) then some 2 else none
    | .nap => if since (1000 * clampNpi 1 1000000 p.napDoze.toNat) then some 3 else none
    | .doze => if since (1000000000 * p.dozeNight.toNat) then some 4 else none
    | _ => none
  target.filter fun t => descentHolds s t && decide (t ≤ floorOf p)

/-- DESCENT_TIMER_EXPIRY: Night Porter asks Front Desk (Table 14.8). -/
def execDescentTimerExpiry (s : State) : Host.Outcome State Fault Refusal :=
  .next (
    if s.elec.life == .running && s.np.asked.isNone && !s.np.waking then
      match descentDue s with
      | some t => settle (porterSays { s with np := { s.np with asked := some (.descend t) } } 2 [t])
      | none => s
    else s)

/-- The entries that waited for room while Front Desk stood still. -/
def drainAll (d : Desk) : Desk := ((List.range 64).map (fin 64)).foldl (drainCq true) d

/-- Whether a wake can complete: a thermal trip holds one from NIGHT, which has to power the compute dies, until the restore; a latched
trip leaves them off for good and holds nothing (R327, R332, R338, R339). -/
def mayWake (p : Porter) : Bool := p.waking && !(p.tripHold && !p.tripLatched && p.left == 4)

/-- WAKE_COMPLETE: the module is in IDLE; Front Desk learns cause and state left (R327, R328). -/
def execWakeComplete (s : State) : Host.Outcome State Fault Refusal :=
  .next (
    if s.elec.life == .running && mayWake s.np then
      let s1 := { s with
        np := { s.np with state := .idle, waking := false, timer := s.desk.now, memPaths := [] }
        desk := drainAll (if s.np.left = 4 && !s.np.tripHold then afterNight s.desk else s.desk) }
      settle (porterSays s1 7 [s.np.wakeCause.toNat, s.np.left])
    else s)

/-- MEM_PATH_SLEEP: every memory path that has had no code 8 access for 1 ms returns to self-refresh (R330). -/
def execMemPathSleep (s : State) : Host.Outcome State Fault Refusal :=
  .next (
    if s.elec.life == .running then
      { s with np := { s.np with memPaths := s.np.memPaths.filter fun x => decide (s.desk.now < x.2 + 1000000) } }
    else s)

/-! ## Re-planning and restart -/

/-- Whether the compute dies are at full voltage (R341). -/
def diesUp (p : Porter) : Bool := !p.tripHold && (p.state == .active || p.state == .idle || p.state == .nap)

/-- AGEING_REPLAN: a due re-plan. A higher VOFF is applied at once; a lower clock waits for a tick. -/
def execAgeingReplan (s : State) : Host.Outcome State Fault Refusal :=
  .next (
    if s.elec.life == .running && s.np.planDue && diesUp s.np then
      let steps := s.np.pendSteps.getD s.np.steps
      let p := replan (monitors s.fuses.grade s.desk) s.np.voff steps s.desk.freeCtr
      let s1 := { s with
        desk := { s.desk with freeCtr := p.n }
        np := { s.np with
          voff := p.voff, worst := p.least.2, plans := satAdd 8 s.np.plans 1, planDue := false
          pendSteps := if p.steps = s.np.steps then none else some p.steps } }
      settle (porterSays s1 4 [p.voff, p.fp])
    else s)

/-- NP_WATCHDOG. -/
def execNpWatchdog (s : State) : Host.Outcome State Fault Refusal :=
  .next (if s.elec.life == .running then settle (restartPorter s) else s)

end Sys2Proof.Machine
end

