-- ==== Sys2Proof/Machine/Regs.lean ====
section
/-!
DEFINITION. BAR0 as partners read and write it: SQC.NOW and fences (R209), GCTL (R178, R399), the Ledger mirror (R201, R202),
and REGISTER_WRITE over the whole block map (R13, R263, R394, Table 18.1).
-/
namespace Sys2Proof.Machine

/-! ## Reads with a side effect (R209) -/

/-- NOW_HI latched. -/
def nowLatch (s : State) : State := { s with desk := { s.desk with nowHi := BitVec.ofNat 32 (s.desk.now / 2 ^ 32) } }

/-- NOW_READ: the low word, with NOW_HI latched. -/
def execNowRead (port : Fin 4) (s : State) : Host.Outcome State Fault Refusal :=
  .next (if modReach s port then { nowLatch s with reply := .reg (BitVec.ofNat 32 s.desk.now) } else s)

/-- FENCEf_HI latched. -/
def fenceLatch (s : State) (f : Fin 256) : State :=
  { s with desk := { s.desk with fences := s.desk.fences.upd f fun x => { x with hiLatch := x.value.extractLsb' 32 32 } } }

/-- FENCE_VALUE_READ: the low word, with FENCEf_HI latched. The fences of an absent port read 0 (R395). -/
def execFenceValueRead (port : Fin 4) (f : Fin 256) (s : State) : Host.Outcome State Fault Refusal :=
  .next (
    if !modReach s port then s
    else if portPresent s.fuses.grade (fin 4 (f.val / 64)) then
      { fenceLatch s f with reply := .reg ((s.desk.fences.at f).value.extractLsb' 0 32) }
    else { s with reply := .reg 0 })

/-! ## GCTL -/

/-- A write to GCTL.MODE: the mode, its EVENT record, and a wake of code 7 (R178, R328). -/
def gctlMode (s : State) (p : Fin 4) (v : Word) : State :=
  let d := s.desk
  let g := { d.gctl with detStrict := v.getLsbD 0, fixedTiming := v.getLsbD 1, timingClass := v.extractLsb' 2 2 }
  wake 7 { s with desk := eventRecord { d with gctl := g } 0xFF 0xFF 0 0 1 p.val 0 (bits v.toNat 0 4) }

/-- GCTL_MODE_WRITE. -/
def execGctlModeWrite (port : Fin 4) (v : Word) (s : State) : Host.Outcome State Fault Refusal :=
  .next (if modReach s port then settle (gctlMode s port v) else s)

/-! ## The Ledger mirror (R202) -/

/-- The length of the host ring (Table 8.12). -/
def mirrorLen (l : Ledger) : Nat := 2 ^ (if 6 ≤ l.log2.toNat ∧ l.log2.toNat ≤ 16 then l.log2.toNat else 6)

/-- Whether the host ring has room for the next record. -/
def mirrorRoom (l : Ledger) : Bool := decide (l.mirrored - l.tail.toNat < mirrorLen l)

/-- ENABLE goes from 0 to 1: mirroring starts at the oldest record on chip when records before it were overwritten. -/
def mirrorOn (l : Ledger) : Ledger :=
  let gap := l.head - 256 - l.mirrored
  if gap = 0 then { l with enable := true }
  else { l with enable := true, mirrored := l.mirrored + gap, lost := true, lostCount := satAdd 32 l.lostCount gap }

/-- A write to LGR.CTL by the partner on a port (R202, R273). -/
def mirrorCtl (l : Ledger) (p : Fin 4) (on : Bool) : Ledger :=
  if on then { (if l.enable then l else mirrorOn l) with port := p } else { l with enable := false, lag := false }

/-- A write to LGR.CTL, with its wake of code 7. -/
def ledgerCtl (s : State) (p : Fin 4) (v : Word) : State :=
  wake 7 { s with desk := { s.desk with ledger := mirrorCtl s.desk.ledger p (v.getLsbD 0) } }

/-- LEDGER_MIRROR_ENABLE: a write to LGR.CTL. -/
def execLedgerMirrorEnable (port : Fin 4) (v : Word) (s : State) : Host.Outcome State Fault Refusal :=
  .next (if modReach s port then settle (ledgerCtl s port v) else s)

/-- The next record goes to the host ring, waits for room with LAG, or ends the mirror by a window fault. -/
def mirrorNext (d : Desk) : Desk :=
  let l := d.ledger
  if !l.enable || decide (l.head ≤ l.mirrored) || (d.ports.at l.port).leaves then d
  else if !mirrorRoom l then { d with ledger := { l with lag := true } }
  else
    let r := hostStore (d.ports.at l.port) (l.base.toNat + 128 * (l.mirrored % mirrorLen l)) (l.ring.at (fin 256 l.mirrored)) 2
    let d1 := { d with ports := d.ports.put l.port r.1 }
    if r.2 then { d1 with ledger := { l with mirrored := l.mirrored + 1, lag := false } }
    else { d1 with ledger := { l with enable := false, windowGone := true, lag := false } }

/-- LEDGER_MIRROR_WRITE. -/
def execLedgerMirrorWrite (s : State) : Host.Outcome State Fault Refusal :=
  .next (if deskAwake s then settle { s with desk := mirrorNext s.desk } else s)

/-- Half of a 64-bit register replaced. -/
def setLo (x : BitVec 64) (v : Word) : BitVec 64 := x.extractLsb' 32 32 ++ v
def setHi (x : BitVec 64) (v : Word) : BitVec 64 := v ++ x.extractLsb' 0 32

/-- LAG ends when the host makes room. -/
def relag (l : Ledger) : Ledger := { l with lag := l.lag && !mirrorRoom l }

/-- The other LGR registers (Tables 8.12 and 8.13), by offset from 0x009_0000. -/
def lgrWrite (l : Ledger) (off : Nat) (v : Word) : Ledger :=
  match off with
  | 0x04 => { l with base := setLo l.base (v &&& 0xFFFFF000#32) }
  | 0x08 => { l with base := setHi l.base v }
  | 0x0C => relag { l with log2 := v.extractLsb' 0 5 }
  | 0x20 => relag { l with tail := setLo l.tail v }
  | 0x24 => relag { l with tail := setHi l.tail v }
  | 0x28 => { l with lost := l.lost && !v.getLsbD 1, windowGone := l.windowGone && !v.getLsbD 2 }
  | _ => l

/-! ## Queue registers -/

/-- The registers of a submission queue (Table 9.1), by offset. -/
def sqWrite (s : State) (n : Fin 64) (off : Nat) (v : Word) : State :=
  let upd (f : Sq → Sq) : State := { s with desk := { s.desk with sqs := s.desk.sqs.upd n f } }
  match off with
  | 0x00 => sqCfg s n v
  | 0x04 => upd fun q => if q.enable then q else { q with base := v.extractLsb' 0 22 }
  | 0x08 => sqTail s n v
  | 0x10 => upd fun q => { q with cfgErr := q.cfgErr && !v.getLsbD 1, tailErr := q.tailErr && !v.getLsbD 2 }
  | 0x14 => upd fun q => { q with hang := v.extractLsb' 0 16 }
  | _ => s

/-- The registers of a completion queue (Table 9.4), by offset. -/
def cqWriteReg (s : State) (n : Fin 64) (off : Nat) (v : Word) : State :=
  let upd (f : Cq → Cq) : State := { s with desk := { s.desk with cqs := s.desk.cqs.upd n f } }
  let idle (f : Cq → Cq) : State := upd fun c => if c.enable then c else f c
  match off with
  | 0x00 => cqCfg s n v
  | 0x04 => idle fun c => { c with base := setLo c.base (v &&& 0xFFFFFFC0#32) }
  | 0x08 => idle fun c => { c with base := setHi c.base v }
  | 0x0C => cqHead s n v
  | 0x14 => idle fun c => { c with rpt := setLo c.rpt (v &&& 0xFFFFFF80#32) }
  | 0x18 => idle fun c => { c with rpt := setHi c.rpt v }
  | 0x1C => upd fun c => { c with windowGone := c.windowGone && !v.getLsbD 1, cfgErr := c.cfgErr && !v.getLsbD 2 }
  | _ => s

/-! ## The port region of DWT (Table 11.6) -/

/-- A register of a DMA window (R272, R274). -/
def dwWrite (w : DmaWindow) (off : Nat) (v : Word) : DmaWindow :=
  match off with
  | 0x0 => if w.en then w else { w with base := setLo w.base (v &&& 0xFFFFF000#32) }
  | 0x4 => if w.en then w else { w with base := setHi w.base v }
  | 0x8 => if w.en then w else { w with pagesM1 := v.extractLsb' 0 19 }
  | 0xC => { w with en := v.getLsbD 0, rd := v.getLsbD 1, wr := v.getLsbD 2 }
  | _ => w

/-- A register of an aperture window (Table 11.5). -/
def apwWrite (w : Aperture) (hi : Bool) (v : Word) : Aperture :=
  if hi then { w with base := v.extractLsb' 0 12 ++ w.base.extractLsb' 0 2 }
  else { en := v.getLsbD 0, base := w.base.extractLsb' 2 12 ++ v.extractLsb' 30 2 }

/-- The port region, by offset. -/
def dwtWrite (q : Port) (off : Nat) (v : Word) : Port :=
  if off < 0x400 then { q with dw := q.dw.upd (fin 64 (off / 16)) fun w => dwWrite w (off % 16) v }
  else if off < 0x600 then { q with apw := q.apw.upd (fin 64 ((off - 0x400) / 8)) fun w => apwWrite w (off % 8 == 4) v }
  else if off = 0x608 then { q with fault := { q.fault with valid := q.fault.valid && !v.getLsbD 0 } }
  else q

/-! ## NPI (Tables 14.9 and 14.10) -/

/-- The descent timer restarts in a state (R400). -/
def restartIn (p : Porter) (st : PState) (now : Nat) : Porter := if p.state = st then { p with timer := now } else p

/-- A register of the NPI block, by offset from 0x00B_0000. -/
def npiWrite (g : Grade) (now : Nat) (p : Porter) (off : Nat) (v : Word) : Porter :=
  if off = 0x00 then { p with npRestart := p.npRestart && !v.getLsbD 9 }
  else if off = 0x04 then restartIn { p with idleNap := v.extractLsb' 0 20 } .idle now
  else if off = 0x08 then restartIn { p with napDoze := v.extractLsb' 0 20 } .nap now
  else if off = 0x0C then restartIn { p with dozeNight := v.extractLsb' 0 16 } .doze now
  else if off = 0x10 then { p with floor := v.extractLsb' 0 3 }
  else if off = 0x14 then { p with pcapHost := v.extractLsb' 0 16 }
  else if 0x100 ≤ off ∧ off < 0x300 ∧ off % 4 = 0 ∧ filterThere g ((off - 0x100) / 4) then
    let n := fin 128 ((off - 0x100) / 4)
    { p with filt := p.filt.put n (v.extractLsb' 0 4), y := p.y.put n none }
  else p

/-! ## FAB and SEC -/

/-- A register of the FAB block (Tables 12.8 and 12.9), by offset from 0x00E_0000. -/
def fabWrite (g : Grade) (f : Fabric) (off : Nat) (v : Word) : Fabric :=
  if gradeSl g = 0 then f
  else if off = 0 then { f with timeout := v.extractLsb' 0 14 }
  else if 0x100 ≤ off ∧ off < 0x300 ∧ off % 0x20 = 0 ∧ (off - 0x100) / 0x20 < gradeSl g then
    { f with ports := f.ports.upd (fin 16 ((off - 0x100) / 0x20)) fun q =>
      { q with cableErr := q.cableErr && !v.getLsbD 12, dupId := q.dupId && !v.getLsbD 13 } }
  else f

/-- SEC.WIPE (Table 16.8). -/
def wipeWrite (x : Secure) (v : Word) : Secure :=
  { x with
    wipeCase := x.wipeCase && !v.getLsbD 0, wipeV := x.wipeV && !v.getLsbD 1, wipeC := x.wipeC && !v.getLsbD 2
    wipeLc := x.wipeLc && !v.getLsbD 3 }

/-! ## The MSI-X table (R265) -/

/-- A word of an entry of the MSI-X table; an entry unmasked sends its pending message. -/
def msixWrite (d : Desk) (p : Fin 4) (off : Nat) (v : Word) : Desk :=
  let n := fin 64 (off / 16)
  let set (f : MsixEntry → MsixEntry) : Desk := updPort d p fun q => { q with msix := q.msix.upd n f }
  match off % 16 with
  | 0 => set fun e => { e with addr := setLo e.addr (v &&& 0xFFFFFFFC#32) }
  | 4 => set fun e => { e with addr := setHi e.addr v }
  | 8 => set fun e => { e with data := v }
  | 12 => if v.getLsbD 0 then set fun e => { e with mask := true } else unmaskMsix d p (.vector n)
  | _ => d

/-! ## The MBX region of a port (Table 10.2) -/

/-- A register of the host pair and doorbells of UPp, by offset. -/
def mbxWrite (s : State) (p : Fin 4) (off : Nat) (v : Word) : State :=
  match off with
  | 0x200 => setDoorbell s (.fdHost p) v
  | 0x210 => { s with mbx := { s.mbx with host := s.mbx.host.upd p fun b => { b with pend := b.pend &&& ~~~ v } } }
  | 0x214 => maskBell s (.host p) v
  | 0x218 => { s with mbx := { s.mbx with host := s.mbx.host.upd p fun b =>
      { b with vector := v.extractLsb' 0 6, irq := v.getLsbD 6 } } }
  | _ => pairWrite s (.h2f p) (.f2h p) off v

/-! ## The block map (Table 18.1) -/

/-- Bytes of a patch window replaced (R224). -/
def windowWrite (d : Desk) (off : Nat) (v : Word) : Desk :=
  { d with itins := d.itins.upd (fin 256 (off / 256)) fun i => { i with window := spliceBytes i.window (off % 256) (leBytes 4 v.toNat) } }

/-- A write to a block of the module (R278: from every bound, arriving or departing partner). -/
def modWrite (s : State) (p : Fin 4) (off : Nat) (v : Word) : State :=
  let onNp (q : Porter) : State := { s with np := q }
  if off = 0x1000 then gctlMode s p v
  else if off = 0x1004 then { s with desk := { s.desk with gctl := { s.desk.gctl with ckpt := v.extractLsb' 0 16 } } }
  else if off = 0x11000 then { s with desk := { s.desk with slice := v.extractLsb' 0 10 } }
  else if 0x38000 ≤ off ∧ off < 0x40000 then
    match lockOffset off 0x38004 with
    | some n => { s with locks := lockReleased s.locks (partnerId p) n v }
    | none => s
  else if 0x50000 ≤ off ∧ off < 0x60000 then { s with desk := windowWrite s.desk (off - 0x50000) v }
  else if off = 0x90000 then ledgerCtl s p v
  else if 0x90000 ≤ off ∧ off < 0x98000 then
    { s with desk := { s.desk with ledger := lgrWrite s.desk.ledger (off - 0x90000) v } }
  else if 0xB0000 ≤ off ∧ off < 0xC0000 then onNp (npiWrite s.fuses.grade s.desk.now s.np (off - 0xB0000) v)
  else if off = 0xD0008 then fwCtl s v
  else if off = 0xD002C then { s with sec := wipeWrite s.sec v }
  else if 0xE0000 ≤ off ∧ off < 0xF0000 then { s with fab := fabWrite s.fuses.grade s.fab (off - 0xE0000) v }
  else if 0x3F00000 ≤ off ∧ off < 0x3F00400 then { s with desk := msixWrite s.desk p (off - 0x3F00000) v }
  else s

/-- A write to a block that belongs to a port: it reaches that of the writer's own (R264). -/
def portWrite (s : State) (p : Fin 4) (off : Nat) (v : Word) : State :=
  if 0x10000 ≤ off ∧ off < 0x11000 then
    let n := fin 64 ((off - 0x10000) / 64)
    if queuePort n = p then sqWrite s n (off % 64) v else s
  else if 0x20000 ≤ off ∧ off < 0x21000 then
    let n := fin 64 ((off - 0x20000) / 64)
    if queuePort n = p then cqWriteReg s n (off % 64) v else s
  else if 0x30000 + 0x800 * p.val ≤ off ∧ off < 0x30800 + 0x800 * p.val then mbxWrite s p (off - 0x30000 - 0x800 * p.val) v
  else if 0x40000 + 0x1000 * p.val ≤ off ∧ off < 0x41000 + 0x1000 * p.val then
    { s with desk := updPort s.desk p fun q => dwtWrite q (off - 0x40000 - 0x1000 * p.val) v }
  else s

/-- Whether an offset lies in a block that belongs to a port. -/
def portBlock (off : Nat) : Bool :=
  (decide (0x10000 ≤ off) && decide (off < 0x11000)) || (decide (0x20000 ≤ off) && decide (off < 0x38000)) ||
  (decide (0x40000 ≤ off) && decide (off < 0x48000))

/-- One 32-bit register write (R398: applied whole). -/
def wordWrite (p : Fin 4) (s : State) (off : Nat) (v : Word) : State :=
  if portBlock off then (if ownReach s p then portWrite s p off v else s)
  else if modReach s p then modWrite s p off v
  else s

/-- A write of whole words, in ascending address order (R263). -/
def wordsWrite (p : Fin 4) : Nat → Nat → Bytes → State → State
  | 0, _, _, s => s
  | k + 1, off, bs, s => wordsWrite p k (off + 4) (bs.drop 4) (wordWrite p s off (BitVec.ofNat 32 (leNat (bs.take 4))))

/-- The SQ ring memory within BAR0 (Table 18.1). -/
def inRings (off : Nat) : Bool := decide (0x100000 ≤ off) && decide (off < 0x500000)

/-- A write through BAR0 (R263, R396). -/
def barWrite (s : State) (p : Fin 4) (off : Nat) (data : Bytes) : State :=
  if inRings off then
    if ownReach s p then { s with desk := ringWrite s.desk p (off - 0x100000) data } else s
  else if off % 4 = 0 then wordsWrite p (data.length / 4) off data s
  else s

/-- REGISTER_WRITE. -/
def execRegisterWrite (port : Fin 4) (off : BitVec 26) (data : Bytes) (s : State) : Host.Outcome State Fault Refusal :=
  .next (settle (barWrite s port off.toNat data))

end Sys2Proof.Machine
end

