-- ==== Sys2Proof/Machine/Usb.lean ====
section
/-!
DEFINITION. The USB 2.0 service function (R281, R282, Table 11.12) and the recovery path of the boot ROM (R370).
-/
namespace Sys2Proof.Machine

/-- Whether Night Porter's image or its service code serves a port (R281). -/
def usbServed (s : State) (port : Fin 4) : Bool := isUp s && portPresent s.fuses.grade port

/-- What a host finds when it enumerates the device of a port (R281). -/
structure UsbDevice where
  deviceClass : Byte
  subclass : Byte
  protocol : Byte
  highSpeed : Bool
  functions : Nat
  control : Nat          -- the control endpoint
  bulkOut : Nat          -- the bulk endpoints, by number
  bulkIn : Nat
  packet : Nat           -- bytes of a packet
deriving DecidableEq, Repr

/-- The device: one vendor-specific function at high speed, EP0 control, EP1 bulk OUT and IN, packets of 512 bytes (R281). -/
def usbDevice : UsbDevice := ⟨0xFF, 0x00, 0x00, true, 1, 0, 1, 1, 512⟩

/-- An answer of the service function, or STALL. -/
def usbAnswer (s : State) (port : Fin 4) (allowed : Bool) (r : Reply) : State :=
  { s with reply := if usbServed s port && allowed then r else .nack }

/-- GET_IDENT, 32 bytes. -/
def identBytes (s : State) : Bytes :=
  leBytes 4 (gradeUnits s.fuses.grade).toNat ++ leBytes 4 s.desk.gctl.fwVersion.toNat ++
  leBytes 4 s.desk.gctl.epoch.toNat ++ leBytes 4 (lcCode s.sec.lifecycle) ++ leBytes 4 s.desk.bootId.toNat ++
  leBytes 4 s.elec.moduleId.toNat ++ leBytes 4 (stateCode s.np.state) ++ leBytes 4 0

/-- Words MSG2 to MSG5 of a SENSOR_REPLY, 16 bytes (R249). -/
def sensorBytes (s : State) (n : Fin 128) : Bytes := ((sensorWords s n).drop 1).flatMap fun w => leBytes 4 w.toNat

/-- GET_SENSOR. -/
def execGetSensor (port : Fin 4) (channel : Fin 128) (s : State) : Host.Outcome State Fault Refusal :=
  .next (usbAnswer s port true (.bytes (sensorBytes s channel)))

/-- The code of a guest entry's state (Table 11.9). -/
def guestCode (g : GuestState) : Nat :=
  match g with
  | .empty => 0 | .arriving => 1 | .bound => 2 | .departing => 3

/-- A guest entry as it reads, 64 bytes (Tables 11.8 and 11.9). -/
def guestBytes (g : Guest) : Bytes :=
  leBytes 4 (guestCode g.state + 4 * g.linkMode.toNat + 32 * b2n g.usb2 + 65536 * g.arrivals) ++ leBytes 4 0 ++
  leBytes 16 g.uuid.toNat ++ leBytes 8 g.topo.toNat ++ leBytes 8 g.arrive ++ leBytes 8 g.depart ++
  leBytes 4 (g.cause.toNat + 65536 * g.departs) ++ leBytes 12 0

/-- The guest register, UP0 first; the entry of an absent port reads 0 (R276). -/
def guestsBytes (s : State) : Bytes :=
  ((List.range 4).map (fin 4)).flatMap fun p =>
    if portPresent s.fuses.grade p then guestBytes (s.desk.ports.at p).guest else leBytes 64 0

/-- GET_GUESTS: not served in RETIRED (R381). -/
def execGetGuests (port : Fin 4) (s : State) : Host.Outcome State Fault Refusal :=
  .next (usbAnswer s port (s.elec.life != .retired) (.bytes (guestsBytes s)))

/-! ## Recovery (R370) -/

/-- Whether a recovery request of a port is served: in recovery mode only. -/
def recoveryServed (s : State) (port : Fin 4) : Bool := s.elec.life == .recovery && portPresent s.fuses.grade port

/-- The bytes that Front Desk SRAM can take (R319). -/
def recoveryRoom : Nat := 16777216

/-- The recovery path with its state brought up to the bytes received. -/
def received (r : Recovery) : Recovery := { r with state := if r.data.length < r.expect then 1 else 2 }

/-- RECOVERY_OPEN. -/
def execRecoveryOpen (port : Fin 4) (len : BitVec 64) (s : State) : Host.Outcome State Fault Refusal :=
  .next (
    if recoveryServed s port then { s with recov := received ⟨1, len.toNat, []⟩, reply := .ok }
    else { s with reply := .nack })

/-- Bytes of the image, as far as it is long and the SRAM has room. -/
def takeImage (r : Recovery) (data : Bytes) : Recovery :=
  received { r with data := r.data ++ data.take (min r.expect recoveryRoom - r.data.length) }

/-- RECOVERY_IMAGE_DATA: bytes on bulk OUT while an image is being received. -/
def execRecoveryImageData (port : Fin 4) (data : Bytes) (s : State) : Host.Outcome State Fault Refusal :=
  .next (if recoveryServed s port && s.recov.state == 1 then { s with recov := takeImage s.recov data } else s)

/-- RECOVERY_STATUS, 8 bytes. -/
def execRecoveryStatus (port : Fin 4) (s : State) : Host.Outcome State Fault Refusal :=
  .next { s with reply :=
    if recoveryServed s port then .bytes (leBytes 4 s.recov.data.length ++ leBytes 4 s.recov.state.toNat) else .nack }

/-- The slot that a recovery image goes to: the first that is empty, FAILED or does not verify, or the one not active. -/
def recoverySlot (vroot : Bytes) (lc : Lifecycle) (type : Nat) (f : FwType) : Fin 2 :=
  let bad (k : Fin 2) : Bool := (f.slots.at k).failed || (f.slots.at k).image.isEmpty || !bootable vroot lc type f k
  if bad 0 then 0 else if bad 1 then 1 else f.active + 1

/-- The image is written to its slot, which becomes active. -/
def recoverSlot (f : FwType) (k : Fin 2) (b : Bytes) : FwType :=
  { f with
    slots := f.slots.put k ⟨b.take (imageLen b), false⟩, active := k
    pending := if f.pending = some k then none else f.pending }

/-- A staged image that passes is written, and the boot goes on from step 2. -/
def recoverBoot (s : State) (type : Nat) (f : BootFindings) : State :=
  let ft := fwOf s.sec (type - 1)
  let x := setFw s.sec (type - 1)
    (recoverSlot ft (recoverySlot s.fuses.vroot s.sec.lifecycle type ft) s.recov.data)
  latchStatus <| bootSlots { s with
    sec := { x with recovered := true, fd := { x.fd with running := none }, np := { x.np with running := none } }
    recov := ⟨0, 0, []⟩, reply := .ok } f

/-- The type of a staged image, and the result of the checks of R371 on it. -/
def recoveryVerdict (s : State) : Nat × Nat :=
  let type := field s.recov.data 4 1
  (type, if type = 1 ∨ type = 2 then
    imageVerdictCode s.fuses.vroot s.sec.lifecycle (fwOf s.sec (type - 1)).rollback type s.recov.data else 5)

/-- RECOVERY_BOOT. -/
def execRecoveryBoot (port : Fin 4) (f : BootFindings) (s : State) : Host.Outcome State Fault Refusal :=
  .next (
    if recoveryServed s port then
      if (recoveryVerdict s).2 = 1 then recoverBoot s (recoveryVerdict s).1 f
      else { s with recov := { s.recov with state := 3 }, reply := .ok }
    else { s with reply := .nack })

/-! ## Every request (Table 11.12) -/

/-- The requests of Table 11.12. -/
inductive UsbRequest where
  | getIdent
  | getSensor (channel : Fin 128)
  | getGuests
  | recoveryOpen
  | recoveryStatus
  | recoveryBoot
deriving DecidableEq, Repr

/-- The request of Table 11.12 that a setup packet makes: bRequest, direction, wValue and length all as the table has them. -/
def usbRequest (x : UsbSetup) : Option UsbRequest :=
  match x.request.toNat with
  | 0x01 => if x.dirIn && x.value == 0 && x.length == 32 then some .getIdent else none
  | 0x02 => if x.dirIn && decide (x.value.toNat < 128) && x.length == 16 then some (.getSensor (fin 128 x.value.toNat)) else none
  | 0x03 => if x.dirIn && x.value == 0 && x.length == 256 then some .getGuests else none
  | 0x10 => if !x.dirIn && x.value == 0 && x.length == 8 then some .recoveryOpen else none
  | 0x11 => if x.dirIn && x.value == 0 && x.length == 8 then some .recoveryStatus else none
  | 0x12 => if !x.dirIn && x.value == 0 && x.length == 0 then some .recoveryBoot else none
  | _ => none

/-- GET_IDENT, as the request it names; or, for `other`, any vendor request by its setup packet, which is answered with STALL unless it is
one of Table 11.12. A request of the table has a row of its own, which answers it, and leaves no answer here. -/
def execGetIdent (q : UsbAsk) (s : State) : Host.Outcome State Fault Refusal :=
  .next (match q.other with
    | none => usbAnswer s q.port true (.bytes (identBytes s))
    | some x => match usbRequest x with
      | none => usbAnswer s q.port false .nack
      | some .getIdent => usbAnswer s q.port true (.bytes (identBytes s))
      | some _ => s)

end Sys2Proof.Machine
end

