-- ==== Sys2Proof/Machine/Smbus.lean ====
section
/-!
DEFINITION. The SMBus target of the tray manager (R408 to R410, Tables 19.4 and 19.5).
-/
namespace Sys2Proof.Machine

/-- A transaction with the target; it does not acknowledge its address while it is out of service (R408). -/
def smbus (s : State) (f : State → State) : State := if isUp s then f s else { s with reply := .nack }

/-- IDENT, 16 bytes. -/
def smbIdent (s : State) : Bytes :=
  leBytes 4 (gradeUnits s.fuses.grade).toNat ++ leBytes 8 s.fuses.serial.toNat ++ leBytes 1 s.elec.moduleId.toNat ++
  leBytes 1 (lcCode s.sec.lifecycle) ++ leBytes 1 (stateCode s.np.state) ++ [0]

/-- IDENT. -/
def execIdent (s : State) : Host.Outcome State Fault Refusal :=
  .next (smbus s fun s => { s with reply := .bytes (smbIdent s) })

/-- STATUS, a word. -/
def execStatus (s : State) : Host.Outcome State Fault Refusal :=
  .next (smbus s fun s => { s with reply := .bytes (leBytes 2 (statusWord s).toNat) })

/-- SENSOR. -/
def execSensor (channel : Fin 128) (s : State) : Host.Outcome State Fault Refusal :=
  .next (smbus s fun s => { s with reply := .bytes (sensorBytes s channel) })

/-- A tray cap as it acts: 0 for none, otherwise within 400 W and the sustained power of the grade. -/
def trayCapOf (g : Grade) (v : BitVec 16) : BitVec 16 :=
  if v = 0 then 0 else BitVec.ofNat 16 (clampNpi 400 (gradeWatts g) v.toNat)

/-- TRAY_CAP: a read of the value in force, or a write that takes effect at the next tick of the controller. -/
def execTrayCap (w : Option (BitVec 16)) (s : State) : Host.Outcome State Fault Refusal :=
  .next (smbus s fun s => match w with
    | none => { s with reply := .bytes (leBytes 2 s.np.trayNow.toNat) }
    | some v => { s with np := { s.np with trayCap := trayCapOf s.fuses.grade v }, reply := .ok })

/-- ALERT_MASK: a read or a write. -/
def execAlertMask (w : Option (BitVec 16)) (s : State) : Host.Outcome State Fault Refusal :=
  .next (smbus s fun s => match w with
    | none => { s with reply := .bytes (leBytes 2 s.smb.mask.toNat) }
    | some v => { s with smb := { s.smb with mask := v }, reply := .ok })

/-- ALERT_CLEAR. -/
def execAlertClear (w : BitVec 16) (s : State) : Host.Outcome State Fault Refusal :=
  .next (smbus s fun s =>
    { s with smb := { s.smb with latches := s.smb.latches &&& ~~~(w.extractLsb' 0 8) }, reply := .ok })

/-- W0 of an error log entry (Table 15.8). -/
def logWord0 (e : LogEntry) : Nat :=
  e.cls % 16 + 16 * (e.die % 16) + 256 * (e.ltile.getD 0 % 256) + 2 ^ 16 * b2n e.ltile.isSome +
  2 ^ 17 * (e.sq.getD 0 % 64) + 2 ^ 23 * b2n e.sq.isSome + 2 ^ 24 * (e.action % 8)

/-- An error log entry, W0 to W3. -/
def logBytes (e : LogEntry) : Bytes := leBytes 4 (logWord0 e) ++ leBytes 8 e.time ++ leBytes 4 e.detail

/-- ERRS_LOG, 32 bytes: the registers of R409 and the newest entry. -/
def errsLogBytes (s : State) : Bytes :=
  let e := s.desk.errs
  leBytes 4 (errsStatus s) ++ leBytes 4 (servedCount s.fuses.grade s.desk) ++ leBytes 4 e.resetCause.toNat ++
  leBytes 4 (e.logHead.val + 65536 * e.logCount) ++ logBytes (e.log.at (e.logHead + 15))

/-- ERRS_LOG: Front Desk serves it, so it wakes the module; without firmware the block is empty. -/
def execErrsLog (s : State) : Host.Outcome State Fault Refusal :=
  .next (smbus s fun s =>
    if s.elec.life == .running then settle (wake 6 { s with reply := .bytes (errsLogBytes s) })
    else { s with reply := .bytes [] })

/-- SMB_ALERT_N is low while a latch whose mask bit is 0 is set (R410). -/
def alertLow (s : State) : Bool := s.smb.latches &&& ~~~(s.smb.mask.extractLsb' 0 8) != 0

/-- The module's 7-bit address, 0x58 + SLOT (R408). -/
def smbAddress (s : State) : Word := BitVec.ofNat 32 (0x58 + s.elec.moduleId.toNat % 8)

/-- ALERT_RESPONSE: the module answers the Alert Response Address while it holds SMB_ALERT_N low. -/
def execAlertResponse (s : State) : Host.Outcome State Fault Refusal :=
  .next (smbus s fun s => { s with reply := if alertLow s then .reg (smbAddress s) else .nack })

end Sys2Proof.Machine
end

