-- ==== Sys2Proof/Machine/Dispatch.lean ====
section
/-!
DEFINITION. The meaning of every command: one arm per row of spec/opcode_table.json.
-/
namespace Sys2Proof.Machine

def exec (i : Instr) (s : State) : Host.Outcome State Fault Refusal :=
  match i with
  | .loadCouplings sq units => Sys2Proof.Machine.execLoadCouplings sq units s
  | .loadBiases sq units => Sys2Proof.Machine.execLoadBiases sq units s
  | .loadGroups sq units => Sys2Proof.Machine.execLoadGroups sq units s
  | .commitProblem sq => Sys2Proof.Machine.execCommitProblem sq s
  | .setSchedule sq => Sys2Proof.Machine.execSetSchedule sq s
  | .setPhaseMap sq => Sys2Proof.Machine.execSetPhaseMap sq s
  | .anneal sq units => Sys2Proof.Machine.execAnneal sq units s
  | .sample sq units => Sys2Proof.Machine.execSample sq units s
  | .readState sq => Sys2Proof.Machine.execReadState sq s
  | .suspend sq => Sys2Proof.Machine.execSuspend sq s
  | .resume sq units => Sys2Proof.Machine.execResume sq units s
  | .correlate sq units => Sys2Proof.Machine.execCorrelate sq units s
  | .matmul sq units => Sys2Proof.Machine.execMatmul sq units s
  | .conv2d sq units => Sys2Proof.Machine.execConv2d sq units s
  | .attend sq units => Sys2Proof.Machine.execAttend sq units s
  | .vectorOp sq units => Sys2Proof.Machine.execVectorOp sq units s
  | .reduce sq units => Sys2Proof.Machine.execReduce sq units s
  | .coupleOut sq => Sys2Proof.Machine.execCoupleOut sq s
  | .copy sq units => Sys2Proof.Machine.execCopy sq units s
  | .fill sq units => Sys2Proof.Machine.execFill sq units s
  | .tileLoad sq => Sys2Proof.Machine.execTileLoad sq s
  | .tileStore sq => Sys2Proof.Machine.execTileStore sq s
  | .seedDraw sq => Sys2Proof.Machine.execSeedDraw sq s
  | .fenceSignal sq => Sys2Proof.Machine.execFenceSignal sq s
  | .fenceWait sq => Sys2Proof.Machine.execFenceWait sq s
  | .itineraryStore sq => Sys2Proof.Machine.execItineraryStore sq s
  | .itineraryLaunch sq => Sys2Proof.Machine.execItineraryLaunch sq s
  | .patch sq => Sys2Proof.Machine.execPatch sq s
  | .query sq => Sys2Proof.Machine.execQuery sq s
  | .ledgerMark sq => Sys2Proof.Machine.execLedgerMark sq s
  | .abort sq index => Sys2Proof.Machine.execAbort sq index s
  | .imageStage sq => Sys2Proof.Machine.execImageStage sq s
  | .imageInstall sq => Sys2Proof.Machine.execImageInstall sq s
  | .attest sq => Sys2Proof.Machine.execAttest sq s
  | .lifecycle sq => Sys2Proof.Machine.execLifecycle sq s
  | .dispatch preload => Sys2Proof.Machine.execDispatch preload s
  | .commitPoint sq => Sys2Proof.Machine.execCommitPoint sq s
  | .timeSliceExpiry sq => Sys2Proof.Machine.execTimeSliceExpiry sq s
  | .timeSliceResume => Sys2Proof.Machine.execTimeSliceResume s
  | .preemptionPointStop sq => Sys2Proof.Machine.execPreemptionPointStop sq s
  | .deadlineExpiry sq => Sys2Proof.Machine.execDeadlineExpiry sq s
  | .hangTimeout sq => Sys2Proof.Machine.execHangTimeout sq s
  | .engineStopTimeout sq => Sys2Proof.Machine.execEngineStopTimeout sq s
  | .fenceDeadlockExpiry => Sys2Proof.Machine.execFenceDeadlockExpiry s
  | .windowVisit sq tile => Sys2Proof.Machine.execWindowVisit sq tile s
  | .phaseBoundary sq => Sys2Proof.Machine.execPhaseBoundary sq s
  | .streamFetch sq tile index => Sys2Proof.Machine.execStreamFetch sq tile index s
  | .sweepEnd sq => Sys2Proof.Machine.execSweepEnd sq s
  | .asyncExchange sq => Sys2Proof.Machine.execAsyncExchange sq s
  | .boundaryTargetTest sq k => Sys2Proof.Machine.execBoundaryTargetTest sq k s
  | .rowBlockDone sq => Sys2Proof.Machine.execRowBlockDone sq s
  | .flipNoticeReceive => Sys2Proof.Machine.execFlipNoticeReceive s
  | .boundarySpinReceive => Sys2Proof.Machine.execBoundarySpinReceive s
  | .sweepEndRecord => Sys2Proof.Machine.execSweepEndRecord s
  | .exchangeRecord => Sys2Proof.Machine.execExchangeRecord s
  | .stopRecord => Sys2Proof.Machine.execStopRecord s
  | .replayRecord => Sys2Proof.Machine.execReplayRecord s
  | .readRequest => Sys2Proof.Machine.execReadRequest s
  | .readCompletion => Sys2Proof.Machine.execReadCompletion s
  | .remoteWrite => Sys2Proof.Machine.execRemoteWrite s
  | .writeAcknowledgement => Sys2Proof.Machine.execWriteAcknowledgement s
  | .fabricRegisterWrite => Sys2Proof.Machine.execFabricRegisterWrite s
  | .fabricRegisterRead => Sys2Proof.Machine.execFabricRegisterRead s
  | .hello => Sys2Proof.Machine.execHello s
  | .dataFlit p flit fecGood => Sys2Proof.Machine.execDataFlit p flit fecGood s
  | .ackFlit p flit fecGood => Sys2Proof.Machine.execAckFlit p flit fecGood s
  | .nackFlit p flit fecGood => Sys2Proof.Machine.execNackFlit p flit fecGood s
  | .linkRetrain p trained => Sys2Proof.Machine.execLinkRetrain p trained s
  | .linkUp p => Sys2Proof.Machine.execLinkUp p s
  | .routeChange l trained => Sys2Proof.Machine.execRouteChange l trained s
  | .messageAck m cls mseq => Sys2Proof.Machine.execMessageAck m cls mseq s
  | .peerTimeout m => Sys2Proof.Machine.execPeerTimeout m s
  | .sqTailWrite port sq v => Sys2Proof.Machine.execSqTailWrite port sq v s
  | .sqRingWrite port off data => Sys2Proof.Machine.execSqRingWrite port off data s
  | .sqEnable port sq v => Sys2Proof.Machine.execSqEnable port sq v s
  | .sqDisable port sq v => Sys2Proof.Machine.execSqDisable port sq v s
  | .cqEnable port cq v => Sys2Proof.Machine.execCqEnable port cq v s
  | .cqDisable port cq v => Sys2Proof.Machine.execCqDisable port cq v s
  | .cqHeadWrite port cq v => Sys2Proof.Machine.execCqHeadWrite port cq v s
  | .nowRead port => Sys2Proof.Machine.execNowRead port s
  | .fenceValueRead port f => Sys2Proof.Machine.execFenceValueRead port f s
  | .gctlModeWrite port v => Sys2Proof.Machine.execGctlModeWrite port v s
  | .ledgerMirrorEnable port v => Sys2Proof.Machine.execLedgerMirrorEnable port v s
  | .ledgerMirrorWrite => Sys2Proof.Machine.execLedgerMirrorWrite s
  | .mailboxGo box => Sys2Proof.Machine.execMailboxGo box s
  | .mailboxMsgWrite box r v => Sys2Proof.Machine.execMailboxMsgWrite box r v s
  | .mailboxAck box v => Sys2Proof.Machine.execMailboxAck box v s
  | .mailboxTimeout box => Sys2Proof.Machine.execMailboxTimeout box s
  | .f2hSend box => Sys2Proof.Machine.execF2hSend box s
  | .doorbellSet bell v => Sys2Proof.Machine.execDoorbellSet bell v s
  | .dbMaskWrite bell w => Sys2Proof.Machine.execDbMaskWrite bell w s
  | .ping port => Sys2Proof.Machine.execPing port s
  | .sensorRead port => Sys2Proof.Machine.execSensorRead port s
  | .sensorReq => Sys2Proof.Machine.execSensorReq s
  | .sensorVal => Sys2Proof.Machine.execSensorVal s
  | .descend => Sys2Proof.Machine.execDescend s
  | .clockStop => Sys2Proof.Machine.execClockStop s
  | .clockStopTimeout => Sys2Proof.Machine.execClockStopTimeout s
  | .plan => Sys2Proof.Machine.execPlan s
  | .trip => Sys2Proof.Machine.execTrip s
  | .noticeReq => Sys2Proof.Machine.execNoticeReq s
  | .woke => Sys2Proof.Machine.execWoke s
  | .lockRead who l => Sys2Proof.Machine.execLockRead who l s
  | .lockRelease who l v => Sys2Proof.Machine.execLockRelease who l v s
  | .apertureAccess port off acc => Sys2Proof.Machine.execApertureAccess port off acc s
  | .msixUnmask port c => Sys2Proof.Machine.execMsixUnmask port c s
  | .registerWrite port off data => Sys2Proof.Machine.execRegisterWrite port off data s
  | .trngDataRead who => Sys2Proof.Machine.execTrngDataRead who s
  | .trngReadTimeout who => Sys2Proof.Machine.execTrngReadTimeout who s
  | .poolDelivery => Sys2Proof.Machine.execPoolDelivery s
  | .trngSample v => Sys2Proof.Machine.execTrngSample v s
  | .windowClose => Sys2Proof.Machine.execWindowClose s
  | .statsWindow => Sys2Proof.Machine.execStatsWindow s
  | .sampleRound raw => Sys2Proof.Machine.execSampleRound raw s
  | .limiterEngage => Sys2Proof.Machine.execLimiterEngage s
  | .limiterRelease => Sys2Proof.Machine.execLimiterRelease s
  | .thermalTrip => Sys2Proof.Machine.execThermalTrip s
  | .tripRestore => Sys2Proof.Machine.execTripRestore s
  | .hubTrip => Sys2Proof.Machine.execHubTrip s
  | .descentTimerExpiry => Sys2Proof.Machine.execDescentTimerExpiry s
  | .wakeComplete => Sys2Proof.Machine.execWakeComplete s
  | .memPathSleep => Sys2Proof.Machine.execMemPathSleep s
  | .ageingReplan => Sys2Proof.Machine.execAgeingReplan s
  | .npWatchdog => Sys2Proof.Machine.execNpWatchdog s
  | .fdWatchdog => Sys2Proof.Machine.execFdWatchdog s
  | .dramRefresh u => Sys2Proof.Machine.execDramRefresh u s
  | .patrolScrub u sector f => Sys2Proof.Machine.execPatrolScrub u sector f s
  | .scrubWake => Sys2Proof.Machine.execScrubWake s
  | .sramScrub u word f => Sys2Proof.Machine.execSramScrub u word f s
  | .rowRepair h row spares => Sys2Proof.Machine.execRowRepair h row spares s
  | .uncorrectableRead l spareFails => Sys2Proof.Machine.execUncorrectableRead l spareFails s
  | .tileLogicFault l row spareFails => Sys2Proof.Machine.execTileLogicFault l row spareFails s
  | .hubFatal where_ => Sys2Proof.Machine.execHubFatal where_ s
  | .dieLinkDown a b => Sys2Proof.Machine.execDieLinkDown a b s
  | .secureWipe w => Sys2Proof.Machine.execSecureWipe w s
  | .powerOn => Sys2Proof.Machine.execPowerOn s
  | .powerLoss => Sys2Proof.Machine.execPowerLoss s
  | .railFault => Sys2Proof.Machine.execRailFault s
  | .moduleRemoval => Sys2Proof.Machine.execModuleRemoval s
  | .resetAssert => Sys2Proof.Machine.execResetAssert s
  | .resetRelease f => Sys2Proof.Machine.execResetRelease f s
  | .aliasKeyGeneration => Sys2Proof.Machine.execAliasKeyGeneration s
  | .slotConfirm => Sys2Proof.Machine.execSlotConfirm s
  | .activate port => Sys2Proof.Machine.execActivate port s
  | .activateIdle port => Sys2Proof.Machine.execActivateIdle port s
  | .cancel port => Sys2Proof.Machine.execCancel port s
  | .idleActivation => Sys2Proof.Machine.execIdleActivation s
  | .partnerArrival port uuid topo mode => Sys2Proof.Machine.execPartnerArrival port uuid topo mode s
  | .partnerDeparture port cause => Sys2Proof.Machine.execPartnerDeparture port cause s
  | .linkStateChange port mode => Sys2Proof.Machine.execLinkStateChange port mode s
  | .getIdent q => Sys2Proof.Machine.execGetIdent q s
  | .getSensor port channel => Sys2Proof.Machine.execGetSensor port channel s
  | .getGuests port => Sys2Proof.Machine.execGetGuests port s
  | .recoveryOpen port len => Sys2Proof.Machine.execRecoveryOpen port len s
  | .recoveryImageData port data => Sys2Proof.Machine.execRecoveryImageData port data s
  | .recoveryStatus port => Sys2Proof.Machine.execRecoveryStatus port s
  | .recoveryBoot port f => Sys2Proof.Machine.execRecoveryBoot port f s
  | .ident => Sys2Proof.Machine.execIdent s
  | .status => Sys2Proof.Machine.execStatus s
  | .sensor channel => Sys2Proof.Machine.execSensor channel s
  | .trayCap w => Sys2Proof.Machine.execTrayCap w s
  | .alertMask w => Sys2Proof.Machine.execAlertMask w s
  | .alertClear w => Sys2Proof.Machine.execAlertClear w s
  | .errsLog => Sys2Proof.Machine.execErrsLog s
  | .alertResponse => Sys2Proof.Machine.execAlertResponse s
  | .dieLinkRetry a b => Sys2Proof.Machine.execDieLinkRetry a b s
  | .usb2Configured port => Sys2Proof.Machine.execUsb2Configured port s
  | .idleFlit p flit fecGood => Sys2Proof.Machine.execIdleFlit p flit fecGood s

end Sys2Proof.Machine
end

