-- ==== Sys2Proof/Machine/Tick.lean ====
section
/-!
DEFINITION. What the passing of time does on its own: one AOCLK cycle, 40 ns (R209, log entry 4), in which a Front Desk
that runs clears its doorbells (R246) and takes host messages of no known type (R250), the powered hours go on (R341), and
a burst of scrubbing ends (R305).
-/
namespace Sys2Proof.Machine

/-- Doorbells [30:0] cleared; MAIL stays while a message waits in the incoming mailbox. -/
def clearBell (x : Box) (b : Bell) : Bell := { b with pend := if x.full then b.pend &&& 0x80000000#32 else 0 }

/-- Front Desk clears the doorbells of its pairs. -/
def clearBells (m : Mailboxes) : Mailboxes :=
  { m with
    fdHost := Tab.gen 4 fun p => clearBell (m.h2f.at (fin 4 p)) (m.fdHost.at (fin 4 p))
    fdPorter := clearBell m.npToFd m.fdPorter
    fdPeer := Tab.gen 16 fun p => clearBell (m.peerToFd.at (fin 16 p)) (m.fdPeer.at (fin 16 p)) }

/-- Night Porter clears its doorbells: it runs in every module state (R245, R325). -/
def clearPorterBell (m : Mailboxes) : Mailboxes := { m with porter := clearBell m.fdToNp m.porter }

/-- A host message of a type not in Table 10.6 is acknowledged UNKNOWN_TYPE (R250). -/
def takeUnknown (s : State) (p : Fin 4) : State :=
  let b := s.mbx.h2f.at p
  if b.full && mailType b != 1 && mailType b != 2 then takeMail s (.h2f p) 1 else s

/-- Nanoseconds of an hour. -/
def hourNs : Nat := 3600000000000

/-- The powered hours after a tick, and the re-plan that falls due with them (R341). -/
def tickHours (now : Nat) (p : Porter) : Porter :=
  if (now + 40) / hourNs = now / hourNs then p
  else if p.hours + 1 < p.nextPlan then { p with hours := p.hours + 1 }
  else { p with hours := p.hours + 1, planDue := true, nextPlan := p.nextPlan + 24 }

/-- Time goes on by 40 ns (SQC.NOW, R209). -/
def tickTime (s : State) : State :=
  { s with
    np := tickHours s.desk.now s.np
    desk := { s.desk with now := s.desk.now + 40, mem := { s.desk.mem with scrubBurst := false } } }

/-- What Front Desk does in a cycle of its own accord: its doorbells, messages of no known type, the events of its ports. -/
def tickDesk (s : State) : State :=
  servePorts (((List.range 4).map (fin 4)).foldl takeUnknown { s with mbx := clearBells s.mbx })

/-- One AOCLK cycle passes while the module is up. -/
def clockTick (s : State) : State :=
  match s.elec.life with
  | .off => s
  | .held => s
  | .running =>
    let t := { tickTime s with mbx := clearPorterBell s.mbx }
    if deskAwake s then settle (tickDesk t) else t
  | _ => tickTime s

end Sys2Proof.Machine
end

