-- ==== Sys2Proof/Safety.lean ====
section
/-!
DEFINITION. The terms in which statements about this block are written: who reaches it, which command is at hand, what
follows an event without being its effect, and the invariant that every step keeps. The block has no unsafe stop: no
command faults or is refused (log entry 5), so safety here is that a command changes nothing but what its rules name.
-/
namespace Sys2Proof.Machine

/-! ## Who reaches the block -/

/-- Firmware runs (R368 step 6). -/
def Running (s : State) : Prop := s.elec.life = .running

/-- FDCLK runs, so Front Desk acts: the module is ACTIVE or IDLE (Table 14.2). -/
def Awake (s : State) : Prop := s.elec.life = .running ∧ (s.np.state = .active ∨ s.np.state = .idle)

/-- The partner at UPp reaches the blocks of the module: the grade has the port, the port is not EMPTY, its function is
in D0 (R278, R266). -/
def Attached (s : State) (p : Fin 4) : Prop :=
  s.elec.life = .running ∧ portPresent s.fuses.grade p = true ∧ (s.desk.ports.at p).guest.state ≠ .empty ∧
  (s.desk.ports.at p).d3hot = false

/-- The partner at UPp reaches the port's own blocks too: the port is BOUND (R278). -/
def Bound (s : State) (p : Fin 4) : Prop := Attached s p ∧ (s.desk.ports.at p).guest.state = .bound

/-- Front Desk has no arrival or departure of a partner of this port to deal with. -/
def PortQuiet (d : Desk) (p : Fin 4) : Prop := (d.ports.at p).events = [] ∧ (d.ports.at p).guest.state ≠ .arriving

/-- Nor of any other. -/
def PortsQuiet (d : Desk) : Prop := ∀ p, PortQuiet d p

/-- The partner at UPp writes the registers of queue `n`: the queue is one of its own port (R203). -/
def OwnsQueue (s : State) (p : Fin 4) (n : Fin 64) : Prop := Bound s p ∧ n.val % 4 = p.val

/-- A new tail names an index of the ring and does not pass the head (R206). -/
def TailFits (q : Sq) (t : Nat) : Prop :=
  t < 2 ^ q.log2.toNat ∧
  (q.tail.toNat + 2 ^ q.log2.toNat - q.head.toNat) % 2 ^ q.log2.toNat ≤
    (t + 2 ^ q.log2.toNat - q.head.toNat) % 2 ^ q.log2.toNat

/-- The packets of the enabled queues but one (R204). -/
def otherPackets (d : Desk) (n : Fin 64) : Nat :=
  ((List.finRange 64).map fun i => if i ≠ n ∧ (d.sqs.at i).enable = true then 2 ^ (d.sqs.at i).log2.toNat else 0).sum

/-- The five conditions of R205 for a queue at its SQn_BASE with this LOG2_SIZE and completion queue. -/
def SqMayEnable (d : Desk) (n : Fin 64) (log2 : BitVec 4) (cq : BitVec 6) : Prop :=
  4 ≤ log2.toNat ∧ log2.toNat ≤ 12 ∧ (d.sqs.at n).base.toNat % (128 * 2 ^ log2.toNat) = 0 ∧
  (∀ i, i ≠ n → (d.sqs.at i).enable = true →
    (d.sqs.at n).base.toNat + 128 * 2 ^ log2.toNat ≤ (d.sqs.at i).base.toNat ∨
    (d.sqs.at i).base.toNat + 128 * 2 ^ (d.sqs.at i).log2.toNat ≤ (d.sqs.at n).base.toNat) ∧
  2 ^ log2.toNat + otherPackets d n ≤ 32768 ∧
  cq.toNat % 4 = n.val % 4 ∧ (d.cqs.at (fin 64 cq.toNat)).enable = true

/-! ## The fabric -/

/-- The link on SLp is up, and the port is present and in service (R286). -/
def LinkUp (s : State) (p : Fin 16) : Prop :=
  s.elec.life = .running ∧ slPresent (envOf s) s.desk p = true ∧ (s.fab.ports.at p).link = .up

/-- The fabric with one port replaced. -/
def withLink (f : Fabric) (p : Fin 16) (q : FabPort) : Fabric := { f with ports := f.ports.put p q }

/-- Every good flit returns the credits it carries to their class, and to no other (R284, R295). -/
def CreditsReturned (f : Bytes) (s t : State) (p : Fin 16) : Prop :=
  ∀ k : Fin 5, (t.fab.ports.at p).credits.at k =
    (s.fab.ports.at p).credits.at k + if fieldBits f 6 2 0 5 = k.val then fieldBits f 6 2 5 11 else 0

/-- The state without one message of its inbox, whose receive buffer is free again (R295). -/
def popped (s : State) (p : Fin 16) (m : Msg) : State := takeInbox s (p, m)

/-- The row that takes a record of a job, by its class and type (Table 12.7). -/
def RecordRow (c : Instr) (m : Msg) : Prop :=
  (c = .flipNoticeReceive ∧ m.cls = 0 ∧ m.rtype = 0) ∨ (c = .boundarySpinReceive ∧ m.cls = 1 ∧ m.rtype = 0) ∨
  (c = .sweepEndRecord ∧ m.cls = 0 ∧ m.rtype = 1) ∨ (c = .exchangeRecord ∧ m.cls = 0 ∧ m.rtype = 2) ∨
  (c = .stopRecord ∧ m.cls = 0 ∧ m.rtype = 3) ∨ (c = .replayRecord ∧ m.cls = 0 ∧ m.rtype = 4)

/-! ## The command at hand -/

/-- Queue `n` has a command of this opcode under way, dispatched with its work not begun, that nothing stops. -/
def AtHand (s : State) (n : Fin 64) (o : Op) (c : Cmd) : Prop :=
  (s.desk.sqs.at n).cur = some c ∧ pktOp c.pkt = some o ∧ c.stage = .dispatched ∧ c.stop = none

/-- The command as it stands once its work has begun at `now` and has ended there with this status, RESULT and LIMIT. -/
def workDone (now : Nat) (c : Cmd) (status : Nat) (result : Bytes) (limit : Nat) : Cmd :=
  { c with
    stage := .ended, began := true, startedAt := now, resumedAt := now, progressAt := now
    status := status, result := slice result 0 28, limit := limit }

/-- The desk with the command under way in queue `n` replaced. -/
def withCur (d : Desk) (n : Fin 64) (c : Cmd) : Desk := { d with sqs := d.sqs.upd n fun q => { q with cur := some c } }

/-- The desk with one submission queue, one completion queue, one port, one slot or one fence replaced, or with more on
its wires. -/
def withSq (d : Desk) (n : Fin 64) (q : Sq) : Desk := { d with sqs := d.sqs.put n q }
def withCq (d : Desk) (n : Fin 64) (c : Cq) : Desk := { d with cqs := d.cqs.put n c }
def withPort (d : Desk) (p : Fin 4) (q : Port) : Desk := { d with ports := d.ports.put p q }
def withSlot (d : Desk) (i : Fin 64) (x : Slot) : Desk := { d with slots := d.slots.put i x }
def withFence (d : Desk) (f : Fin 256) (x : Fence) : Desk := { d with fences := d.fences.put f x }
def withOut (d : Desk) (l : List Out) : Desk := { d with out := d.out ++ l }

/-- A command as its dispatch leaves it: nothing moved, nothing asked of another module. -/
def Untouched (c : Cmd) : Prop :=
  c.done = 0 ∧ c.asked = 0 ∧ c.remote = [] ∧ c.cache = [] ∧ c.digest = 0 ∧ c.out = [] ∧ c.accLong = false ∧
  c.began = false ∧ c.fault = false

/-- The tiles of a command hold the present generation of its slot (R61). -/
def TilesHold (d : Desk) (c : Cmd) : Prop := ∀ l ∈ c.tiles, tileHolds d (some (pktSlot c.pkt)) l = true

/-- The same command, its work ended with a status. -/
def EndedAs (c' c : Cmd) (status : Nat) : Prop :=
  c'.pkt = c.pkt ∧ c'.index = c.index ∧ c'.launch = c.launch ∧ c'.stage = .ended ∧ c'.began = true ∧ c'.status = status

/-- The run of queue `n` has begun and goes on, on a slot of M = 1. -/
def RunOn (s : State) (n : Fin 64) (c : Cmd) (g : Image) (x : Slot) : Prop :=
  runningOf s.desk n = some (c, g) ∧ x = s.desk.slots.at (pktSlot c.pkt) ∧ g.m = 1 ∧ g.rank = 0

/-- The desk with the slot that a command names replaced, and the command. -/
def withRun (d : Desk) (n : Fin 64) (c : Cmd) (x : Slot) : Desk := withCur (withSlot d (pktSlot c.pkt) x) n c

/-- Memory after writes, in order. -/
def afterWrites (cells : List Host.Cell) (ws : List (Nat × Bytes)) : List Host.Cell :=
  ws.foldl (fun m w => cellWrites m (addrDevice w.1) w.2) cells

/-- Memory holds `f i` at byte `i` of a range, and every byte outside it is as before. -/
def StoredAt (d e : Desk) (a len : Nat) (f : Nat → Byte) : Prop :=
  (∀ i, i < len → cellRead e.mem.cells (a + i) = f i) ∧
  ∀ x, x < a ∨ a + len ≤ x → cellRead e.mem.cells x = cellRead d.mem.cells x

/-- Front Desk but for device memory, one queue, the count of free values taken, and what is sent. -/
def OnlyMemory (d e : Desk) (n : Fin 64) : Prop :=
  e = { d with
    mem := e.mem, sqs := e.sqs, freeCtr := e.freeCtr, tx := e.tx, nextTag := e.nextTag, out := e.out
    deadlockSince := e.deadlockSince, marks := e.marks, drain := e.drain } ∧
  ∀ m, m ≠ n → e.sqs.at m = d.sqs.at m

/-- A range of bytes in the module's own memory (R25, R27), below the on-chip tables, in which no sector reads
uncorrectable (R306). -/
def PlainSpan (s : State) (addr len : Nat) : Prop :=
  addrOwn (envOf s) addr = true ∧ addrDevice addr + len ≤ tableBase ∧ badSector s.desk.mem (addrDevice addr) len = none

/-! ## What follows an event -/

/-- Night Porter but for the module state, the descent timer and its condition, a wake under way, and TCLK as the first fixed-timing
command comes (R179). -/
def PorterWakes (p q : Porter) : Prop :=
  q = { p with
    state := q.state, timer := q.timer, quiet := q.quiet, waking := q.waking, left := q.left, wakeCause := q.wakeCause,
    wakeAt := q.wakeAt, asked := q.asked, f := q.f, fixedHold := q.fixedHold }

/-- Front Desk but for messages on their way to the fabric, notifications (the MSI-X pending bits among them), the
count of R229, and what it notes of the heads of its queues (R57, R220 step 4). -/
def DeskSpeaks (d e : Desk) : Prop :=
  e = { d with tx := e.tx, out := e.out, deadlockSince := e.deadlockSince, ports := e.ports, marks := e.marks, drain := e.drain } ∧
  ∀ p, e.ports.at p = { d.ports.at p with pba := (e.ports.at p).pba }

/-- The SMBus target but for the latches of STATUS. -/
def SmbusLatches (a b : Smbus) : Prop := b = { a with latches := b.latches, seen := b.seen }

/-- An event of Front Desk leaves the rest of the module as it was but for a change between ACTIVE and IDLE, the latches of
STATUS, and messages on the fabric. -/
def OnlyDesk (s t : State) : Prop :=
  t = { s with desk := t.desk, fab := t.fab, np := t.np, smb := t.smb } ∧ PorterWakes s.np t.np ∧ SmbusLatches s.smb t.smb

/-- An event of the mailboxes leaves everything else as it was but for notifications and a wake. -/
def OnlyMail (s t : State) : Prop :=
  t = { s with mbx := t.mbx, desk := t.desk, np := t.np, smb := t.smb, fab := t.fab } ∧
  DeskSpeaks s.desk t.desk ∧ PorterWakes s.np t.np ∧ SmbusLatches s.smb t.smb

/-- Every mailbox but one is as it was. -/
def OtherBoxes (m n : Mailboxes) (b : BoxId) : Prop := ∀ x, x ≠ b → boxAt n x = boxAt m x

/-- The receivers' doorbells but two are as they were. -/
def OtherBells (m n : Mailboxes) (a b : BellId) : Prop := ∀ x, x ≠ a → x ≠ b → bellAt n x = bellAt m x

/-! ## Resets -/

/-- What any reset leaves (R358, Table 15.4): queues off, fences, slots, locks, mailboxes, mode and Night Porter's settings at their
reset values, no partner bound; fuses, the lifecycle, keys and slots of firmware as they were. -/
def ResetLeft (s t : State) : Prop :=
  t.pending = s.pending ∧ t.fuses = s.fuses ∧ t.elec.moduleId = s.elec.moduleId ∧ t.mbx = {} ∧ t.locks = {} ∧ t.trng = {} ∧
  t.fab = {} ∧ t.smb = {} ∧ t.recov = {} ∧ t.np.state = .idle ∧ t.np.hours = s.np.hours ∧ t.np.voff = s.np.voff ∧
  (∀ n, (t.desk.sqs.at n).enable = false ∧ (t.desk.sqs.at n).cur = none ∧ (t.desk.cqs.at n).enable = false) ∧
  (∀ f, (t.desk.fences.at f).value = 0) ∧ (∀ i, (t.desk.slots.at i).state = .empty) ∧ t.desk.gctl = {} ∧ t.desk.ledger = {} ∧
  t.desk.now = 0 ∧ (∀ p, (t.desk.ports.at p).guest.state = .empty) ∧ t.sec.lifecycle = s.sec.lifecycle ∧
  t.sec.idKey = s.sec.idKey ∧ t.sec.fd.slots = s.sec.fd.slots ∧ t.sec.np.slots = s.sec.np.slots ∧ t.sec.sram = []

/-- A reset the module makes itself, of a cause of Table 15.3: BOOT_ID advances and memory outside the private areas stays. -/
def WarmReset (s t : State) (cause : BitVec 4) : Prop :=
  ResetLeft s t ∧ t.elec.life = .held ∧ t.elec.cause = cause ∧ t.desk.errs.resetCause = cause ∧
  t.desk.bootId = s.desk.bootId + 1 ∧
  (∀ a, isPrivate a = false → cellRead t.desk.mem.cells a = cellRead s.desk.mem.cells a) ∧
  ∀ a, isPrivate a = true → cellRead t.desk.mem.cells a = 0

/-! ## The invariant -/

/-- The random source within the sizes of Chapter 17 (R386, R387, R389, R391, R393). -/
def TrngInv (t : Trng) : Prop :=
  t.pool.length ≤ 512 ∧ t.pos ≤ 1024 ∧ t.statPos ≤ 65536 ∧ t.raw.length < 512 ∧ t.attempt ≤ 3

/-- The invariant of the block outside Front Desk's own part: the sizes of the random source, at most eight queued messages
for each host (R247), at most 8 of 64 TCLK cycles gated or asked to be gated (R334), and locks held by requesters of
Table 10.10 only (R253). -/
def Inv (s : State) : Prop :=
  TrngInv s.trng ∧ (∀ p, (s.mbx.f2hQueue.at p).length ≤ 8) ∧
  s.np.gate ≤ 8 ∧ (∀ f gate at_ cap heat, s.np.asked = some (.clockStop f gate at_ cap heat) → gate ≤ 8) ∧
  ∀ n w, s.locks.owner.at n = some w → w.val < 6 ∨ 16 ≤ w.val

end Sys2Proof.Machine
end

