-- ==== Sys2Proof/Certificates/Slice0/Obligations.lean ====
section
/-!
DEFINITION. The statements about this block, by family of its commands. Each says on which states a command has its
effect, what state it leaves, and what stays as it was; `settle` in a conclusion is what follows every event
(`Obligations.WhatFollowsAnEvent` says all that it may change).
-/
open Sys2Proof Sys2Proof.Machine

/-! ## The block as a whole -/

/-- A step runs the command at the front of the queue on the state with the queue's rest. -/
def Obligations.FrontCommandRuns : Prop :=
  ∀ (s : State) (c : Instr) (rest : List Instr), s.pending = c :: rest → step s = exec c { s with pending := rest }

/-- On an empty queue a step passes 40 ns while the module is up (log entry 4: the tick is the model's choice). Where Front Desk
has no arrival or departure of a partner to deal with, queues, slots, fences, locks, the random source and the Ledger stay; a
Front Desk that is awake serves its doorbells but MAIL; below IDLE the mailboxes and doorbells stay but for Night Porter's own bits,
which it clears in every state. Off or in reset nothing changes. -/
def Obligations.EmptyQueuePassesTime : Prop :=
  ∀ s : State, s.pending = [] →
    (s.elec.life = .off ∨ s.elec.life = .held → step s = .next s) ∧
    (s.elec.life ≠ .off → s.elec.life ≠ .held → (Awake s → PortsQuiet s.desk) → ∃ t, step s = .next t ∧
      t.desk.now = s.desk.now + 40 ∧ t.pending = [] ∧ t.fuses = s.fuses ∧ t.elec = s.elec ∧ t.locks = s.locks ∧
      t.trng = s.trng ∧ t.sec = s.sec ∧ t.recov = s.recov ∧ t.desk.sqs = s.desk.sqs ∧ t.desk.cqs = s.desk.cqs ∧
      t.desk.slots = s.desk.slots ∧ t.desk.fences = s.desk.fences ∧ t.desk.ring = s.desk.ring ∧
      t.desk.mem = { s.desk.mem with scrubBurst := false } ∧ t.desk.ledger = s.desk.ledger ∧
      (Awake s → ∀ p, (t.mbx.fdHost.at p).pend &&& 0x7FFFFFFF#32 = 0) ∧
      (Running s → t.mbx.porter.pend &&& 0x7FFFFFFF#32 = 0) ∧
      (¬ Awake s → t.mbx = { s.mbx with porter := t.mbx.porter }))

/-- What the tables of the spec give for reset: queues off, locks free, mailboxes empty with every doorbell masked, fences
0, GCTL.MODE strict with CKPT_INTERVAL 64, no partner bound, IDLE. -/
def Obligations.ResetLeavesTableValues : Prop :=
  State.reset.pending = [] ∧
  (∀ n, (State.reset.desk.sqs.at n).enable = false ∧ (State.reset.desk.sqs.at n).head = 0 ∧
    (State.reset.desk.sqs.at n).tail = 0 ∧ (State.reset.desk.sqs.at n).hang = 500) ∧
  (∀ n, (State.reset.desk.cqs.at n).enable = false ∧ (State.reset.desk.cqs.at n).base = 0) ∧
  State.reset.desk.slice = 20 ∧ State.reset.desk.now = 0 ∧
  (∀ f, (State.reset.desk.fences.at f).value = 0 ∧ (State.reset.desk.fences.at f).err = false) ∧
  (∀ n, State.reset.locks.owner.at n = none) ∧ State.reset.locks.badRelease = 0 ∧
  (∀ b, (boxAt State.reset.mbx b).full = false ∧ (boxAt State.reset.mbx b).seq = 0 ∧
    (boxAt State.reset.mbx b).limit = 10000) ∧
  (∀ b x, bellAt State.reset.mbx b = some x → x.pend = 0 ∧ x.mask = 0xFFFFFFFF) ∧
  State.reset.desk.gctl.detStrict = true ∧ State.reset.desk.gctl.fixedTiming = false ∧
  State.reset.desk.gctl.timingClass = 0 ∧ State.reset.desk.gctl.ckpt = 64 ∧
  (∀ p, (State.reset.desk.ports.at p).guest.state = .empty) ∧
  (∀ n, (State.reset.desk.slots.at n).state = .empty) ∧
  State.reset.np.state = .idle ∧ State.reset.trng.state = .startup

/-- The invariant holds right after reset. -/
def Obligations.ResetMeetsInvariant : Prop :=
  Inv State.reset

/-- Every step of the block keeps the invariant: the pool, windows and attempts of the random source, the queues of host
messages, the gating of TCLK, and the owners of locks stay within what their rules allow. -/
def Obligations.StepKeepsInvariant : Prop :=
  ∀ s t : State, Inv s → step s = .next t → Inv t

/-- Every command of the table answers a next state: none faults and none is refused. No command changes the fuses (R397), and
none touches the queue of waiting commands. -/
def Obligations.EveryCommandRuns : Prop :=
  ∀ (c : Instr) (s : State), ∃ t, exec c s = .next t ∧ t.fuses = s.fuses ∧ t.pending = s.pending

/-- What follows an event changes the messages under way, what Front Desk notes of the heads of its queues and the end of a drain, TCLK as a
fixed-timing command comes, the module state with its descent timer, and the STATUS latches, and nothing else. The module is ACTIVE
while a command runs, IDLE otherwise; below IDLE nothing but a wake changes its state (R329). TCLK goes to 1,800 MHz with the first
fixed-timing command and otherwise stays (R179). Latched STATUS bits stay (R410). -/
def Obligations.WhatFollowsAnEvent : Prop :=
  ∀ s : State,
    settle s = { s with
      fab := (settle s).fab
      desk := { s.desk with
        tx := (settle s).desk.tx, out := (settle s).desk.out, deadlockSince := (settle s).desk.deadlockSince
        marks := (settle s).desk.marks, drain := (settle s).desk.drain }
      np := { s.np with
        f := (settle s).np.f, fixedHold := (settle s).np.fixedHold
        state := (settle s).np.state, timer := (settle s).np.timer, quiet := (settle s).np.quiet }
      smb := { s.smb with latches := (settle s).smb.latches, seen := (settle s).smb.seen } } ∧
    ((settle s).desk.drain = true → s.desk.drain = true) ∧
    (s.elec.life ≠ .running → settle s = s) ∧
    (s.elec.life = .running → (settle s).desk.tx = [] ∧ (settle s).smb.seen = statusWord (settle s) ∧
      s.smb.latches &&& ~~~ (settle s).smb.latches = 0 ∧
      (s.np.state = .active ∨ s.np.state = .idle →
        (settle s).np.state = if anyRunning s.desk then .active else .idle) ∧
      (s.np.state ≠ .active → s.np.state ≠ .idle → (settle s).np.state = s.np.state) ∧
      (settle s).np.fixedHold = fixedLive s.desk ∧
      (settle s).np.f = if fixedLive s.desk = true ∧ s.np.fixedHold = false then 1800 else s.np.f)

/-! ## Locks -/

/-- R254: a read of a free lock returns 0 and records the reader as owner; a read of a held lock returns the owner's ID + 1
and changes nothing, whoever reads. A requester that does not reach the block changes nothing. R300: Front Desk's read of a lock of a
peer goes to it as a message, and its completion answers; another requester, or a module that is no peer, is not served. -/
def Obligations.LockReadTakesAFreeLock : Prop :=
  ∀ (s : State) (who : Requester) (n : Fin 64),
    (lockReach s who = true →
      (s.locks.owner.at n = none →
        exec (.lockRead who ⟨n, none⟩) s =
          .next { s with reply := .reg 0, locks := { s.locks with owner := s.locks.owner.put n (some who) } }) ∧
      ∀ w, s.locks.owner.at n = some w →
        exec (.lockRead who ⟨n, none⟩) s = .next { s with reply := .reg (BitVec.ofNat 32 (w.val + 1)) }) ∧
    (lockReach s who = false → exec (.lockRead who ⟨n, none⟩) s = .next s) ∧
    ∀ id : Fin 64,
      (who.val = 0 → Awake s → (∃ x ∈ s.fab.peers, x.id.toNat = id.val) → exec (.lockRead who ⟨n, some id⟩) s = .next (settle { s with
        desk := { s.desk with tx := s.desk.tx ++ [ownMsg (envOf s) 4 2 id.val 0 (leBytes 4 (0x38000 + 8 * n.val))] }
        locks := { s.locks with asked := s.locks.asked ++ [(BitVec.ofNat 6 id.val, n)] } })) ∧
      (who.val ≠ 0 ∨ (∀ x ∈ s.fab.peers, x.id.toNat ≠ id.val) → exec (.lockRead who ⟨n, some id⟩) s = .next s)

/-- R255: the owner that writes its own ID to LOCKn_REL frees the lock; every other write is ignored and counted in
LCK.BAD_RELEASE, which holds at 0xFFFF_FFFF. A read that meets the release takes effect after it (commands of one step stand in the
queue in the order the rules give, log entry 12), and its reader takes the lock. R300: Front Desk's release of a lock of a peer goes to it
as a message, and the peer judges it. -/
def Obligations.LockReleaseByItsOwner : Prop :=
  ∀ (s : State) (who : Requester) (n : Fin 64) (v : Word),
    (lockReach s who = true →
      (s.locks.owner.at n = some who → v.toNat % 32 = who.val →
        exec (.lockRelease who ⟨n, none⟩ v) s =
          .next { s with locks := { s.locks with owner := s.locks.owner.put n none } }) ∧
      (s.locks.owner.at n ≠ some who ∨ v.toNat % 32 ≠ who.val →
        exec (.lockRelease who ⟨n, none⟩ v) s =
          .next { s with locks := { s.locks with badRelease := min 0xFFFFFFFF (s.locks.badRelease + 1) } })) ∧
    (lockReach s who = false → exec (.lockRelease who ⟨n, none⟩ v) s = .next s) ∧
    (∀ r, lockReach s who = true → lockReach s r = true → s.locks.owner.at n = some who → v.toNat % 32 = who.val →
      ∃ t u, exec (.lockRelease who ⟨n, none⟩ v) s = .next t ∧ exec (.lockRead r ⟨n, none⟩) t = .next u ∧ u.reply = .reg 0 ∧
        u.locks.owner.at n = some r) ∧
    ∀ id : Fin 64,
      (who.val = 0 → Awake s → (∃ x ∈ s.fab.peers, x.id.toNat = id.val) → exec (.lockRelease who ⟨n, some id⟩ v) s = .next (settle { s with
        desk := { s.desk with
          tx := s.desk.tx ++ [ownMsg (envOf s) 4 1 id.val 0 (leBytes 4 (0x38004 + 8 * n.val) ++ leBytes 4 v.toNat)] } })) ∧
      (who.val ≠ 0 ∨ (∀ x ∈ s.fab.peers, x.id.toNat ≠ id.val) → exec (.lockRelease who ⟨n, some id⟩ v) s = .next s)

/-! ## Mailboxes and doorbells -/

/-- R240: GO into an empty mailbox makes its message visible: SEQ advances, FULL is set, TIMEOUT, ACK_VALID and both
COLLISION bits are cleared, the timer starts, and MAIL is set in the receiver's DB_PEND. Other mailboxes stay as they are.
A write to an empty mailbox takes effect with no collision, and sends nothing: the word or the length alone changes. MBX_TIMEOUT is
written at any time and leaves a timer that runs as it is; each side clears the sticky bits of its own copy of the status (R239). -/
def Obligations.MessagesAreWrittenAndSent : Prop :=
  (∀ (s : State) (b : BoxId),
      (senderUp s b = true → (boxAt s.mbx b).full = false → ∃ t, exec (.mailboxGo b) s = .next t ∧
        boxAt t.mbx b =
          { boxAt s.mbx b with
            seq := (boxAt s.mbx b).seq + 1, full := true, timeout := false, ackValid := false
            collSend := false, collRecv := false, goAt := s.desk.now
            inForce := max 1 (min 1000000 (boxAt s.mbx b).limit.toNat) } ∧
        (∀ x, bellAt s.mbx (receiverBell b) = some x →
          bellAt t.mbx (receiverBell b) = some { x with pend := x.pend ||| 0x80000000#32 }) ∧
        OtherBoxes s.mbx t.mbx b ∧ OtherBells s.mbx t.mbx (receiverBell b) (receiverBell b) ∧ OnlyMail s t) ∧
      (senderUp s b = false → exec (.mailboxGo b) s = .next s)) ∧
  (∀ (s : State) (b : BoxId) (j : Fin 17) (v : Word),
      (senderUp s b = true → (boxAt s.mbx b).full = false → ∃ t, exec (.mailboxMsgWrite b (.word j) v) s = .next t ∧
        boxAt t.mbx b =
          (if h : j.val < 16 then { boxAt s.mbx b with msg := (boxAt s.mbx b).msg.set j.val v }
          else { boxAt s.mbx b with len := v.extractLsb' 0 5 }) ∧
        OtherBoxes s.mbx t.mbx b ∧ (∀ x, bellAt t.mbx x = bellAt s.mbx x) ∧ OnlyMail s t) ∧
      (senderUp s b = false → exec (.mailboxMsgWrite b (.word j) v) s = .next s)) ∧
  (∀ (s : State) (b : BoxId) (v : Word),
      (senderUp s b = true →
        (∃ t, exec (.mailboxMsgWrite b .timeout v) s = .next t ∧
          boxAt t.mbx b = { boxAt s.mbx b with limit := v.extractLsb' 0 20 } ∧
          OtherBoxes s.mbx t.mbx b ∧ (∀ x, bellAt t.mbx x = bellAt s.mbx x) ∧ OnlyMail s t) ∧
        ∃ t, exec (.mailboxMsgWrite b .sendStatus v) s = .next t ∧
          boxAt t.mbx b = { boxAt s.mbx b with
            collSend := (boxAt s.mbx b).collSend && !v.getLsbD 1, timeout := (boxAt s.mbx b).timeout && !v.getLsbD 2 } ∧
          OtherBoxes s.mbx t.mbx b ∧ (∀ x, bellAt t.mbx x = bellAt s.mbx x) ∧ OnlyMail s t) ∧
      (receiverUp s b = true → ∃ t, exec (.mailboxMsgWrite b .recvStatus v) s = .next t ∧
        boxAt t.mbx b = { boxAt s.mbx b with
          collRecv := (boxAt s.mbx b).collRecv && !v.getLsbD 1, staleAck := (boxAt s.mbx b).staleAck && !v.getLsbD 4 } ∧
        OtherBoxes s.mbx t.mbx b ∧ (∀ x, bellAt t.mbx x = bellAt s.mbx x) ∧ OnlyMail s t))

/-- R242: a write to a message word, the length or GO while FULL = 1 takes effect and sets COLLISION in both copies; FULL
stays 1; a GO advances SEQ, restarts the timer and sets MAIL again; an acknowledge with the old SEQ is then stale. -/
def Obligations.WritesToAFullMailboxCollide : Prop :=
  ∀ (s : State) (b : BoxId), senderUp s b = true → (boxAt s.mbx b).full = true →
    (∀ (j : Fin 17) (v : Word), ∃ t, exec (.mailboxMsgWrite b (.word j) v) s = .next t ∧
      boxAt t.mbx b =
        (if h : j.val < 16 then
          { boxAt s.mbx b with collSend := true, collRecv := true, msg := (boxAt s.mbx b).msg.set j.val v }
        else { boxAt s.mbx b with collSend := true, collRecv := true, len := v.extractLsb' 0 5 }) ∧
      OtherBoxes s.mbx t.mbx b) ∧
    ∃ t, exec (.mailboxGo b) s = .next t ∧
      boxAt t.mbx b =
        { boxAt s.mbx b with
          seq := (boxAt s.mbx b).seq + 1, collSend := true, collRecv := true, goAt := s.desk.now
          inForce := max 1 (min 1000000 (boxAt s.mbx b).limit.toNat) } ∧
      (∀ x, bellAt s.mbx (receiverBell b) = some x →
        bellAt t.mbx (receiverBell b) = some { x with pend := x.pend ||| 0x80000000#32 }) ∧
      ∀ v : Word, receiverUp t b = true → v.extractLsb' 16 8 = (boxAt s.mbx b).seq →
        ∃ u, exec (.mailboxAck b v) t = .next u ∧ boxAt u.mbx b = { boxAt t.mbx b with staleAck := true }

/-- R241 and R243: an acknowledge with ACK_VALID = 1 and the mailbox's SEQ takes a FULL message, records its code and sets
ACKED at the sender; any other is ignored and sets STALE_ACK. A message left FULL for MBX_TIMEOUT since the last GO is
withdrawn: FULL clears, TIMEOUT and ACKED are set, ACK_VALID stays; before that nothing happens. -/
def Obligations.MessageIsTakenOrWithdrawn : Prop :=
  ∀ (s : State) (b : BoxId),
    (∀ v : Word, receiverUp s b = true →
      (v.getLsbD 31 = true → (boxAt s.mbx b).full = true → v.extractLsb' 16 8 = (boxAt s.mbx b).seq →
        ∃ t, exec (.mailboxAck b v) s = .next t ∧
          boxAt t.mbx b = { boxAt s.mbx b with full := false, ackValid := true, ack := v &&& 0x80FFFFFF#32 } ∧
          (∀ x, bellAt s.mbx (senderBell b) = some x →
            bellAt t.mbx (senderBell b) = some { x with pend := x.pend ||| 0x40000000#32 }) ∧
          OtherBoxes s.mbx t.mbx b ∧ OtherBells s.mbx t.mbx (senderBell b) (receiverBell b) ∧ OnlyMail s t) ∧
      (v.getLsbD 31 = false ∨ (boxAt s.mbx b).full = false ∨ v.extractLsb' 16 8 ≠ (boxAt s.mbx b).seq →
        ∃ t, exec (.mailboxAck b v) s = .next t ∧ boxAt t.mbx b = { boxAt s.mbx b with staleAck := true } ∧
          OtherBoxes s.mbx t.mbx b ∧ (∀ x, bellAt t.mbx x = bellAt s.mbx x) ∧ OnlyMail s t)) ∧
    (Running s → (boxAt s.mbx b).full = true →
      ((boxAt s.mbx b).goAt + 1000 * (boxAt s.mbx b).inForce ≤ s.desk.now →
        ∃ t, exec (.mailboxTimeout b) s = .next t ∧
          boxAt t.mbx b = { boxAt s.mbx b with full := false, timeout := true } ∧
          (∀ x, bellAt s.mbx (senderBell b) = some x →
            bellAt t.mbx (senderBell b) = some { x with pend := x.pend ||| 0x40000000#32 }) ∧
          (∀ p, b = .f2h p → t.mbx.dropped.at p = min 0xFFFFFFFF (s.mbx.dropped.at p + 1)) ∧
          OtherBoxes s.mbx t.mbx b ∧ OtherBells s.mbx t.mbx (senderBell b) (senderBell b) ∧ OnlyMail s t) ∧
      (s.desk.now < (boxAt s.mbx b).goAt + 1000 * (boxAt s.mbx b).inForce →
        exec (.mailboxTimeout b) s = .next s))

/-- R247: the message at the head of a queue goes into its empty mailbox as eight words and is made visible, unless it is
one of those that wait while a partner or peer holds LOCK62 or LOCK63 (R256; which ones, log entry 35); the rest of the
queue waits. A FULL mailbox or an empty queue sends nothing.
R249, R250: Front Desk takes a PING with OK, or with BAD_ARGUMENT when a reserved word is not 0; it takes a
SENSOR_READ of a channel 0 to 127 with OK and asks Night Porter for it, or with BUSY when eight replies are due. -/
def Obligations.HostMessagesAreServedAndSent : Prop :=
  (∀ (s : State) (b : BoxId), senderUp s b = true →
      (∀ m rest, queueAt s.mbx b = m :: rest → (boxAt s.mbx b).full = false → waitsForLock s.locks b m = false →
        ∃ t, exec (.f2hSend b) s = .next t ∧
          queueAt t.mbx b = rest ∧ (boxAt t.mbx b).full = true ∧ (boxAt t.mbx b).len = 8 ∧
          (boxAt t.mbx b).seq = (boxAt s.mbx b).seq + 1 ∧ (boxAt t.mbx b).timeout = false ∧
          (boxAt t.mbx b).ackValid = false ∧ (boxAt t.mbx b).goAt = s.desk.now ∧
          (boxAt t.mbx b).msg.at 0 = BitVec.ofNat 32 (m.type + m.tag * 65536) ∧
          (∀ i : Fin 16, 1 ≤ i.val → i.val < 8 → (boxAt t.mbx b).msg.at i = m.words.getD (i.val - 1) 0) ∧
          (∀ x, bellAt s.mbx (receiverBell b) = some x →
            bellAt t.mbx (receiverBell b) = some { x with pend := x.pend ||| 0x80000000#32 }) ∧
          OtherBoxes s.mbx t.mbx b ∧ OnlyMail s t) ∧
      (queueAt s.mbx b = [] ∨ (boxAt s.mbx b).full = true → exec (.f2hSend b) s = .next (settle s))) ∧
  (∀ (s : State) (p : Fin 4), Awake s → portPresent s.fuses.grade p = true → (s.mbx.h2f.at p).full = true →
      lenOf (s.mbx.h2f.at p).len = 8 → bits ((s.mbx.h2f.at p).msg.at 0).toNat 8 8 = 0 →
      (mailType (s.mbx.h2f.at p) = 1 → ∃ t, exec (.ping p) s = .next t ∧
        t.mbx.h2f.at p = { s.mbx.h2f.at p with
          full := false, ackValid := true
          ack := BitVec.ofNat 32 ((if (∀ i : Fin 16, 1 ≤ i.val → i.val < 8 → (s.mbx.h2f.at p).msg.at i = 0) then 0 else 2) +
            (s.mbx.h2f.at p).seq.toNat * 2 ^ 16 + 2 ^ 31) } ∧
        OtherBoxes s.mbx t.mbx (.h2f p) ∧ t.mbx.f2hQueue = s.mbx.f2hQueue ∧ OnlyMail s t) ∧
      (mailType (s.mbx.h2f.at p) = 2 → (((s.mbx.h2f.at p).msg.at 1).toNat < 128) → ∃ t, exec (.sensorRead p) s = .next t ∧
        t.mbx.h2f.at p = { s.mbx.h2f.at p with
          full := false, ackValid := true
          ack := BitVec.ofNat 32 ((if 8 ≤ repliesDue s.mbx p then 3 else 0) + (s.mbx.h2f.at p).seq.toNat * 2 ^ 16 + 2 ^ 31) } ∧
        OtherBoxes s.mbx t.mbx (.h2f p) ∧
        (repliesDue s.mbx p < 8 →
          t.mbx.asks = s.mbx.asks ++ [(s.mbx.nextAsk, p, bits ((s.mbx.h2f.at p).msg.at 0).toNat 16 16)] ∧
          t.mbx.fdNpQueue = s.mbx.fdNpQueue ++ [⟨1, s.mbx.nextAsk, [(s.mbx.h2f.at p).msg.at 1]⟩]) ∧
        (8 ≤ repliesDue s.mbx p → t.mbx.asks = s.mbx.asks ∧ t.mbx.fdNpQueue = s.mbx.fdNpQueue) ∧ OnlyMail s t))

/-- R245, R246 and R251: a write to a set register sets the bits [29:0] it names in the receiver's DB_PEND and leaves the
others, and wakes a module below IDLE when it rings Front Desk from outside; Front Desk sets no bit of a host's; a peer's
doorbell is rung through the fabric. A write to DB_MASK replaces it, and a pending bit that it unmasks notifies once; a receiver's
write of DB_PEND clears the bits it names. -/
def Obligations.DoorbellsSetAndMasked : Prop :=
  ∀ (s : State) (v : Word),
    (∀ b x, bellAt s.mbx b = some x →
      (match b with
        | .fdHost p => ownReach s p = true
        | .fdPeer p => peerReach s p = true
        | .fdPorter => Running s
        | .porter => Awake s
        | _ => False) →
      ∃ t, exec (.doorbellSet b v) s = .next t ∧
        bellAt t.mbx b = some { x with pend := x.pend ||| (v &&& 0x3FFFFFFF#32) } ∧
        OtherBells s.mbx t.mbx b b ∧ (∀ y, boxAt t.mbx y = boxAt s.mbx y) ∧ OnlyMail s t ∧
        (v &&& 0x3FFFFFFF#32 ≠ 0 → b ≠ .fdPorter → b ≠ .porter → s.np.state ≠ .active → s.np.state ≠ .idle →
          t.np.waking = true)) ∧
    (∀ p, exec (.doorbellSet (.host p) v) s = .next (settle s)) ∧
    (∀ b x, bellAt s.mbx b = some x → ownerUp s b = true →
      (∃ t, exec (.dbMaskWrite b ⟨.pend, v⟩) s = .next t ∧ bellAt t.mbx b = some { x with pend := x.pend &&& ~~~ v } ∧
        OtherBells s.mbx t.mbx b b ∧ (∀ y, boxAt t.mbx y = boxAt s.mbx y) ∧ OnlyMail s t) ∧
      ∃ t, exec (.dbMaskWrite b ⟨.mask, v⟩) s = .next t ∧ bellAt t.mbx b = some { x with mask := v } ∧
        OtherBells s.mbx t.mbx b b ∧ (∀ y, boxAt t.mbx y = boxAt s.mbx y) ∧ OnlyMail s t ∧
        (∀ p, b = .host p → x.irq = true → x.pend &&& x.mask &&& ~~~ v ≠ 0 →
          t.desk.ports = (raiseMsix s.desk p x.vector.toNat).ports ∧
          ∃ rest, t.desk.out = (raiseMsix s.desk p x.vector.toNat).out ++ rest))

/-! ## Queue registers -/

/-- R206: a tail write to an enabled queue that names an index of its ring and does not pass the head makes the packets up to
it visible; any other is ignored and sets TAIL_ERR. The doorbell of an enabled queue is wake event 1 (Table 14.3); a queue
that is not enabled wakes nothing. A partner of another port writes nothing. -/
def Obligations.TailWriteMakesPacketsVisible : Prop :=
  ∀ (s : State) (p : Fin 4) (n : Fin 64) (v : Word),
    (OwnsQueue s p n → (s.desk.sqs.at n).enable = true →
      (TailFits (s.desk.sqs.at n) (v.toNat % 4096) →
        exec (.sqTailWrite p n v) s = .next (settle (wake 1 { s with desk := withSq s.desk n { s.desk.sqs.at n with
            tail := BitVec.ofNat 12 v.toNat
            visible := (s.desk.sqs.at n).visible ++ newVisible (s.desk.sqs.at n) (v.toNat % 4096) s.desk.now } }))) ∧
      (¬ TailFits (s.desk.sqs.at n) (v.toNat % 4096) →
        exec (.sqTailWrite p n v) s = .next (settle (wake 1 { s with desk := withSq s.desk n { s.desk.sqs.at n with tailErr := true } })))) ∧
    (OwnsQueue s p n → (s.desk.sqs.at n).enable = false →
      exec (.sqTailWrite p n v) s = .next (settle { s with desk := withSq s.desk n { s.desk.sqs.at n with tailErr := true } })) ∧
    (¬ OwnsQueue s p n → exec (.sqTailWrite p n v) s = .next s)

/-- R396: a write to SQ ring memory lands only if every byte lies within the ring of one enabled queue of the port; then its
bytes read back and every other byte of the ring memory is as it was. Any other write is ignored whole. -/
def Obligations.RingWriteLandsInOwnRings : Prop :=
  ∀ (s : State) (p : Fin 4) (off : BitVec 22) (data : Bytes), Bound s p → 1 ≤ data.length →
    ((∃ n : Fin 64, n.val % 4 = p.val ∧ (s.desk.sqs.at n).enable = true ∧ (s.desk.sqs.at n).base.toNat ≤ off.toNat ∧
        off.toNat + data.length ≤ (s.desk.sqs.at n).base.toNat + 128 * 2 ^ (s.desk.sqs.at n).log2.toNat) →
      ∃ ring, exec (.sqRingWrite p off data) s = .next (settle { s with desk := { s.desk with ring := ring } }) ∧
        (∀ i (h : i < data.length), cellRead ring (off.toNat + i) = data[i]) ∧
        ∀ a, a < off.toNat ∨ off.toNat + data.length ≤ a → cellRead ring a = cellRead s.desk.ring a) ∧
    ((¬ ∃ n : Fin 64, n.val % 4 = p.val ∧ (s.desk.sqs.at n).enable = true ∧ (s.desk.sqs.at n).base.toNat ≤ off.toNat ∧
        off.toNat + data.length ≤ (s.desk.sqs.at n).base.toNat + 128 * 2 ^ (s.desk.sqs.at n).log2.toNat) →
      exec (.sqRingWrite p off data) s = .next (settle s))

/-- R205: a write of ENABLE = 1 enables a queue that meets the five conditions, with HEAD and TAIL 0, and otherwise sets
CFG_ERR; written over an enabled queue it is ignored. A write of ENABLE = 0 disables a queue with no uncompleted
command and is refused with CFG_ERR while there is one. The other fields and SQn_BASE are written while the queue is disabled and
ignored while it is enabled. -/
def Obligations.SubmissionQueueEnables : Prop :=
  ∀ (s : State) (p : Fin 4) (n : Fin 64) (v : Word), OwnsQueue s p n →
    (SqMayEnable s.desk n (v.extractLsb' 1 4) (v.extractLsb' 5 6) → (s.desk.sqs.at n).enable = false →
      exec (.sqEnable p n v) s = .next (settle { s with desk := withSq s.desk n { s.desk.sqs.at n with
          log2 := v.extractLsb' 1 4, cq := v.extractLsb' 5 6, enable := true, head := 0, tail := 0
          early := [], visible := [], allot := [] } })) ∧
    (¬ SqMayEnable s.desk n (v.extractLsb' 1 4) (v.extractLsb' 5 6) → (s.desk.sqs.at n).enable = false →
      exec (.sqEnable p n v) s = .next (settle { s with desk := withSq s.desk n { s.desk.sqs.at n with log2 := v.extractLsb' 1 4, cq := v.extractLsb' 5 6, cfgErr := true } })) ∧
    ((s.desk.sqs.at n).enable = true → exec (.sqEnable p n v) s = .next (settle s)) ∧
    ((s.desk.sqs.at n).enable = true → uncompleted (s.desk.sqs.at n) = 0 →
      exec (.sqDisable p n v) s = .next (settle { s with desk := withSq s.desk n { s.desk.sqs.at n with enable := false } })) ∧
    ((s.desk.sqs.at n).enable = true → uncompleted (s.desk.sqs.at n) ≠ 0 →
      exec (.sqDisable p n v) s = .next (settle { s with desk := withSq s.desk n { s.desk.sqs.at n with cfgErr := true } })) ∧
    ((s.desk.sqs.at n).enable = false →
      exec (.sqDisable p n v) s = .next (settle { s with desk := withSq s.desk n { s.desk.sqs.at n with log2 := v.extractLsb' 1 4, cq := v.extractLsb' 5 6 } })) ∧
    ((s.desk.sqs.at n).enable = false →
      exec (.registerWrite p (BitVec.ofNat 26 (0x10004 + 64 * n.val)) (leBytes 4 v.toNat)) s =
        .next (settle { s with desk := withSq s.desk n { s.desk.sqs.at n with base := v.extractLsb' 0 22 } })) ∧
    ((s.desk.sqs.at n).enable = true →
      exec (.registerWrite p (BitVec.ofNat 26 (0x10004 + 64 * n.val)) (leBytes 4 v.toNat)) s = .next (settle s))

/-- R207, R208: a write of ENABLE = 1 to a disabled queue with LOG2_SIZE 4 to 12 enables it with HEAD and TAIL 0 and PHASE 1,
and with another size sets CFG_ERR; over an enabled queue it is ignored. A write of ENABLE = 0 takes effect at any time and
discards the entries that wait; on a disabled queue it writes the other fields alone.
R208: a write to CQn_HEAD sets the head to its bits [11:0]. While Front Desk runs, the entries that waited are then written,
oldest first, as far as the ring has room and the partner has not begun to leave (R279); a module below IDLE, or a queue that holds none,
has its head moved alone. -/
def Obligations.CompletionQueueRegisters : Prop :=
  (∀ (s : State) (p : Fin 4) (n : Fin 64) (v : Word), OwnsQueue s p n →
      ((s.desk.cqs.at n).enable = false → 4 ≤ (v.extractLsb' 1 4).toNat → (v.extractLsb' 1 4).toNat ≤ 12 →
        exec (.cqEnable p n v) s = .next (settle { s with desk := withCq s.desk n { s.desk.cqs.at n with
            log2 := v.extractLsb' 1 4, vector := v.extractLsb' 5 6, irq := v.getLsbD 11, report := v.getLsbD 12
            enable := true, head := 0, tail := 0, phase := true, waiting := [] } })) ∧
      ((s.desk.cqs.at n).enable = false → (v.extractLsb' 1 4).toNat < 4 ∨ 12 < (v.extractLsb' 1 4).toNat →
        exec (.cqEnable p n v) s = .next (settle { s with desk := withCq s.desk n { s.desk.cqs.at n with
            log2 := v.extractLsb' 1 4, vector := v.extractLsb' 5 6, irq := v.getLsbD 11, report := v.getLsbD 12
            cfgErr := true } })) ∧
      ((s.desk.cqs.at n).enable = true → exec (.cqEnable p n v) s = .next (settle s)) ∧
      ((s.desk.cqs.at n).enable = true →
        exec (.cqDisable p n v) s = .next (settle { s with desk := withCq s.desk n { s.desk.cqs.at n with enable := false, waiting := [] } })) ∧
      ((s.desk.cqs.at n).enable = false →
        exec (.cqDisable p n v) s = .next (settle { s with desk := withCq s.desk n { s.desk.cqs.at n with
            log2 := v.extractLsb' 1 4, vector := v.extractLsb' 5 6, irq := v.getLsbD 11, report := v.getLsbD 12 } }))) ∧
  (∀ (s : State) (p : Fin 4) (n : Fin 64) (v : Word), OwnsQueue s p n →
      (¬ Awake s ∨ (s.desk.cqs.at n).waiting = [] ∨ (s.desk.ports.at p).leaves = true →
        exec (.cqHeadWrite p n v) s = .next (settle { s with desk := withCq s.desk n { s.desk.cqs.at n with head := v.extractLsb' 0 12 } })) ∧
      (∀ w rest, Awake s → (s.desk.ports.at p).leaves = false → (s.desk.cqs.at n).waiting = w :: rest →
        ((s.desk.cqs.at n).enable = true →
          ((s.desk.cqs.at n).tail.toNat + 1) % 2 ^ (s.desk.cqs.at n).log2.toNat ≠ v.toNat % 4096 →
          exec (.cqHeadWrite p n v) s = .next (settle { s with
            desk := cqDrain rest.length (cqWrite (withCq s.desk n { s.desk.cqs.at n with
              head := v.extractLsb' 0 12, waiting := rest }) n w.entry w.report) n })) ∧
        ((s.desk.cqs.at n).enable = false ∨
            ((s.desk.cqs.at n).tail.toNat + 1) % 2 ^ (s.desk.cqs.at n).log2.toNat = v.toNat % 4096 →
          exec (.cqHeadWrite p n v) s = .next (settle { s with desk := withCq s.desk n { s.desk.cqs.at n with head := v.extractLsb' 0 12 } }))))

/-! ## Module-wide registers -/

/-- R209: a read of SQC.NOW_LO returns the low word of the nanoseconds since reset and latches NOW_HI; a read of FENCEf_LO
returns the low word of the fence's value and latches FENCEf_HI. Neither changes anything else.
R178: a write to GCTL.MODE by any attached partner replaces the mode for commands dispatched after it, makes one EVENT
record of code 1 in the Ledger, and is wake event 7; commands under way keep what they sampled. -/
def Obligations.ModuleWideRegisters : Prop :=
  (∀ (s : State) (p : Fin 4),
      (Attached s p →
        exec (.nowRead p) s = .next { s with
          desk := { s.desk with nowHi := BitVec.ofNat 32 (s.desk.now / 2 ^ 32) }, reply := .reg (BitVec.ofNat 32 s.desk.now) } ∧
        ∀ f : Fin 256, f.val / 64 < gradeUp s.fuses.grade →
          exec (.fenceValueRead p f) s = .next { s with
            desk := withFence s.desk f { s.desk.fences.at f with
              hiLatch := ((s.desk.fences.at f).value >>> 32).truncate 32 }
            reply := .reg ((s.desk.fences.at f).value.truncate 32) }) ∧
      (¬ Attached s p → exec (.nowRead p) s = .next s ∧ ∀ f, exec (.fenceValueRead p f) s = .next s)) ∧
  (∀ (s : State) (p : Fin 4) (v : Word), Attached s p →
      ∃ t, exec (.gctlModeWrite p v) s = .next t ∧
        t.desk.gctl = { s.desk.gctl with
          detStrict := v.getLsbD 0, fixedTiming := v.getLsbD 1, timingClass := v.extractLsb' 2 2 } ∧
        t.desk.ledger.head = s.desk.ledger.head + 1 ∧
        (∀ i : Fin 256, i.val ≠ s.desk.ledger.head % 256 → t.desk.ledger.ring.at i = s.desk.ledger.ring.at i) ∧
        (t.desk.ledger.ring.at (fin 256 s.desk.ledger.head)).take 16 =
          leBytes 8 s.desk.ledger.head ++ [5, 0xFF, 0xFF, 0, 0, 0, 0, 0] ∧
        field (t.desk.ledger.ring.at (fin 256 s.desk.ledger.head)) 24 2 = 1 ∧
        field (t.desk.ledger.ring.at (fin 256 s.desk.ledger.head)) 28 4 = p.val ∧
        field (t.desk.ledger.ring.at (fin 256 s.desk.ledger.head)) 40 4 = v.toNat % 16 ∧
        t.desk.sqs = s.desk.sqs ∧ t.desk.cqs = s.desk.cqs ∧ t.desk.slots = s.desk.slots ∧ t.desk.mem = s.desk.mem ∧
        t.desk.ports = s.desk.ports ∧ t.desk.fences = s.desk.fences ∧ t.mbx = s.mbx ∧ t.locks = s.locks ∧
        t.trng = s.trng ∧ t.sec = s.sec ∧ t.elec = s.elec ∧ t.fuses = s.fuses ∧ PorterWakes s.np t.np)

/-- R202: with ENABLE going from 0 to 1 mirroring starts at LGR.MIRRORED, or at the oldest record still on chip, in which case
LOST is set and LOST_COUNT advances by the records between. ENABLE = 0 stops it. The next record goes to the host address
BASE + 128 × (SEQ mod 2^LOG2); a full host ring sets LAG; a write outside every DMA window clears ENABLE and sets WINDOW_GONE. -/
def Obligations.LedgerIsMirrored : Prop :=
  ∀ s : State,
    (∀ (p : Fin 4) (v : Word), Attached s p → ∃ t, exec (.ledgerMirrorEnable p v) s = .next t ∧
      t.desk = { s.desk with
        ledger := t.desk.ledger, deadlockSince := t.desk.deadlockSince, tx := t.desk.tx, out := t.desk.out
        marks := t.desk.marks, drain := t.desk.drain } ∧
      (v.getLsbD 0 = false → t.desk.ledger = { s.desk.ledger with enable := false, lag := false }) ∧
      (v.getLsbD 0 = true → s.desk.ledger.enable = true → t.desk.ledger = { s.desk.ledger with port := p }) ∧
      (v.getLsbD 0 = true → s.desk.ledger.enable = false →
        (s.desk.ledger.head ≤ s.desk.ledger.mirrored + 256 →
          t.desk.ledger = { s.desk.ledger with enable := true, port := p }) ∧
        (s.desk.ledger.mirrored + 256 < s.desk.ledger.head →
          t.desk.ledger = { s.desk.ledger with
            enable := true, port := p, mirrored := s.desk.ledger.head - 256, lost := true
            lostCount := min 0xFFFFFFFF (s.desk.ledger.lostCount + (s.desk.ledger.head - 256 - s.desk.ledger.mirrored)) }))) ∧
    (Awake s → s.desk.ledger.enable = false ∨ s.desk.ledger.head ≤ s.desk.ledger.mirrored →
      exec .ledgerMirrorWrite s = .next (settle s)) ∧
    (Awake s → s.desk.ledger.enable = true → s.desk.ledger.mirrored < s.desk.ledger.head →
      (s.desk.ports.at s.desk.ledger.port).leaves = false →
      (mirrorLen s.desk.ledger ≤ s.desk.ledger.mirrored - s.desk.ledger.tail.toNat →
        exec .ledgerMirrorWrite s = .next (settle { s with desk := { s.desk with ledger := { s.desk.ledger with lag := true } } })) ∧
      (s.desk.ledger.mirrored - s.desk.ledger.tail.toNat < mirrorLen s.desk.ledger →
        (transferOk (s.desk.ports.at s.desk.ledger.port) true
            (s.desk.ledger.base.toNat + 128 * (s.desk.ledger.mirrored % mirrorLen s.desk.ledger))
            (s.desk.ledger.ring.at (fin 256 s.desk.ledger.mirrored)).length = true →
          exec .ledgerMirrorWrite s = .next (settle { s with desk := { s.desk with
            ledger := { s.desk.ledger with mirrored := s.desk.ledger.mirrored + 1, lag := false }
            ports := s.desk.ports.put s.desk.ledger.port { s.desk.ports.at s.desk.ledger.port with
              host := cellWrites (s.desk.ports.at s.desk.ledger.port).host
                (s.desk.ledger.base.toNat + 128 * (s.desk.ledger.mirrored % mirrorLen s.desk.ledger))
                (s.desk.ledger.ring.at (fin 256 s.desk.ledger.mirrored)) } } })) ∧
        (transferOk (s.desk.ports.at s.desk.ledger.port) true
            (s.desk.ledger.base.toNat + 128 * (s.desk.ledger.mirrored % mirrorLen s.desk.ledger))
            (s.desk.ledger.ring.at (fin 256 s.desk.ledger.mirrored)).length = false →
          ∃ t, exec .ledgerMirrorWrite s = .next t ∧
            t.desk.ledger = { s.desk.ledger with enable := false, windowGone := true, lag := false } ∧
            (t.desk.ports.at s.desk.ledger.port).faultCount =
              min 0xFFFFFFFF ((s.desk.ports.at s.desk.ledger.port).faultCount + 1) ∧
            ∀ p, (t.desk.ports.at p).host = (s.desk.ports.at p).host)))

/-- R263, R264, R278: a word written by a partner takes effect in the block that its offset names: SQC.SLICE, GCTL.CKPT, the
descent timers and PCAP_HOST from any attached partner; a DMA window from the bound partner of its port alone. Writes
to offsets that no block defines, to another port's block, or not at a word address change no register. -/
def Obligations.RegisterWritesTakeEffect : Prop :=
  ∀ (s : State) (p : Fin 4) (v : Word),
    (Attached s p →
      exec (.registerWrite p 0x11000#26 (leBytes 4 v.toNat)) s =
        .next (settle { s with desk := { s.desk with slice := v.extractLsb' 0 10 } }) ∧
      exec (.registerWrite p 0x1004#26 (leBytes 4 v.toNat)) s =
        .next (settle { s with desk := { s.desk with gctl := { s.desk.gctl with ckpt := v.extractLsb' 0 16 } } }) ∧
      exec (.registerWrite p 0xB0014#26 (leBytes 4 v.toNat)) s =
        .next (settle { s with np := { s.np with pcapHost := v.extractLsb' 0 16 } }) ∧
      (s.np.state ≠ .idle → exec (.registerWrite p 0xB0004#26 (leBytes 4 v.toNat)) s =
        .next (settle { s with np := { s.np with idleNap := v.extractLsb' 0 20 } }))) ∧
    (Bound s p → ∀ w : Fin 64, ((s.desk.ports.at p).dw.at w).en = false →
      exec (.registerWrite p (BitVec.ofNat 26 (0x40000 + 0x1000 * p.val + 16 * w.val)) (leBytes 4 v.toNat)) s =
        .next (settle { s with desk := withPort s.desk p { s.desk.ports.at p with
          dw := (s.desk.ports.at p).dw.put w { (s.desk.ports.at p).dw.at w with
            base := ((s.desk.ports.at p).dw.at w).base.extractLsb' 32 32 ++ (v &&& 0xFFFFF000#32) } } })) ∧
    (∀ (q : Fin 4) (o : Nat), q ≠ p → o < 0x1000 →
      exec (.registerWrite p (BitVec.ofNat 26 (0x40000 + 0x1000 * q.val + o)) (leBytes 4 v.toNat)) s = .next (settle s)) ∧
    (¬ Attached s p → ∀ (off : BitVec 26) (data : Bytes), exec (.registerWrite p off data) s = .next (settle s)) ∧
    ∀ (off : BitVec 26) (data : Bytes), off.toNat < 0x100000 ∨ 0x500000 ≤ off.toNat → off.toNat % 4 ≠ 0 →
      exec (.registerWrite p off data) s = .next (settle s)

/-! ## The aperture and MSI-X -/

/-- R269, R418: a request through an enabled aperture window over the module's memory reads or writes device memory at
BASE + x. A sound read answers the bytes; a read that meets an uncorrectable sector is answered Completer Abort; a window
that is off or not wholly in memory reads all ones and drops writes, with APW_ERR_COUNT advanced.
R265: unmasking a vector sends its pending message at once when MSI-X is enabled and the function may send, and clears its pending bit;
otherwise, or with nothing pending, it changes the mask alone. Enabling MSI-X, or another write to the function's configuration space
(log entry 10), with no vector pending sends nothing and changes its own bits. -/
def Obligations.ApertureAndInterrupts : Prop :=
  (∀ (s : State) (p : Fin 4) (off : BitVec 36), Attached s p → s.np.state ≠ .doze → s.np.state ≠ .night →
      (∀ a, apertureTarget s.fuses.grade s.desk p off.toNat = some a →
        (∀ len, 1 ≤ len → off.toNat % 4096 + len ≤ 4096 →
          (badSector s.desk.mem a len = none →
            exec (.apertureAccess p off (.read len)) s =
              .next { s with reply := .bytes ((List.range len).map fun i => cellRead s.desk.mem.cells (a + i)) }) ∧
          (badSector s.desk.mem a len ≠ none → ∃ t, exec (.apertureAccess p off (.read len)) s = .next t ∧
            t.reply = .completerAbort ∧ (t.desk.ports.at p).apwUe = min 0xFFFFFFFF ((s.desk.ports.at p).apwUe + 1) ∧
            (t.desk.ports.at p).aerAbort = true ∧ t.desk.mem.cells = s.desk.mem.cells ∧ t.desk.mem.ue = s.desk.mem.ue ∧
            t.desk.errs.logCount = min 0xFFFF (s.desk.errs.logCount + 1))) ∧
        (∀ data : Bytes, 1 ≤ data.length → off.toNat % 4096 + data.length ≤ 4096 →
          narrowHits s.desk.mem a data.length = [] →
          ∃ cells, exec (.apertureAccess p off (.write data)) s =
              .next { s with desk := { s.desk with mem := { s.desk.mem with
                cells := cells
                ue := s.desk.mem.ue.filter fun x => ¬ (a ≤ 32 * x ∧ 32 * x + 32 ≤ a + data.length)
                ueFound := s.desk.mem.ueFound.filter fun x => ¬ (a ≤ 32 * x ∧ 32 * x + 32 ≤ a + data.length) } } } ∧
            (∀ i (h : i < data.length), cellRead cells (a + i) = data[i]) ∧
            ∀ b, b < a ∨ a + data.length ≤ b → cellRead cells b = cellRead s.desk.mem.cells b)) ∧
      (apertureTarget s.fuses.grade s.desk p off.toNat = none →
        (∀ len, 1 ≤ len → off.toNat % 4096 + len ≤ 4096 →
          exec (.apertureAccess p off (.read len)) s = .next { s with
            desk := withPort s.desk p { s.desk.ports.at p with
              apwErr := min 0xFFFFFFFF ((s.desk.ports.at p).apwErr + 1) }
            reply := .bytes (List.replicate len 0xFF) }) ∧
        ∀ data : Bytes, 1 ≤ data.length → off.toNat % 4096 + data.length ≤ 4096 →
          exec (.apertureAccess p off (.write data)) s = .next { s with
            desk := withPort s.desk p { s.desk.ports.at p with
              apwErr := min 0xFFFFFFFF ((s.desk.ports.at p).apwErr + 1) } })) ∧
  (∀ (s : State) (p : Fin 4) (v : Fin 64), Attached s p →
      ((s.desk.ports.at p).msixEnable = true → (s.desk.ports.at p).msixMask = false → (s.desk.ports.at p).busMaster = true →
        (s.desk.ports.at p).pba.at v = true →
        exec (.msixUnmask p (.vector v)) s = .next { s with
          desk := withOut (withPort s.desk p { s.desk.ports.at p with
            msix := (s.desk.ports.at p).msix.put v { (s.desk.ports.at p).msix.at v with mask := false }
            pba := (s.desk.ports.at p).pba.put v false }) [.msix p v.val] }) ∧
      ((s.desk.ports.at p).msixEnable = false ∨ (s.desk.ports.at p).msixMask = true ∨ (s.desk.ports.at p).busMaster = false ∨
          (s.desk.ports.at p).pba.at v = false →
        exec (.msixUnmask p (.vector v)) s = .next { s with desk := withPort s.desk p { s.desk.ports.at p with
            msix := (s.desk.ports.at p).msix.put v { (s.desk.ports.at p).msix.at v with mask := false } } }) ∧
      ((s.desk.ports.at p).guest.state = .bound → (∀ w, (s.desk.ports.at p).pba.at w = false) →
        exec (.msixUnmask p .enable) s = .next { s with desk := withPort s.desk p { s.desk.ports.at p with msixEnable := true } } ∧
        exec (.msixUnmask p .disable) s = .next { s with desk := withPort s.desk p { s.desk.ports.at p with msixEnable := false } } ∧
        exec (.msixUnmask p .aer) s = .next { s with desk := withPort s.desk p { s.desk.ports.at p with aerAbort := false } } ∧
        (∀ on, exec (.msixUnmask p (.function on)) s = .next { s with desk := withPort s.desk p { s.desk.ports.at p with msixMask := on } } ∧
          exec (.msixUnmask p (.busMaster on)) s = .next { s with desk := withPort s.desk p { s.desk.ports.at p with busMaster := on } } ∧
          exec (.msixUnmask p (.power on)) s = .next { s with desk := withPort s.desk p { s.desk.ports.at p with d3hot := on } }) ∧
        ∀ a b, exec (.msixUnmask p (.sizes a b)) s = .next { s with desk := withPort s.desk p { s.desk.ports.at p with
          payload := a, readSize := b } }))

/-! ## The random source -/

/-- R391, R392: a read of TRNG_DATA_LO with no reader ahead takes the word at the head of the pool and latches VALID for its
requester; with the pool empty or a reader ahead it stalls behind them; while STATE is OFF it returns 0 with FAIL. A stalled
read that reaches its bound (50 µs for Front Desk and Night Porter, 15 µs for a partner) returns 0 with VALID = 0.
R391: the first reader that waits is served its words, and only they leave the pool: one for a read of TRNG_DATA_LO, 24 for
a key generation. While the pool does not hold all of them nobody is served, whoever waits behind. -/
def Obligations.RandomWordsGoToReadersInOrder : Prop :=
  (∀ (s : State) (who : Requester),
      (trngReach s who = true →
        (s.trng.state = .off → exec (.trngDataRead who) s =
          .next { s with trng := { s.trng with latch := s.trng.latch.put who 4 }, reply := .reg 0 }) ∧
        (s.trng.state ≠ .off → s.trng.waiting = [] → ∀ w rest, s.trng.pool = w :: rest →
          exec (.trngDataRead who) s = .next { s with
            trng := { s.trng with
              pool := rest
              latch := s.trng.latch.put who (if s.trng.state = .startup ∨ s.trng.state = .requal then 3 else 1) }
            reply := .reg w }) ∧
        (s.trng.state ≠ .off → s.trng.waiting ≠ [] ∨ s.trng.pool = [] →
          exec (.trngDataRead who) s = .next { s with
            trng := { s.trng with waiting := s.trng.waiting ++ [.word who s.desk.now] }, reply := .stall })) ∧
      (trngReach s who = false → exec (.trngDataRead who) s = .next s) ∧
      (∀ ahead since behind, s.trng.waiting = ahead ++ .word who since :: behind →
        (∀ t, .word who t ∉ ahead) → s.elec.life ≠ .off → s.elec.life ≠ .held →
        since + (if who.val < 2 then 50000 else 15000) ≤ s.desk.now →
        exec (.trngReadTimeout who) s = .next { s with
          trng := { s.trng with
            waiting := ahead ++ behind
            latch := s.trng.latch.put who (if s.trng.state = .startup ∨ s.trng.state = .requal then 2 else 0) }
          reply := .reg 0 }) ∧
      ((∀ since, .word who since ∈ s.trng.waiting → s.desk.now < since + (if who.val < 2 then 50000 else 15000)) →
        exec (.trngReadTimeout who) s = .next s)) ∧
  (∀ (s : State) (r : Reader) (rest : List Reader), s.elec.life ≠ .off → s.elec.life ≠ .held →
      s.trng.waiting = r :: rest → (∀ x ∈ s.trng.waiting, staleReader s.desk x = false) →
      (s.trng.pool.length < (match r with | .word _ _ => 1 | .seed _ => 4 | .keys => 24) →
        exec .poolDelivery s = .next s) ∧
      (∀ who since w more, r = .word who since → s.trng.pool = w :: more →
        exec .poolDelivery s = .next { s with
          trng := { s.trng with
            pool := more, waiting := rest
            latch := s.trng.latch.put who (if s.trng.state = .startup ∨ s.trng.state = .requal then 3 else 1) }
          reply := .reg w }) ∧
      (r = .keys → 24 ≤ s.trng.pool.length →
        exec .poolDelivery s = .next { s with
          trng := { s.trng with pool := s.trng.pool.drop 24, waiting := rest }
          sec := { s.sec with drawn := s.trng.pool.take 24 } }))

/-- R385, R386, R387, R393: a sample that no test condemns is counted, and in READY its eleven bits are XORed into one raw bit;
512 raw bits make a block that awaits its window. A sample that a test condemns flushes the pool and every block, counts in
TRNG_FAILS, releases the stalled reads with FAIL, and starts the re-qualification of a READY or STARTUP source.
R388, R389, R390: after 1,024 samples the windows close: in READY the blocks that awaited them enter the pool, as far as its 512
words have room; a startup test or re-qualification ends in READY with nothing in the pool. After 65,536 samples the counts of
ones and of adjacent pairs are published. Before that many samples neither event changes anything. -/
def Obligations.SamplesAreTestedAndPooled : Prop :=
  (∀ (s : State) (v : BitVec 11), s.elec.life ≠ .off → s.elec.life ≠ .held → s.trng.state ≠ .off →
      s.trng.pos < 1024 → s.trng.statPos < 65536 →
      ((∀ i : Fin 11, (sampleSource s.trng.pos s.trng.statPos (v.getLsbD i.val) (s.trng.src.at i)).run < 41 ∧
          (sampleSource s.trng.pos s.trng.statPos (v.getLsbD i.val) (s.trng.src.at i)).apCount < 800) →
        ∃ t, exec (.trngSample v) s = .next t ∧
          t.trng.pos = s.trng.pos + 1 ∧ t.trng.statPos = s.trng.statPos + 1 ∧ t.trng.pool = s.trng.pool ∧
          t.trng.waiting = s.trng.waiting ∧ t.trng.state = s.trng.state ∧ t.trng.fails = s.trng.fails ∧
          (∀ i : Fin 11, (t.trng.src.at i).last = v.getLsbD i.val ∧
            (t.trng.src.at i).run =
              (if 0 < (s.trng.src.at i).run ∧ (s.trng.src.at i).last = v.getLsbD i.val then (s.trng.src.at i).run + 1 else 1)) ∧
          (s.trng.state ≠ .ready → t.trng.raw = s.trng.raw ∧ t.trng.blocks = s.trng.blocks) ∧
          (s.trng.state = .ready → s.trng.raw.length + 1 < 512 →
            t.trng.raw = s.trng.raw ++ [decide (((List.range 11).filter fun i => v.getLsbD i).length % 2 = 1)] ∧
            t.trng.blocks = s.trng.blocks) ∧
          (s.trng.state = .ready → s.trng.raw.length + 1 = 512 →
            t.trng.raw = [] ∧ t.trng.blocks.length = s.trng.blocks.length + 1) ∧
          t.desk.sqs = s.desk.sqs ∧ t.desk.slots = s.desk.slots ∧ t.desk.mem = s.desk.mem ∧ t.mbx = s.mbx ∧ t.sec = s.sec) ∧
      ((∃ i : Fin 11, 41 ≤ (sampleSource s.trng.pos s.trng.statPos (v.getLsbD i.val) (s.trng.src.at i)).run ∨
          800 ≤ (sampleSource s.trng.pos s.trng.statPos (v.getLsbD i.val) (s.trng.src.at i)).apCount) →
        ∃ t, exec (.trngSample v) s = .next t ∧ t.trng.pool = [] ∧ t.trng.blocks = [] ∧ t.trng.pos = 0 ∧
          t.trng.fails = min 0xFFFFFFFF (s.trng.fails + 1) ∧ (∀ w since, .word w since ∉ t.trng.waiting) ∧
          (∀ w since, .word w since ∈ s.trng.waiting → t.trng.latch.at w = 4) ∧
          (s.trng.state ≠ .requal → t.trng.state = .requal ∧ t.trng.attempt = 1) ∧
          (s.trng.state = .requal → s.trng.attempt < 3 → t.trng.state = .requal ∧ t.trng.attempt = s.trng.attempt + 1) ∧
          (s.trng.state = .requal → 3 ≤ s.trng.attempt → t.trng.state = .off))) ∧
  (∀ s : State, s.elec.life ≠ .off → s.elec.life ≠ .held →
      (s.trng.pos = 1024 → s.trng.state = .ready →
        exec .windowClose s = .next { s with trng := { s.trng with
          pos := 0, raw := [], blocks := [], pool := enterPool s.trng.pool s.trng.blocks } }) ∧
      (s.trng.pos = 1024 → s.trng.state = .startup ∨ s.trng.state = .requal →
        exec .windowClose s = .next { s with trng := { s.trng with
          pos := 0, raw := [], blocks := [], state := .ready, attempt := 0 } }) ∧
      (s.trng.pos ≠ 1024 → exec .windowClose s = .next s) ∧
      (s.trng.statPos = 65536 → ∃ t, exec .statsWindow s = .next t ∧ t = { s with trng := t.trng } ∧
        t.trng = { s.trng with statPos := 0, src := t.trng.src } ∧
        ∀ i, t.trng.src.at i = { s.trng.src.at i with
          onesOut := (s.trng.src.at i).ones, pairsOut := (s.trng.src.at i).pairs }) ∧
      (s.trng.statPos ≠ 65536 → exec .statsWindow s = .next s))

/-! ## USB4 ports -/

/-- R278, R280: a partner that arrives on an EMPTY port makes its entry ARRIVING, with its UUID, topology ID and link mode, and the next
40 ns bind it afresh (log entry 20): STATE BOUND, ARRIVALS advanced, every queue of the port at reset, its fences 0, its windows
and counters cleared. What other ports, the memory and the slots hold stays. An event that Front Desk cannot deal with yet waits its turn:
below IDLE it wakes the module first, and on a DEPARTING port the arrival waits. On a tunnel that is up nothing happens.
R236, R252, R256, R279: when a partner departs with no command of its port uncompleted, the departure is complete at once: the
entry EMPTY with the cause and the departure counted, the port's fences all ones with ERR, its queues disabled, its locks free,
its windows cleared, its F2H queue discarded; a Function Level Reset is followed by the arrival of the same partner. The fences and
locks of others stay. -/
def Obligations.PartnersComeAndGo : Prop :=
  (∀ (s : State) (p : Fin 4) (uuid : BitVec 128) (topo : BitVec 64) (mode : BitVec 3),
      Running s → portPresent s.fuses.grade p = true →
      (Awake s → (s.desk.ports.at p).guest.state = .empty → (s.desk.ports.at p).events = [] →
        ∃ t, exec (.partnerArrival p uuid topo mode) s = .next t ∧
          t.desk.ports.at p = { s.desk.ports.at p with guest := { (s.desk.ports.at p).guest with
            state := .arriving, linkMode := mode, uuid := uuid, topo := topo } } ∧
          (∀ q, q ≠ p → t.desk.ports.at q = s.desk.ports.at q) ∧ t.desk.sqs = s.desk.sqs ∧ t.desk.cqs = s.desk.cqs ∧
          t.desk.fences = s.desk.fences ∧ t.desk.mem = s.desk.mem ∧ t.desk.slots = s.desk.slots ∧ t.mbx = s.mbx ∧
          t.locks = s.locks ∧ t.elec = s.elec) ∧
      (tunnelUp (s.desk.ports.at p) = false →
        (¬ Awake s ∨ ((s.desk.ports.at p).guest.state = .departing ∧ ∃ n : Fin 64, n.val % 4 = p.val ∧ queueBusy s.desk n = true) →
        ∃ t, exec (.partnerArrival p uuid topo mode) s = .next t ∧
          t.desk.ports.at p = { s.desk.ports.at p with events := (s.desk.ports.at p).events ++ [.arrival ⟨uuid, topo, mode⟩] } ∧
          t.desk.sqs = s.desk.sqs ∧ t.desk.fences = s.desk.fences ∧ t.desk.mem = s.desk.mem ∧ (¬ Awake s → t.np.waking = true))) ∧
      (tunnelUp (s.desk.ports.at p) = true → exec (.partnerArrival p uuid topo mode) s = .next s)) ∧
  (∀ (s : State) (p : Fin 4), Awake s → s.pending = [] → (s.desk.ports.at p).guest.state = .arriving →
      (∀ q, q ≠ p → PortQuiet s.desk q) → ∃ t, step s = .next t ∧
        (t.desk.ports.at p).guest = { (s.desk.ports.at p).guest with
          state := .bound, arrive := (s.desk.now + 40) * 32768 / 1000000000
          arrivals := min 0xFFFF ((s.desk.ports.at p).guest.arrivals + 1) } ∧
        (∀ w, ((t.desk.ports.at p).dw.at w).en = false ∧ ((t.desk.ports.at p).apw.at w).en = false) ∧
        (t.desk.ports.at p).faultCount = 0 ∧ (t.desk.ports.at p).apwErr = 0 ∧ (t.desk.ports.at p).apwUe = 0 ∧
        (t.desk.ports.at p).host = (s.desk.ports.at p).host ∧
        (∀ q, q ≠ p → (t.desk.ports.at q).guest = (s.desk.ports.at q).guest ∧ (t.desk.ports.at q).host = (s.desk.ports.at q).host ∧
          (t.desk.ports.at q).dw = (s.desk.ports.at q).dw) ∧
        (∀ n : Fin 64, n.val % 4 = p.val → (t.desk.sqs.at n).enable = false ∧ (t.desk.sqs.at n).cur = none ∧
          (t.desk.cqs.at n).enable = false) ∧
        (∀ n : Fin 64, n.val % 4 ≠ p.val → t.desk.sqs.at n = s.desk.sqs.at n ∧ t.desk.cqs.at n = s.desk.cqs.at n) ∧
        (∀ f : Fin 256, f.val / 64 = p.val → (t.desk.fences.at f).value = 0 ∧ (t.desk.fences.at f).err = false) ∧
        (∀ f : Fin 256, f.val / 64 ≠ p.val → t.desk.fences.at f = s.desk.fences.at f) ∧
        t.mbx.dropped.at p = 0 ∧ (t.mbx.h2f.at p).full = false ∧ (t.mbx.host.at p).mask = 0xFFFFFFFF ∧
        t.desk.slots = s.desk.slots ∧ t.desk.mem.cells = s.desk.mem.cells ∧ t.desk.ledger = s.desk.ledger ∧ t.locks = s.locks ∧
        t.trng = s.trng ∧ t.sec = s.sec ∧ t.elec = s.elec) ∧
  (∀ (s : State) (p : Fin 4) (cause : BitVec 4), Running s → portPresent s.fuses.grade p = true →
      1 ≤ cause.toNat → cause.toNat ≤ 5 →
      (tunnelUp (s.desk.ports.at p) = false → exec (.partnerDeparture p cause) s = .next s) ∧
      (Awake s → (s.desk.ports.at p).guest.state = .bound → (s.desk.ports.at p).events = [] →
        (∀ n : Fin 64, n.val % 4 = p.val → queueBusy s.desk n = false ∧ openIndices (s.desk.sqs.at n) = []) →
        (∀ w ∈ s.desk.aborts, queuePort w.sq ≠ p) →
        ∃ t, exec (.partnerDeparture p cause) s = .next t ∧
          (t.desk.ports.at p).guest.state = .empty ∧ (t.desk.ports.at p).guest.cause = cause ∧
          (t.desk.ports.at p).events = (if cause = 3 then [.arrival ⟨(s.desk.ports.at p).guest.uuid, (s.desk.ports.at p).guest.topo,
            (s.desk.ports.at p).guest.linkMode⟩] else []) ∧
          (t.desk.ports.at p).guest.departs = min 0xFFFF ((s.desk.ports.at p).guest.departs + 1) ∧
          (t.desk.ports.at p).guest.depart = rtcOf s.desk ∧
          (t.desk.ports.at p).guest.arrivals = (s.desk.ports.at p).guest.arrivals ∧
          (∀ w, ((t.desk.ports.at p).dw.at w).en = false ∧ ((t.desk.ports.at p).apw.at w).en = false) ∧
          (∀ q, q ≠ p → (t.desk.ports.at q).guest = (s.desk.ports.at q).guest ∧ (t.desk.ports.at q).host = (s.desk.ports.at q).host) ∧
          (∀ n : Fin 64, n.val % 4 = p.val → (t.desk.sqs.at n).enable = false ∧ (t.desk.cqs.at n).enable = false) ∧
          (∀ f : Fin 256, f.val / 64 = p.val →
            (t.desk.fences.at f).value = 0xFFFFFFFFFFFFFFFF ∧ (t.desk.fences.at f).err = true) ∧
          (∀ f : Fin 256, f.val / 64 ≠ p.val → t.desk.fences.at f = s.desk.fences.at f) ∧
          (∀ n : Fin 64, t.locks.owner.at n =
            if s.locks.owner.at n = some (fin 32 (2 + p.val)) then none else s.locks.owner.at n) ∧
          t.mbx.f2hQueue.at p = [] ∧ (t.mbx.f2h.at p).full = false ∧ (t.mbx.h2f.at p).full = false ∧
          t.desk.mem.cells = s.desk.mem.cells ∧ t.desk.ledger.head = s.desk.ledger.head + 1) ∧
      (¬ Awake s → tunnelUp (s.desk.ports.at p) = true → ∃ t, exec (.partnerDeparture p cause) s = .next t ∧
        (t.desk.ports.at p).leaves = true ∧ (t.desk.ports.at p).guest = (s.desk.ports.at p).guest ∧ t.desk.sqs = s.desk.sqs ∧
        t.desk.fences = s.desk.fences ∧ t.np.waking = true))

/-- R259, R277: a change of link state shows in LINK_MODE and changes nothing else; a bound partner's link is not lost by it
(that is a departure). The configuration of the USB 2.0 service function shows in USB2.
R281, R249, R276, R408, R409: identity, sensors, guests, STATUS and the newest error entry are answered from the registers, in
every module state that is up; nothing but the answer changes, and ERRS_LOG alone wakes the module. Out of service the
SMBus target does not acknowledge and the USB function stalls; a vendor request that is none of Table 11.12 is stalled (R282). -/
def Obligations.PortsAndServiceReads : Prop :=
  (∀ (s : State) (p : Fin 4) (mode : BitVec 3),
      (Running s → portPresent s.fuses.grade p = true → mode.toNat ≤ 4 →
        (mode ≠ 0 ∨ (s.desk.ports.at p).guest.state = .empty →
          exec (.linkStateChange p mode) s = .next { s with desk := withPort s.desk p { s.desk.ports.at p with
            guest := { (s.desk.ports.at p).guest with linkMode := mode } } }) ∧
        (mode = 0 → (s.desk.ports.at p).guest.state ≠ .empty → exec (.linkStateChange p mode) s = .next s)) ∧
      (s.elec.life ≠ .off → s.elec.life ≠ .held → portPresent s.fuses.grade p = true →
        exec (.usb2Configured p) s = .next { s with desk := withPort s.desk p { s.desk.ports.at p with
          guest := { (s.desk.ports.at p).guest with usb2 := true } } })) ∧
  (∀ (s : State) (p : Fin 4) (n : Fin 128),
      (isUp s = true → portPresent s.fuses.grade p = true →
        (∃ bs, exec (.getIdent ⟨p, none⟩) s = .next { s with reply := .bytes bs } ∧ bs.length = 32 ∧
          field bs 0 4 = (gradeUnits s.fuses.grade).toNat ∧ field bs 4 4 = s.desk.gctl.fwVersion.toNat ∧
          field bs 8 4 = s.desk.gctl.epoch.toNat ∧ field bs 12 4 = lcCode s.sec.lifecycle ∧
          field bs 16 4 = s.desk.bootId.toNat ∧ field bs 20 4 = s.elec.moduleId.toNat ∧
          field bs 24 4 = stateCode s.np.state) ∧
        (∃ bs, exec (.getSensor p n) s = .next { s with reply := .bytes bs } ∧ bs.length = 16 ∧
          field bs 0 4 = (if channelSampled s.fuses.grade n.val then unsigned 32 (s.np.val.at n) else 0) ∧
          field bs 4 8 = rtcOf s.desk % 2 ^ 64 ∧
          field bs 12 4 = (if channelSampled s.fuses.grade n.val then 0 else 1)) ∧
        (s.elec.life ≠ .retired →
          ∃ bs, exec (.getGuests p) s = .next { s with reply := .bytes bs } ∧ bs.length = 256 ∧
            ∀ q : Fin 4, field bs (64 * q.val) 1 =
              if portPresent s.fuses.grade q then
                (match (s.desk.ports.at q).guest.state with | .empty => 0 | .arriving => 1 | .bound => 2 | .departing => 3) +
                  4 * (s.desk.ports.at q).guest.linkMode.toNat + 32 * b2n (s.desk.ports.at q).guest.usb2
              else 0)) ∧
      (isUp s = true →
        (∃ bs, exec .ident s = .next { s with reply := .bytes bs } ∧ bs.length = 16 ∧
          field bs 0 4 = (gradeUnits s.fuses.grade).toNat ∧ field bs 4 8 = s.fuses.serial.toNat ∧
          field bs 12 1 = s.elec.moduleId.toNat ∧ field bs 13 1 = lcCode s.sec.lifecycle ∧
          field bs 14 1 = stateCode s.np.state) ∧
        exec .status s = .next { s with reply := .bytes [statusWord s, 0] } ∧
        (∃ bs, exec (.sensor n) s = .next { s with reply := .bytes bs } ∧
          exec (.getSensor 0 n) s = .next { s with reply := .bytes bs }) ∧
        (Running s → ∃ t bs, exec .errsLog s = .next t ∧ t.reply = .bytes bs ∧ bs.length = 32 ∧
          field bs 4 4 = servedCount s.fuses.grade s.desk ∧ field bs 8 4 = s.desk.errs.resetCause.toNat ∧
          field bs 14 2 = s.desk.errs.logCount % 65536 ∧
          field bs 20 8 = (s.desk.errs.log.at (s.desk.errs.logHead + 15)).time % 2 ^ 64 ∧
          t.desk.errs = s.desk.errs ∧ t.mbx = s.mbx ∧ PorterWakes s.np t.np)) ∧
      (isUp s = false → exec .ident s = .next { s with reply := .nack } ∧ exec .status s = .next { s with reply := .nack } ∧
        exec (.sensor n) s = .next { s with reply := .nack } ∧ exec (.getIdent ⟨p, none⟩) s = .next { s with reply := .nack }) ∧
      ∀ x : UsbSetup, (x.request.toNat = 0 ∨ (0x03 < x.request.toNat ∧ x.request.toNat < 0x10) ∨ 0x12 < x.request.toNat) →
        exec (.getIdent ⟨p, some x⟩) s = .next { s with reply := .nack })

/-! ## The USB 2.0 service function and the tray manager -/

/-- R409, R410: a write of TRAY_CAP holds the cap within 400 W and the sustained power of the grade, 0 standing for none; ALERT_MASK
and ALERT_CLEAR write and clear their bits; the module answers the Alert Response Address with 0x58 + SLOT while an unmasked
latch is set, and not otherwise. -/
def Obligations.TrayManagerWritesTakeEffect : Prop :=
  ∀ (s : State) (v : BitVec 16), isUp s = true →
    exec (.trayCap (some v)) s = .next { s with
      np := { s.np with
        trayCap := if v = 0 then 0 else BitVec.ofNat 16 (max 400 (min (gradeWatts s.fuses.grade) v.toNat)) }
      reply := .ok } ∧
    exec (.trayCap none) s = .next { s with reply := .bytes (leBytes 2 s.np.trayNow.toNat) } ∧
    exec (.alertMask (some v)) s = .next { s with smb := { s.smb with mask := v }, reply := .ok } ∧
    exec (.alertMask none) s = .next { s with reply := .bytes (leBytes 2 s.smb.mask.toNat) } ∧
    exec (.alertClear v) s = .next { s with
      smb := { s.smb with latches := s.smb.latches &&& ~~~ (v.truncate 8) }, reply := .ok } ∧
    (s.smb.latches &&& ~~~ (s.smb.mask.truncate 8) ≠ 0 →
      exec .alertResponse s = .next { s with reply := .reg (BitVec.ofNat 32 (0x58 + s.elec.moduleId.toNat % 8)) }) ∧
    (s.smb.latches &&& ~~~ (s.smb.mask.truncate 8) = 0 → exec .alertResponse s = .next { s with reply := .nack })

/-- R370: in recovery mode alone, RECOVERY_OPEN announces an image, its bytes are taken in order up to its length and the room of
Front Desk SRAM, the count and state are answered, and RECOVERY_BOOT writes an image that passes the checks of R371 and boots
on, or shows FAILED. In every other state the requests stall and nothing changes. -/
def Obligations.RecoveryTakesAnImage : Prop :=
  ∀ (s : State) (p : Fin 4) (len : BitVec 64) (data : Bytes) (f : BootFindings), portPresent s.fuses.grade p = true →
    (s.elec.life = .recovery →
      exec (.recoveryOpen p len) s =
        .next { s with recov := ⟨if 0 < len.toNat then 1 else 2, len.toNat, []⟩, reply := .ok } ∧
      (s.recov.state = 1 → s.recov.data.length + data.length ≤ s.recov.expect → s.recov.expect ≤ 16777216 →
        exec (.recoveryImageData p data) s = .next { s with recov :=
          ⟨if s.recov.data.length + data.length < s.recov.expect then 1 else 2, s.recov.expect, s.recov.data ++ data⟩ }) ∧
      exec (.recoveryStatus p) s = .next { s with
        reply := .bytes (leBytes 4 s.recov.data.length ++ leBytes 4 s.recov.state.toNat) } ∧
      ∃ t, exec (.recoveryBoot p f) s = .next t ∧ t.reply = .ok ∧ t.fuses = s.fuses ∧
        t.desk.mem.cells = s.desk.mem.cells ∧
        if (recoveryVerdict s).2 = 1 then t.sec.recovered = true ∧ t.recov = ⟨0, 0, []⟩
        else t = { s with recov := { s.recov with state := 3 }, reply := .ok }) ∧
    (s.elec.life ≠ .recovery →
      exec (.recoveryOpen p len) s = .next { s with reply := .nack } ∧
      exec (.recoveryImageData p data) s = .next s ∧ exec (.recoveryStatus p) s = .next { s with reply := .nack } ∧
      exec (.recoveryBoot p f) s = .next { s with reply := .nack })

/-! ## Night Porter -/

/-- R325, R334: a round of samples comes once each millisecond; each sampled channel is filtered by its shift from its first sample
on, others keep what they have. Then the clock comes down to the plan, or by 25 MHz above 1,000 and by gating after that while
the power is above the cap or a die at 95 °C, and goes up by the reverse steps below 97 % of the cap and 92 °C. -/
def Obligations.SamplesDriveTheClock : Prop :=
  ∀ (s : State) (raw : List Word), Running s →
    (1000000 * (s.np.rounds + 1) ≤ s.desk.now → ∃ t, exec (.sampleRound raw) s = .next t ∧
      t.np.rounds = s.np.rounds + 1 ∧
      (∀ n : Fin 128, channelSampled s.fuses.grade n.val = true → n.val ≠ 102 → n.val ≠ 103 →
        t.np.raw.at n = (raw.getD n.val 0).toInt ∧
        t.np.y.at n = some (match s.np.y.at n with
          | none => (raw.getD n.val 0).toInt
          | some y => y + ((raw.getD n.val 0).toInt - y) / 2 ^ (s.np.filt.at n).toNat)) ∧
      (∀ n : Fin 128, channelSampled s.fuses.grade n.val = false →
        t.np.raw.at n = s.np.raw.at n ∧ t.np.y.at n = s.np.y.at n ∧ t.np.val.at n = s.np.val.at n) ∧
      t.np.cap = leastCap s.fuses.grade s.np ∧
      (fixedLive s.desk = false → timedLive s.desk = false → stepAsked s.np = false → s.np.pendSteps = none →
        (plannedClock s.np < s.np.f → t.np.f = plannedClock s.np ∧ t.np.gate = s.np.gate) ∧
        (s.np.f ≤ plannedClock s.np →
          (1000 * (t.np.cap : Int) < t.np.val.at 101 ∨ 95000 ≤ hottest s.fuses.grade t.np 52 →
            (1000 < s.np.f → t.np.f = s.np.f - 25 ∧ t.np.gate = s.np.gate) ∧
            (s.np.f ≤ 1000 → t.np.f = s.np.f ∧ t.np.gate = if s.np.gate < 8 then s.np.gate + 1 else s.np.gate)) ∧
          (t.np.val.at 101 ≤ 1000 * (t.np.cap : Int) → hottest s.fuses.grade t.np 52 < 95000 →
            t.np.val.at 101 < ((1000 * t.np.cap * 97 / 100 : Nat) : Int) → hottest s.fuses.grade t.np 52 < 92000 →
            (0 < s.np.gate → t.np.gate = s.np.gate - 1 ∧ t.np.f = s.np.f) ∧
            (s.np.gate = 0 → s.np.f < plannedClock s.np → t.np.f = s.np.f + 25 ∧ t.np.gate = 0) ∧
            (s.np.gate = 0 → s.np.f = plannedClock s.np → t.np.f = s.np.f ∧ t.np.gate = 0)))) ∧
      t.desk.mem = s.desk.mem ∧ t.desk.sqs = s.desk.sqs ∧ t.desk.slots = s.desk.slots ∧ t.locks = s.locks ∧
      t.trng = s.trng ∧ t.sec = s.sec) ∧
    (s.desk.now < 1000000 * (s.np.rounds + 1) → exec (.sampleRound raw) s = .next s)

/-- R186, R335, R337: the limiter engages once and counts it, and stops the commands in their timed regions TIMING_BROKEN; it
releases after 1 ms. A CLOCK_STOP is answered OK, with the step it asked for, once no timed region runs; until then it stops
them; 2 ms without an answer make the step anyway. (The clock has been set for the fixed-timing commands under way, R179.) -/
def Obligations.LimiterAndClockStops : Prop :=
  ∀ s : State, Running s →
    (s.np.limiter = false → exec .limiterEngage s = .next (settle { s with
      np := { s.np with
        limiter := true, limiterAt := s.desk.now, limiterCount := min 0xFFFFFFFF (s.np.limiterCount + 1) }
      desk := breakTiming s.desk })) ∧
    (s.np.limiter = true → exec .limiterEngage s = .next s) ∧
    (s.np.limiter = true → s.np.limiterAt + 1000000 ≤ s.desk.now →
      exec .limiterRelease s = .next (settle { s with np := { s.np with limiter := false } })) ∧
    (s.np.limiter = true → s.desk.now < s.np.limiterAt + 1000000 → exec .limiterRelease s = .next s) ∧
    (∀ f gate t cap heat, s.np.asked = some (.clockStop f gate t cap heat) → s.np.fixedHold = fixedLive s.desk →
      (Awake s → s.mbx.npToFd.full = true → mailType s.mbx.npToFd = 3 →
        (timedLive s.desk = false → ∃ u, exec .clockStop s = .next u ∧ u.np.f = f ∧ u.np.gate = gate ∧
          u.np.asked = none ∧ u.mbx.npToFd.full = false ∧ u.mbx.npToFd.ackValid = true ∧ u.desk.sqs = s.desk.sqs) ∧
        (timedLive s.desk = true → exec .clockStop s = .next (settle { s with desk := breakTiming s.desk }))) ∧
      (t + 2000000 ≤ s.desk.now → ∃ u, exec .clockStopTimeout s = .next u ∧ u.np.f = f ∧ u.np.gate = gate ∧
        u.np.asked = none ∧ u.desk.sqs = (breakTiming s.desk).sqs) ∧
      (s.desk.now < t + 2000000 → exec .clockStopTimeout s = .next s)) ∧
    ∀ (n : Fin 64) (c : Cmd), (s.desk.sqs.at n).cur = some c →
      ((breakTiming s.desk).sqs.at n).cur =
        some (if inTimed c = true then askStop s.desk.now .timing c else c)

/-- R338, R339: a trip stops TCLK and holds the dies, counts, and has Front Desk told; the third within 3,600 s latches. Front Desk
holds the tile commands at the message, frees them when the dies are restored after 1 s below 85 °C, and at a latch ends what is
held. While the dies are held a further trip changes nothing. -/
def Obligations.TripsHoldTheDies : Prop :=
  ∀ s : State, Running s →
    (s.np.tripHold = false → ∃ t, exec .thermalTrip s = .next t ∧ t.np.tripHold = true ∧
      t.np.trips = min 255 (s.np.trips + 1) ∧ t.desk.tclkOff = true ∧ t.np.asked = none ∧
      t.np.tripLatched = decide (2 ≤ (s.np.tripTimes.filter fun x => s.desk.now ≤ x + 3600000000000).length) ∧
      (∃ more, t.mbx.npFdQueue = s.mbx.npFdQueue ++ ⟨5, 0, [0]⟩ :: more) ∧
      t.desk.sqs = s.desk.sqs ∧ t.desk.slots = s.desk.slots ∧ t.desk.mem = s.desk.mem) ∧
    (s.np.tripHold = true → exec .thermalTrip s = .next s) ∧
    (∀ since, s.np.tripHold = true → s.np.tripLatched = false → s.np.coolSince = some since →
      since + 1000000000 ≤ s.desk.now → ∃ t, exec .tripRestore s = .next t ∧ t.np.tripHold = false ∧ t.desk.tclkOff = false ∧
        t.mbx.npFdQueue = s.mbx.npFdQueue ++ [⟨5, 0, [1]⟩] ∧ t.desk.sqs = s.desk.sqs) ∧
    (s.np.tripHold = false ∨ s.np.tripLatched = true ∨ s.np.coolSince = none → exec .tripRestore s = .next s) ∧
    (Awake s → s.mbx.npToFd.full = true → mailType s.mbx.npToFd = 5 →
      ((s.mbx.npToFd.msg.at 1).toNat = 0 → ∃ t, exec .trip s = .next t ∧ t.desk.tripHold = true ∧
        t.mbx.npToFd.full = false ∧
        ∀ n c, (s.desk.sqs.at n).cur = some c → (∃ o, pktOp c.pkt = some o ∧ opTile o = true) →
          c.stage = .dispatched ∨ c.stage = .working →
          ∃ c', (t.desk.sqs.at n).cur = some c' ∧ c'.stage = .held ∧ c'.pkt = c.pkt ∧ c'.stop = c.stop) ∧
      ((s.mbx.npToFd.msg.at 1).toNat = 1 → ∃ t, exec .trip s = .next t ∧ t.desk.tripHold = false ∧
        ∀ n c, (t.desk.sqs.at n).cur = some c → c.stage ≠ .held) ∧
      ((s.mbx.npToFd.msg.at 1).toNat = 2 → ∃ t, exec .trip s = .next t ∧ t.desk.tripLatched = true ∧
        (∀ l, tileServed s.fuses.grade t.desk l = false) ∧
        ∀ n c, (s.desk.sqs.at n).cur = some c → c.stage = .held →
          ∃ c' k, (t.desk.sqs.at n).cur = some c' ∧ c'.pkt = c.pkt ∧ c'.stop = some k ∧ terminal (some k) = true))

/-- R327 to R332: Night Porter asks for the descent that is due and Front Desk allows it while its conditions hold; the module
then is one state lower. A refusal leaves the state and restarts the timer. A wake ends in IDLE, with its cause and
the state left reported, but for one from NIGHT that a thermal trip holds (log entry 43); each memory path sleeps after 1 ms without
an access. -/
def Obligations.DescentsAndWakes : Prop :=
  ∀ s : State, Running s →
    (∀ k, s.np.asked = none → s.np.waking = false → descentDue s = some k →
      ∃ t, exec .descentTimerExpiry s = .next t ∧ t.np.asked = some (.descend k) ∧
        t.mbx.npFdQueue = s.mbx.npFdQueue ++ [⟨2, 0, [BitVec.ofNat 32 k]⟩] ∧ t.desk.sqs = s.desk.sqs) ∧
    (s.np.asked ≠ none ∨ s.np.waking = true ∨ descentDue s = none → exec .descentTimerExpiry s = .next s) ∧
    (∀ k, 2 ≤ k → k ≤ 4 → s.mbx.npToFd.full = true → mailType s.mbx.npToFd = 2 → (s.mbx.npToFd.msg.at 1).toNat = k →
      s.np.asked = some (.descend k) →
      (descentHolds (takePorter s 0) k = true → ∃ t, exec .descend s = .next t ∧
        t.np.state = (match k with | 2 => .nap | 3 => .doze | _ => .night) ∧ t.np.asked = none ∧
        t.mbx.npToFd.full = false ∧ t.mbx.npToFd.ack.toNat % 65536 = 0 ∧ t.desk.mem = s.desk.mem ∧ t.desk.sqs = s.desk.sqs) ∧
      (descentHolds (takePorter s 0) k = false → ∃ t, exec .descend s = .next t ∧ t.np.asked = none ∧
        t.np.timer = s.desk.now ∧ t.mbx.npToFd.full = false ∧ t.mbx.npToFd.ack.toNat % 65536 = 3 ∧
        (s.np.state ≠ .active → s.np.state ≠ .idle → t.np.state = s.np.state))) ∧
    (s.np.waking = true → s.np.tripHold = false ∨ s.np.tripLatched = true ∨ s.np.left ≠ 4 →
      ∃ t, exec .wakeComplete s = .next t ∧ Awake t ∧ t.np.waking = false ∧ t.np.memPaths = [] ∧
        t.mbx.npFdQueue = s.mbx.npFdQueue ++ [⟨7, 0, [BitVec.ofNat 32 s.np.wakeCause.toNat, BitVec.ofNat 32 s.np.left]⟩]) ∧
    (s.np.waking = false ∨ (s.np.tripHold = true ∧ s.np.tripLatched = false ∧ s.np.left = 4) → exec .wakeComplete s = .next s) ∧
    exec .memPathSleep s = .next { s with np := { s.np with
      memPaths := s.np.memPaths.filter fun x => decide (s.desk.now < x.2 + 1000000) } }

/-- R340 to R342: a due re-plan, once the dies are at full voltage, never relaxes the plan: VOFF does not fall and stays within
30 mV, no lower clock is applied before a tick, PLAN is sent. A restart of Night Porter's core holds f and gate and the last values, and every filter
starts again. -/
def Obligations.ReplanNeverRelaxes : Prop :=
  ∀ s : State, Running s →
    (s.np.planDue = true → diesUp s.np = true → s.np.voff ≤ 30 → s.np.voff % 5 = 0 →
      ∃ t, exec .ageingReplan s = .next t ∧ s.np.voff ≤ t.np.voff ∧ t.np.voff ≤ 30 ∧ t.np.planDue = false ∧
        t.np.plans = min 255 (s.np.plans + 1) ∧ t.np.steps = s.np.steps ∧
        (s.np.fixedHold = fixedLive s.desk → t.np.f = s.np.f) ∧
        (s.np.pendSteps = none → s.np.steps ≤ 20 → ∀ k, t.np.pendSteps = some k → s.np.steps < k ∧ k ≤ 20) ∧
        (∃ m, t.mbx.npFdQueue = s.mbx.npFdQueue ++ [m] ∧ m.type = 4) ∧ t.desk.sqs = s.desk.sqs ∧ t.desk.mem = s.desk.mem) ∧
    (s.np.planDue = false ∨ diesUp s.np = false → exec .ageingReplan s = .next s) ∧
    ∃ t, exec .npWatchdog s = .next t ∧ t.np.npRestart = true ∧ (∀ n, t.np.y.at n = none) ∧ t.np.val = s.np.val ∧
      (s.np.fixedHold = fixedLive s.desk → t.np.f = s.np.f) ∧ t.np.gate = s.np.gate ∧ t.np.asked = none ∧
      t.desk.sqs = s.desk.sqs ∧ t.desk.mem = s.desk.mem ∧ t.mbx = s.mbx

/-- R343 and Table 14.8: Night Porter answers a SENSOR_REQ with the channel's value; Front Desk passes it on to the host that asked,
with that host's TAG, records a PLAN, learns a WOKE, and sends the NOTICE of a NOTICE_REQ to every bound partner whose queue has room
for it beside the replies that are due (log entry 27). Each message is taken with OK. -/
def Obligations.PorterMessagesAreServed : Prop :=
  ∀ s : State,
    (Running s → s.mbx.fdToNp.full = true → mailType s.mbx.fdToNp = 1 → ∃ t, exec .sensorReq s = .next t ∧
      t.mbx.fdToNp.full = false ∧ t.mbx.fdToNp.ackValid = true ∧ t.mbx.fdToNp.ack.toNat % 65536 = 0 ∧
      t.mbx.npFdQueue = s.mbx.npFdQueue ++ [⟨0x81, bits (s.mbx.fdToNp.msg.at 0).toNat 16 16,
        sensorWords s (fin 128 (s.mbx.fdToNp.msg.at 1).toNat)⟩] ∧ OnlyMail s t) ∧
    (Awake s → s.mbx.npToFd.full = true →
      (∀ p tag, mailType s.mbx.npToFd = 0x81 →
        s.mbx.asks.find? (fun a => a.1 == bits (s.mbx.npToFd.msg.at 0).toNat 16 16) =
          some (bits (s.mbx.npToFd.msg.at 0).toNat 16 16, p, tag) →
        (s.mbx.f2hQueue.at p).length < 8 →
        ∃ t, exec .sensorVal s = .next t ∧ t.mbx.npToFd.full = false ∧
          t.mbx.f2hQueue.at p = s.mbx.f2hQueue.at p ++ [⟨0x81, tag, [s.mbx.npToFd.msg.at 1, s.mbx.npToFd.msg.at 2,
            s.mbx.npToFd.msg.at 3, s.mbx.npToFd.msg.at 4, s.mbx.npToFd.msg.at 5]⟩] ∧
          (∀ q, q ≠ p → t.mbx.f2hQueue.at q = s.mbx.f2hQueue.at q) ∧ OnlyMail s t) ∧
      (mailType s.mbx.npToFd = 4 → ∃ t, exec .plan s = .next t ∧ t.mbx.npToFd.full = false ∧
        t.mbx.npToFd.ack.toNat % 65536 = 0 ∧ t.mbx.f2hQueue = s.mbx.f2hQueue ∧ OnlyMail s t) ∧
      (mailType s.mbx.npToFd = 7 → ∃ t, exec .woke s = .next t ∧ t.mbx.npToFd.full = false ∧
        t.mbx.npToFd.ack.toNat % 65536 = 0 ∧ t.mbx.f2hQueue = s.mbx.f2hQueue ∧ OnlyMail s t) ∧
      (mailType s.mbx.npToFd = 6 → ∃ t, exec .noticeReq s = .next t ∧ t.mbx.npToFd.full = false ∧
        (∀ p, (s.desk.ports.at p).guest.state = .bound → repliesDue s.mbx p < 8 →
          t.mbx.f2hQueue.at p = s.mbx.f2hQueue.at p ++ [⟨0x82, 0, [s.mbx.npToFd.msg.at 1, s.mbx.npToFd.msg.at 2]⟩]) ∧
        (∀ p, (s.desk.ports.at p).guest.state ≠ .bound ∨ 8 ≤ repliesDue s.mbx p → t.mbx.f2hQueue.at p = s.mbx.f2hQueue.at p) ∧
        OnlyMail s t))

/-! ## Power, reset and boot -/

/-- R404 to R407: power brings an unpowered module into reset with PG high; its loss leaves only what flash and fuses keep, and no
byte of memory; a rail fault takes PG low and the module into reset; removal opens PRSNT_N; RESET_N low begins a warm reset of
cause 1, which keeps memory outside the private areas (Table 15.4). -/
def Obligations.PowerAndResetPin : Prop :=
  ∀ s : State,
    (s.elec.life = .off → exec .powerOn s = .next { s with
      elec := { s.elec with life := .held, vin := true, pg := true, resetN := false, prsntN := false, cause := 0 }
      desk := { s.desk with bootId := s.desk.bootId + 1 } }) ∧
    (s.elec.life ≠ .off → exec .powerOn s = .next s) ∧
    (s.elec.life ≠ .off → ∃ t, exec .powerLoss s = .next t ∧ ResetLeft s t ∧ t.elec.life = .off ∧ t.elec.vin = false ∧
      t.elec.pg = false ∧ (∀ a, cellRead t.desk.mem.cells a = 0) ∧ t.desk.mem.hard = s.desk.mem.hard ∧
      t.desk.bootId = s.desk.bootId) ∧
    (s.elec.life ≠ .off → ∃ t, exec .railFault s = .next t ∧ ResetLeft s t ∧ t.elec.life = .held ∧ t.elec.pg = false ∧
      t.elec.cause = 0 ∧ (∀ a, cellRead t.desk.mem.cells a = 0) ∧ t.desk.bootId = s.desk.bootId + 1) ∧
    (s.elec.life = .off → exec .powerLoss s = .next s ∧ exec .railFault s = .next s) ∧
    exec .moduleRemoval s = .next { s with elec := { s.elec with prsntN := true } } ∧
    (isUp s = true → s.elec.pg = true → ∃ t, exec .resetAssert s = .next t ∧ ResetLeft s t ∧ t.elec.life = .held ∧
      t.elec.resetN = false ∧ t.elec.cause = 1 ∧ t.desk.bootId = s.desk.bootId + 1 ∧
      (∀ a, isPrivate a = false → cellRead t.desk.mem.cells a = cellRead s.desk.mem.cells a) ∧
      ∀ a, isPrivate a = true → cellRead t.desk.mem.cells a = 0) ∧
    (s.elec.life = .off → exec .resetAssert s = .next { s with elec := { s.elec with resetN := false } })

/-- Table 15.3, R339, R345, R346, R373: a fatal fault of the hub die, Front Desk's watchdog, a die-to-die link that is down, a hub
trip and an activation reset the module, each with its cause; the faults leave their class in flash for the next boot; memory
outside the private areas stays. -/
def Obligations.ModuleResetsItself : Prop :=
  ∀ s : State,
    (isUp s = true →
      (∀ h, ∃ t, exec (.hubFatal h) s = .next t ∧ WarmReset s t 3 ∧ t.sec.flashFault = some (11, 4)) ∧
      (∀ a b, linkThere s.fuses.grade a b = true → ∃ t, exec (.dieLinkDown a b) s = .next t ∧ WarmReset s t 4 ∧ t.sec.flashFault = some (10, linkDie a b)) ∧
      ∃ t, exec .hubTrip s = .next t ∧ WarmReset s t 2 ∧ t.sec.flashFault = s.sec.flashFault) ∧
    (Awake s → ∃ t, exec .fdWatchdog s = .next t ∧ WarmReset s t 5 ∧ t.sec.flashFault = some (11, 4)) ∧
    (∀ p, Attached s p → ∃ t, exec (.activate p) s = .next t ∧ WarmReset s t 6) ∧
    (Running s → s.sec.armed = true → queuesEmpty s.desk = true → ∃ t, exec .idleActivation s = .next t ∧ WarmReset s t 6) ∧
    (Running s → s.sec.armed = false ∨ queuesEmpty s.desk = false → exec .idleActivation s = .next s) ∧
    ∀ p, Attached s p →
      exec (.activateIdle p) s = .next { s with sec := { s.sec with armed := true } } ∧
      exec (.cancel p) s = .next { s with sec := { s.sec with armed := false } }

/-- R368, R370, R381, R403: a module in reset whose RESET_N rises boots: RETIRED goes to its service code, a first stage that does not
verify or a missing image goes to recovery, else firmware runs, in IDLE. At causes 0 and 1 the straps give the module ID. What reset
left of memory, the fuses and the keys stays. Outside reset nothing happens. -/
def Obligations.ReleaseBoots : Prop :=
  ∀ (s : State) (f : BootFindings),
    (s.elec.life = .held → ∃ t, exec (.resetRelease f) s = .next t ∧ t.elec.resetN = true ∧ t.elec.pg = true ∧
      t.elec.moduleId = (if s.elec.cause = 0 ∨ s.elec.cause = 1 then BitVec.ofNat 6 (8 * f.tray.toNat + f.slot.toNat)
        else s.elec.moduleId) ∧
      (if s.sec.lifecycle = .retired then t.elec.life = .retired
        else if firstStageOk s = true then t.elec.life = .running ∨ t.elec.life = .recovery
        else t.elec.life = .recovery) ∧
      t.np.state = s.np.state ∧ t.fuses = s.fuses ∧ t.desk.mem.cells = s.desk.mem.cells ∧ t.sec.idKey = s.sec.idKey ∧
      t.sec.lifecycle = s.sec.lifecycle ∧ t.desk.bootId = s.desk.bootId ∧ t.sec.flashFault = none ∧ t.locks = s.locks ∧
      t.desk.sqs = s.desk.sqs) ∧
    (s.elec.life ≠ .held → exec (.resetRelease f) s = .next s)

/-- R321, R322, R374, R376: a wipe clears the secure SRAM, shows its triggers and counts once, and CASE marks the module TAMPERED; fuses, keys and
memory stay. A pending slot that has run healthily for 1 s becomes active and raises its rollback counter. An alias key that is wanted
takes 24 words of the pool and one leaf of the identity key. -/
def Obligations.SecureRegionKeepsItsRules : Prop :=
  ∀ s : State,
    (s.elec.life ≠ .off → ∀ w more, ∃ t, exec (.secureWipe ⟨w, more⟩) s = .next t ∧ t.sec.sram = [] ∧ t.sec.engineWarm = false ∧
      t.sec.wipeCount = min 0xFFFF (s.sec.wipeCount + 1) ∧
      t.sec.wipeCase = (s.sec.wipeCase || decide (.case ∈ w :: more)) ∧ t.sec.wipeV = (s.sec.wipeV || decide (.vglitch ∈ w :: more)) ∧
      t.sec.wipeC = (s.sec.wipeC || decide (.cglitch ∈ w :: more)) ∧ t.sec.tampered = (s.sec.tampered || decide (.case ∈ w :: more)) ∧
      t.sec.idKey = s.sec.idKey ∧ t.sec.lifecycle = s.sec.lifecycle ∧ t.desk.mem = s.desk.mem ∧ t.trng = s.trng) ∧
    (∀ k since, Running s → s.sec.idleSince = some since → since + 1000000000 ≤ s.desk.now →
      s.sec.fd.pending = some k → s.sec.fd.running = some k → ∃ t, exec .slotConfirm s = .next t ∧
        t = { s with sec := t.sec } ∧ t.sec.fd.active = k ∧ t.sec.fd.pending = none ∧ t.sec.fd.slots = s.sec.fd.slots ∧
        s.sec.fd.rollback.toNat ≤ t.sec.fd.rollback.toNat ∧ t.sec.recovered = false) ∧
    (∀ since, s.sec.idleSince = some since → s.desk.now < since + 1000000000 → exec .slotConfirm s = .next s) ∧
    (∀ seed, Running s → s.sec.idKey = some seed → s.sec.idLeaf < 1024 → s.sec.genWanted = true → s.sec.drawn = [] →
      s.trng.state = .ready → s.trng.waiting = [] →
      (24 ≤ s.trng.pool.length → ∃ t, exec .aliasKeyGeneration s = .next t ∧ t = { s with trng := t.trng, sec := t.sec } ∧
        t.trng = { s.trng with pool := s.trng.pool.drop 24 } ∧ t.sec.idLeaf = s.sec.idLeaf + 1 ∧ t.sec.attLeaf = 0 ∧
        t.sec.genWanted = false ∧ ∃ k, t.sec.attKey = some k ∧ k.number = s.sec.idLeaf ∧ k.fd = s.sec.fd.meas ∧ k.np = s.sec.np.meas ∧
          k.seed = (s.trng.pool.take 24).flatMap fun w => leBytes 4 w.toNat) ∧
      (s.trng.pool.length < 24 →
        exec .aliasKeyGeneration s = .next { s with trng := { s.trng with waiting := [.keys] } }))

/-! ## Memory -/

/-- R304, R305, R307, R309, R316, R323: a refresh changes no byte; the patrol scrub visits the sectors of a unit in turn, counts what it
corrects and records what it cannot, whose row falls due at its first read; a correction on the read path of a user counts too and
leaves the scrub where it is; a row that is due is repaired while its bank has a spare; the SRAM scrubbers count. None of
them changes a byte of memory. -/
def Obligations.HousekeepingKeepsTheBytes : Prop :=
  ∀ s : State,
    (∀ u, Running s → unitIn s.fuses.grade s.desk u = true → dramAwake s.np = true →
      exec (.dramRefresh u) s = .next { s with desk := { s.desk with
        mem := { s.desk.mem with refreshes := s.desk.mem.refreshes + 1 } } }) ∧
    (Running s → s.np.state = .doze ∨ s.np.state = .night →
      exec .scrubWake s = .next { s with desk := { s.desk with mem := { s.desk.mem with scrubBurst := true } } }) ∧
    (∀ u x, unitServes s u = true →
      ∃ t, t.desk.mem.cells = s.desk.mem.cells ∧ exec (.patrolScrub u x .clean) s = .next t ∧
        scrubAt t.desk.mem u = (scrubAt s.desk.mem u + 32) % unitSize u ∧
        (s.desk.mem.ue.contains (unitAddr u (scrubAt s.desk.mem u) / 32) = false →
          t.desk.mem.ue = s.desk.mem.ue ∧ t.desk.mem.hbm = s.desk.mem.hbm ∧ t.desk.mem.lp = s.desk.mem.lp)) ∧
    (∀ h x a, unitServes s (.hbm h) = true → scrubAt s.desk.mem (.hbm h) < unitSize (.hbm h) →
      a = unitAddr (.hbm h) (scrubAt s.desk.mem (.hbm h)) / 32 → s.desk.mem.ue.contains a = false →
      (∃ t, exec (.patrolScrub (.hbm h) x .corrected) s = .next t ∧ t.desk.mem.cells = s.desk.mem.cells ∧
        (t.desk.mem.hbm.at h).ce = min 0xFFFFFFFF ((s.desk.mem.hbm.at h).ce + 1) ∧
        ∀ g, g ≠ h → t.desk.mem.hbm.at g = s.desk.mem.hbm.at g) ∧
      ∃ t, exec (.patrolScrub (.hbm h) x .uncorrectable) s = .next t ∧ t.desk.mem.cells = s.desk.mem.cells ∧
        t.desk.mem.ue = s.desk.mem.ue ++ [a] ∧
        (s.desk.mem.ueFound.contains a = false → (h, Config.dramRow a) ∈ t.desk.mem.dueRows) ∧
        (s.desk.mem.ueFound.contains a = true → t.desk.mem.dueRows = s.desk.mem.dueRows) ∧
        t.desk.errs.logCount = min 0xFFFF (s.desk.errs.logCount + 1)) ∧
    (∀ h x, unitServes s (.hbm h) = true →
      s.desk.mem.ue.contains (unitAddr (.hbm h) (32 * x % unitSize (.hbm h)) / 32) = false →
      ∃ t, exec (.patrolScrub (.hbm h) x .readCorrected) s = .next t ∧ t.desk.mem.cells = s.desk.mem.cells ∧
        t.desk.mem.hbmScrub = s.desk.mem.hbmScrub ∧
        (t.desk.mem.hbm.at h).ce = min 0xFFFFFFFF ((s.desk.mem.hbm.at h).ce + 1)) ∧
    (∀ h row, unitServes s (.hbm h) = true → (h, row) ∈ s.desk.mem.dueRows →
      (∃ t, exec (.rowRepair h row 0) s = .next t ∧ t.desk.mem.dueRows = s.desk.mem.dueRows ∧
        (t.desk.mem.hbm.at h).noSpare = true ∧ (t.desk.mem.hbm.at h).sparesLeft = 0 ∧ t.desk.mem.cells = s.desk.mem.cells) ∧
      ∀ n, 0 < n → ∃ t, exec (.rowRepair h row n) s = .next t ∧
        t.desk.mem.dueRows = s.desk.mem.dueRows.erase (h, row) ∧ t.desk.mem.soft = s.desk.mem.soft ++ [(h, row)] ∧
        t.desk.mem.cells = s.desk.mem.cells ∧ t.desk.mem.ue = s.desk.mem.ue) ∧
    (∀ h row n, (h, row) ∉ s.desk.mem.dueRows → exec (.rowRepair h row n) s = .next s) ∧
    (∀ (u : SramUnit) (w : Nat), sramUp s u = true → w < sramWords u → (∀ d, u ≠ .staging d) →
      exec (.sramScrub u w .clean) s = .next s) ∧
    ∀ (d : Fin 4) (w : Nat), sramUp s (.staging d) = true → w < 4194304 →
      ∃ t, exec (.sramScrub (.staging d) w .corrected) s = .next t ∧ t.desk.mem.cells = s.desk.mem.cells ∧
        (t.desk.mem.sram.at d).ce = min 0xFFFFFFFF ((s.desk.mem.sram.at d).ce + 1) ∧
        (t.desk.mem.sram.at d).scrub =
          (if w + 1 = 4194304 then min 0xFFFFFFFF ((s.desk.mem.sram.at d).scrub + 1) else (s.desk.mem.sram.at d).scrub)

/-- R349, R351, R352, R186: a byte that a command reads and that is lost ends it DATA_LOST, or TIMING_BROKEN inside a timed region, with the
sector unreadable and one log entry; a suspension record that is lost is remembered so. A logic fault retires the physical tile:
the next spare takes its logical tile over and REMAPS advances, or the logical tile is no longer served; a command inside its timed region
stops TIMING_BROKEN first, with the tile as it was. A retry on a die-to-die link breaks the timing of a fixed-timing command that uses
both its dies (log entry 70), and of nothing else. -/
def Obligations.LossesAreContained : Prop :=
  ∀ s : State, Awake s →
    (∀ n c a k, (s.desk.sqs.at n).cur = some c → c.stage = .dispatched ∨ c.stage = .working → c.stop = none → unitOf a ≠ none →
      ∃ t, exec (.uncorrectableRead (.otherRead n a) k) s = .next t ∧
        (t.desk.sqs.at n).cur =
          some { askStop s.desk.now (if inTimed c = true then .timing else .dataLost) c with fault := true } ∧
        a / 32 ∈ t.desk.mem.ue ∧ t.desk.mem.cells = s.desk.mem.cells ∧
        t.desk.errs.logCount = min 0xFFFF (s.desk.errs.logCount + 1) ∧
        ∀ m, m ≠ n → t.desk.sqs.at m = s.desk.sqs.at m) ∧
    (∀ i k, (s.desk.slots.at i).susp ≠ none → ∃ t, exec (.uncorrectableRead (.suspension i) k) s = .next t ∧
      t.desk.slots.at i = { s.desk.slots.at i with susp := none, suspLost := true } ∧
      ∀ j, j ≠ i → t.desk.slots.at j = s.desk.slots.at j) ∧
    (∀ (l : Fin 256) row n c, tileServed s.fuses.grade s.desk l.val = true → tileHolder s.desk l.val = some (n, c) →
      inTimed c = true → c.stop = none → ∃ t, exec (.tileLogicFault l row 0) s = .next t ∧
        (t.desk.sqs.at n).cur = some { c with stop := some .timing, stopAt := s.desk.now, fault := true } ∧
        t.desk.tiles.serves = s.desk.tiles.serves ∧ t.desk.mem = s.desk.mem) ∧
    (∀ (l : Fin 256) row x, tileServed s.fuses.grade s.desk l.val = true → s.desk.tiles.serves.at l = some x →
      (∀ h, tileHolder s.desk l.val = some h → inTimed h.2 = false) →
      (∀ y rest, s.desk.tiles.spares.at (fin 4 (l.val / 64)) = y :: rest →
        ∃ t, exec (.tileLogicFault l row 0) s = .next t ∧ t.desk.tiles.serves = s.desk.tiles.serves.put l (some y) ∧
          t.desk.tiles.spares.at (fin 4 (l.val / 64)) = rest ∧
          t.desk.tiles.retired = s.desk.tiles.retired ++ [(fin 4 (l.val / 64), x)] ∧
          t.desk.errs.remaps = min 0xFFFFFFFF (s.desk.errs.remaps + 1) ∧ t.desk.mem.cells = s.desk.mem.cells) ∧
      (s.desk.tiles.spares.at (fin 4 (l.val / 64)) = [] →
        ∃ t, exec (.tileLogicFault l row 0) s = .next t ∧ t.desk.tiles.serves = s.desk.tiles.serves.put l none ∧
          t.desk.tiles.retired = s.desk.tiles.retired ++ [(fin 4 (l.val / 64), x)] ∧
          t.desk.errs.remaps = s.desk.errs.remaps)) ∧
    ∀ a b : Fin 5,
      (linkThere s.fuses.grade a b = true → ∃ t, exec (.dieLinkRetry a b) s = .next t ∧ t.desk.mem = s.desk.mem ∧
        t.desk.slots = s.desk.slots ∧
        ∀ n, (t.desk.sqs.at n).cur = (s.desk.sqs.at n).cur.map fun c =>
          if inTimed c = true ∧ (a.val = 4 ∨ ∃ l ∈ c.tiles, l / 64 = a.val) ∧
              (b.val = 4 ∨ ∃ l ∈ c.tiles, l / 64 = b.val) then askStop s.desk.now .timing c else c) ∧
      (linkThere s.fuses.grade a b = false → exec (.dieLinkRetry a b) s = .next s ∧ exec (.dieLinkDown a b) s = .next s)

/-! ## The fabric -/

/-- R284, R286, R295, R297: over a link that is up, a good data flit in its turn is acknowledged and moves the expected FSEQ on, if its class
has receive credit left, and is not taken otherwise; one of a reserved class is acknowledged, dropped and counted; one that fails its check
is counted and nacked, one out of turn is nacked, and neither moves it; an ack clears what it covers from the replay buffer; a nack resends
from the flit it names; every good flit returns the credits it carries. A link that is not up takes no flit. -/
def Obligations.FlitsCrossInOrder : Prop :=
  ∀ (s : State) (p : Fin 16) (f : Bytes) (fec : Bool),
    (LinkUp s p →
      (flitGood f = true → fec = true → flitType f = 1 → flitSeq f = (s.fab.ports.at p).rxSeq →
        (flitClass f < 5 → 0 < (s.fab.ports.at p).given.at (fin 5 (flitClass f)) →
          ∃ t more, exec (.dataFlit p f fec) s = .next t ∧ (t.fab.ports.at p).rxSeq = (s.fab.ports.at p).rxSeq + 1 ∧
            (t.fab.ports.at p).nacked = false ∧ t.desk.out = s.desk.out ++
              .flit p (flitBytes 2 0 false false 0 (flitSeq f).toNat 31 0 []) :: more) ∧
        (flitClass f < 5 → (s.fab.ports.at p).given.at (fin 5 (flitClass f)) = 0 →
          exec (.dataFlit p f fec) s = .next (settle s)) ∧
        (5 ≤ flitClass f → ∃ t, exec (.dataFlit p f fec) s = .next t ∧
          (t.fab.ports.at p).rxSeq = (s.fab.ports.at p).rxSeq + 1 ∧ t.fab.inbox = s.fab.inbox ∧
          (s.desk.tx = [] → (t.fab.ports.at p).errs = min 0xFFFFFFFF ((s.fab.ports.at p).errs + 1) ∧
            t.desk.out = s.desk.out ++ [.flit p (flitBytes 2 0 false false 0 (flitSeq f).toNat 31 0 [])]))) ∧
      (flitGood f = false ∨ fec = false → (s.fab.ports.at p).nacked = false → s.desk.tx = [] →
        exec (.dataFlit p f fec) s = .next (settle { s with
          fab := withLink s.fab p { s.fab.ports.at p with
            errs := min 0xFFFFFFFF ((s.fab.ports.at p).errs + 1), nacked := true }
          desk := withOut s.desk [.flit p (flitBytes 3 0 false false 0 (s.fab.ports.at p).rxSeq.toNat 31 0 [])] })) ∧
      (flitGood f = true → fec = true → flitType f = 1 → flitSeq f ≠ (s.fab.ports.at p).rxSeq →
        exec (.dataFlit p f fec) s = .next (settle (if (s.fab.ports.at p).nacked then s else { s with
          fab := withLink s.fab p { s.fab.ports.at p with nacked := true }
          desk := withOut s.desk [.flit p (flitBytes 3 0 false false 0 (s.fab.ports.at p).rxSeq.toNat 31 0 [])] }))) ∧
      (flitGood f = true → fec = true → (s.fab.ports.at p).queue = [] → s.desk.tx = [] →
        (flitType f = 2 → ∃ t, exec (.ackFlit p f fec) s = .next t ∧
          (t.fab.ports.at p).replay = afterAck (flitAck f) (s.fab.ports.at p).replay ∧
          (t.fab.ports.at p).nackCount = 0 ∧ t.desk.out = s.desk.out ∧ CreditsReturned f s t p) ∧
        (flitType f = 3 → ∃ t, exec (.nackFlit p f fec) s = .next t ∧
          (t.fab.ports.at p).replay = (s.fab.ports.at p).replay ∧
          t.desk.out = s.desk.out ++ (fromNack (flitAck f) (s.fab.ports.at p).replay).map (fun x => .flit p x.2) ∧
          (t.fab.ports.at p).retries = min 0xFFFFFFFF ((s.fab.ports.at p).retries +
            (fromNack (flitAck f) (s.fab.ports.at p).replay).length) ∧ CreditsReturned f s t p) ∧
        (flitType f = 0 → ∃ t, exec (.idleFlit p f fec) s = .next t ∧
          (t.fab.ports.at p).replay = (s.fab.ports.at p).replay ∧ t.desk.out = s.desk.out ∧ CreditsReturned f s t p)) ∧
      (flitGood f = false ∨ fec = false → ∃ t, t = { s with fab := withLink s.fab p { s.fab.ports.at p with
          errs := min 0xFFFFFFFF ((s.fab.ports.at p).errs + 1) } } ∧
        exec (.ackFlit p f fec) s = .next t ∧ exec (.nackFlit p f fec) s = .next t ∧ exec (.idleFlit p f fec) s = .next t)) ∧
    (¬ LinkUp s p → exec (.dataFlit p f fec) s = .next s ∧ exec (.ackFlit p f fec) s = .next s ∧
      exec (.nackFlit p f fec) s = .next s ∧ exec (.idleFlit p f fec) s = .next s)

/-- R286, R288, R289, R294: a link that trains comes up with nothing accepted, numbers from 0, its hello waiting and its receive credits given
to the peer (log entry 18); a retrain, whichever end began it, that succeeds resends the replay buffer in order, the third that fails takes
the link DOWN; a route that is lost takes the link DOWN at once, and a link between two other modules is noted up or DOWN (log entry 53).
A link that is DOWN carries nothing. -/
def Obligations.LinksTrainAndFall : Prop :=
  ∀ (s : State) (p : Fin 16), Running s → slPresent (envOf s) s.desk p = true → s.desk.tx = [] →
    ((s.fab.ports.at p).link ≠ .up → inRetrain (s.fab.ports.at p) = false → ∃ t, exec (.linkUp p) s = .next t ∧
      (t.fab.ports.at p).link = .up ∧ (t.fab.ports.at p).accepted = false ∧ (t.fab.ports.at p).greeted = false ∧
      (t.fab.ports.at p).refused = false ∧ (t.fab.ports.at p).txSeq = 0 ∧ (t.fab.ports.at p).rxSeq = 0 ∧
      (t.fab.ports.at p).replay = [] ∧ (t.fab.ports.at p).queue = msgFlits (helloMsg s p) ∧
      (t.fab.ports.at p).given = freshCredits s.fab p ∧
      t.desk.out = s.desk.out ++ firstCredits p (freshCredits s.fab p) ∧ ∀ q, q ≠ p → t.fab.ports.at q = s.fab.ports.at q) ∧
    ((s.fab.ports.at p).link = .up ∨ inRetrain (s.fab.ports.at p) = true → exec (.linkUp p) s = .next s) ∧
    (mayRetrain (s.fab.ports.at p) = true →
      ((s.fab.ports.at p).queue = [] → ∃ t, exec (.linkRetrain p true) s = .next t ∧ (t.fab.ports.at p).link = .up ∧
        (t.fab.ports.at p).retrains = min 0xFFFFFFFF ((s.fab.ports.at p).retrains + 1) ∧
        (t.fab.ports.at p).retries = min 0xFFFFFFFF ((s.fab.ports.at p).retries + (s.fab.ports.at p).replay.length) ∧
        (t.fab.ports.at p).replay = (s.fab.ports.at p).replay ∧
        t.desk.out = s.desk.out ++ (s.fab.ports.at p).replay.map (fun x => .flit p x.2)) ∧
      ((s.fab.ports.at p).failedTrains < 2 → ∃ t, exec (.linkRetrain p false) s = .next t ∧
        (t.fab.ports.at p).link = .training ∧ (t.fab.ports.at p).failedTrains = (s.fab.ports.at p).failedTrains + 1 ∧
        (t.fab.ports.at p).replay = (s.fab.ports.at p).replay) ∧
      (2 ≤ (s.fab.ports.at p).failedTrains → ∃ t, exec (.linkRetrain p false) s = .next t ∧
        (t.fab.ports.at p).link = .down ∧ (t.fab.ports.at p).accepted = false)) ∧
    (mayRetrain (s.fab.ports.at p) = false → ∀ b, exec (.linkRetrain p b) s = .next s) ∧
    ((s.fab.ports.at p).link = .up →
      (∃ t, exec (.routeChange (.own p) false) s = .next t ∧ (t.fab.ports.at p).link = .down ∧
        (t.fab.ports.at p).accepted = false ∧ (t.fab.ports.at p).queue = [] ∧ (t.fab.ports.at p).replay = []) ∧
      ((s.fab.ports.at p).accepted = true → ∃ t, exec (.routeChange (.own p) true) s = .next t ∧
        (t.fab.ports.at p).link = .up ∧ (t.fab.ports.at p).accepted = true ∧ t.desk.sqs = s.desk.sqs ∧
        t.desk.mem = s.desk.mem)) ∧
    ((s.fab.ports.at p).link ≠ .up → ∀ b, exec (.routeChange (.own p) b) s = .next s) ∧
    ∀ x y : Fin 64, x.val < y.val → cabledPair x.val y.val = true → x.val ≠ s.elec.moduleId.toNat →
      y.val ≠ s.elec.moduleId.toNat → ∀ b, ∃ t, exec (.routeChange (.far x y) b) s = .next t ∧
        ((x, y) ∈ t.fab.far ↔ b = true) ∧ (∀ z, z ≠ (x, y) → (z ∈ t.fab.far ↔ z ∈ s.fab.far)) ∧
        t.desk.sqs = s.desk.sqs ∧ t.desk.mem = s.desk.mem

/-- R290 to R292, R294, R256: over a link that no hello was refused on, a hello that names the module and port of Table 12.3 makes its sender
the accepted peer of the link; another is refused, with CABLE_ERR or DUP_ID, and the link then stays refused until it trains again.
A message acknowledgement releases what is retained up to its number. A peer that no route has reached for PEER_TIMEOUT is
gone: out of the peers, its messages dropped, the locks of its port free. -/
def Obligations.PeersComeAndGo : Prop :=
  ∀ s : State,
    (∀ p m, Awake s → s.fab.inbox.find? (fun x => x.2.cls == 4 && x.2.rtype == 0) = some (p, m) →
      ((s.fab.ports.at p).refused = true → exec .hello s = .next (settle (popped s p m))) ∧
      ((s.fab.ports.at p).refused = false →
        (∀ id port, field m.body 0 1 = id → field m.body 1 1 = port → (id, port) ∈ cabled s.elec.moduleId.toNat p.val →
          id ≠ s.elec.moduleId.toNat → ∃ t, exec .hello s = .next t ∧ (t.fab.ports.at p).accepted = true ∧
            (t.fab.ports.at p).peerId.toNat = id % 64 ∧ ∃ x ∈ t.fab.peers, x.id.toNat = id % 64) ∧
        ((field m.body 0 1, field m.body 1 1) ∉ cabled s.elec.moduleId.toNat p.val ∨
            field m.body 0 1 = s.elec.moduleId.toNat →
          s.desk.tx = [] → ∃ t, exec .hello s = .next t ∧ (t.fab.ports.at p).accepted = false ∧
            (t.fab.ports.at p).refused = true ∧ (t.fab.ports.at p).cableErr = ((s.fab.ports.at p).cableErr ||
              decide ((field m.body 0 1, field m.body 1 1) ∉ cabled s.elec.moduleId.toNat p.val)) ∧
            (t.fab.ports.at p).dupId = ((s.fab.ports.at p).dupId || decide (field m.body 0 1 = s.elec.moduleId.toNat)) ∧
            t.fab.peers = s.fab.peers))) ∧
    (∀ (i : Fin 64) (cls : Fin 5) (k : Word), Running s → s.fab.unsent = [] → s.desk.tx = [] →
      exec (.messageAck i cls k) s = .next (settle { s with fab := { s.fab with
        kept := s.fab.kept.filter fun x =>
          ¬ (x.dst.toNat = i.val ∧ x.cls = cls.val ∧ seqBefore k.toNat x.mseq = false) } })) ∧
    (∀ (i : Fin 64) x since, Running s → x ∈ s.fab.peers → x.id.toNat = i.val → x.lostAt = some since →
      since + 1000000 * max 1 (min 10000 s.fab.timeout.toNat) ≤ s.desk.now → ∃ t, exec (.peerTimeout i) s = .next t ∧
        (∀ y ∈ t.fab.peers, y.id.toNat ≠ i.val) ∧ t.fab.gen = s.fab.gen + 1 ∧
        ∀ p n, p ∈ portsOf s (BitVec.ofNat 6 i.val) → t.locks.owner.at n ≠ some (fin 32 (16 + p.val))) ∧
    ∀ i : Fin 64, (∀ x ∈ s.fab.peers, x.id.toNat = i.val → x.lostAt = none) → exec (.peerTimeout i) s = .next s

/-- R117, R120 to R122, R354: the oldest record of its kind leaves the inbox; a record whose key has no run that has begun is held; one for a run
of its job has its effect on the job's slot: a flip notice joins its phase, a fill record fills the mirror, a boundary-spin record in place
of a mirror entry waits for its barrier, sums and permutations wait for the sweep boundary, a stop record names the winner and ends the run
once no tile is inside a phase, a replay record stops the run. -/
def Obligations.RecordsReachTheirRun : Prop :=
  ∀ (s : State) (p : Fin 16) (m : Msg), Awake s →
    (∀ c, RecordRow c m → s.fab.inbox.find? (fun x => x.2.cls == m.cls && x.2.rtype == m.rtype) = some (p, m) →
      jobSlot s.desk m.key.toNat = none → heldBytes (s.desk.held ++ [m]) ≤ 1048576 →
      exec c s = .next (settle { popped s p m with
        desk := { (popped s p m).desk with held := s.desk.held ++ [m] } })) ∧
    (∀ i n c g, jobSlot s.desk m.key.toNat = some i → slotRun s.desk i = some (n, c) → cmdSlot c = i →
      (s.desk.slots.at i).image = some g → c.stop = none →
      s.fab.inbox.find? (fun x => x.2.cls == m.cls && x.2.rtype == m.rtype) = some (p, m) →
      (m.cls = 0 → m.rtype = 0 → ∃ t, exec .flipNoticeReceive s = .next t ∧
        t.fab.inbox = s.fab.inbox.erase (p, m) ∧ t.desk.slots.at i = takeNotice g m.body (s.desk.slots.at i)) ∧
      (m.cls = 1 → m.rtype = 0 → ∀ w, w = fieldBits m.body 0 4 0 20 → w < windowCount g.n → w ∉ g.home →
        (fieldBits m.body 4 4 10 1 = 1 → ∃ t, exec .boundarySpinReceive s = .next t ∧
          w ∈ (t.desk.slots.at i).filled ∧ w ∈ (t.desk.slots.at i).known ∧
          (t.desk.slots.at i).mirror = (List.range 16).map fun k =>
            ((s.desk.slots.at i).mirror.getD k []).set w (BitVec.ofNat 256 (field m.body (16 + 32 * k) 32))) ∧
        (∀ b, b = fieldBits m.body 8 8 0 48 * g.phases.length + fieldBits m.body 4 4 0 10 → fieldBits m.body 4 4 10 1 = 0 →
          w ∈ (s.desk.slots.at i).overflow → barrierNo g (s.desk.slots.at i).ann ≤ b →
          (∀ x ∈ (s.desk.slots.at i).spinRecs, x.1 ≠ b ∨ x.2.1 ≠ w) → ∃ t, exec .boundarySpinReceive s = .next t ∧
            t.desk.slots.at i = { s.desk.slots.at i with spinRecs := (s.desk.slots.at i).spinRecs ++
              [(b, w, (List.range 16).map fun k => BitVec.ofNat 256 (field m.body (16 + 32 * k) 32))] })) ∧
      (m.cls = 0 → m.rtype = 1 → (s.desk.slots.at i).ann.sweep ≤ fieldBits m.body 0 8 0 48 →
        (∀ x ∈ (s.desk.slots.at i).rankSums, x.rank ≠ fieldBits m.body 0 8 48 6 ∨ x.sweep ≠ fieldBits m.body 0 8 0 48) →
        ∃ t, exec .sweepEndRecord s = .next t ∧
          (t.desk.slots.at i).rankSums = (s.desk.slots.at i).rankSums ++ [⟨fieldBits m.body 0 8 48 6, fieldBits m.body 0 8 0 48,
            (List.range 16).map fun k => signed 64 (field m.body (8 + 8 * k) 8)⟩]) ∧
      (m.cls = 0 → m.rtype = 2 → g.rank ≠ 0 → ∃ t, exec .exchangeRecord s = .next t ∧
        (t.desk.slots.at i).piNext = some (piOf (field m.body 8 8)) ∧
        (t.desk.slots.at i).ann.exch = (s.desk.slots.at i).ann.exch + 1 ∧
        (t.desk.slots.at i).ann.sweep = (s.desk.slots.at i).ann.sweep) ∧
      (m.cls = 0 → m.rtype = 3 → g.rank ≠ 0 → (s.desk.slots.at i).winPhase = 0xFFFF → (s.desk.slots.at i).ann.opcode ≠ 0x18 →
        ∃ t, exec .stopRecord s = .next t ∧ (t.desk.slots.at i).winner = (m.body.getD 8 0).toNat % 16 ∧
          (t.desk.slots.at i).winPhase = fieldBits m.body 0 8 48 10 ∧
          (midPhase g (s.desk.slots.at i) = true → (t.desk.sqs.at n).cur = some c) ∧
          (midPhase g (s.desk.slots.at i) = false → ∃ c', (t.desk.sqs.at n).cur = some c' ∧ c'.stage = .ended ∧
            c'.status = stOk ∧ c'.stopReason = 3)) ∧
      (m.cls = 0 → m.rtype = 4 → (s.desk.slots.at i).replayId < field m.body 8 4 → ∃ t, exec .replayRecord s = .next t ∧
        (t.desk.slots.at i).replayId = field m.body 8 4 ∧
        (t.desk.slots.at i).replaySteps = [(g.modMap.idxOf m.src.toNat, field m.body 0 8)] ∧
        ∃ c', (t.desk.sqs.at n).cur = some c' ∧ c'.stop = some .replay))

/-- R298, R299, R300, R253: a peer's read of memory that serves it is answered with the bytes, its write stored and acknowledged; an access
that does not serve is answered with ERR, and so is a read of a sector that reads uncorrectable. The answer to an access of the
module's own reaches the command that waits, or the lock that was asked for. A direct peer's lock read and release act on the locks under
its requester ID, and its write at 0x200 rings its doorbell. -/
def Obligations.RemoteAccessesAreServed : Prop :=
  ∀ (s : State) (p : Fin 16) (m : Msg), Running s →
    (s.fab.inbox.find? (fun x => isRemote 0 x.2) = some (p, m) → ∀ addr n u, addr = field m.body 0 8 → n = field m.body 8 4 →
      u = wakeMemory (addrDevice addr) n (popped s p m) →
      (servesPeer s addr n = true → badSector s.desk.mem (addrDevice addr) n = none →
        exec .readRequest s = .next (settle (answer u m 1 false
          ((List.range n).map fun i => cellRead s.desk.mem.cells (addrDevice addr + i))))) ∧
      (∀ x, servesPeer s addr n = true → badSector s.desk.mem (addrDevice addr) n = some x →
        exec .readRequest s = .next (settle (answer { u with desk := noteUe u.desk (32 * x) none 0 } m 1 true []))) ∧
      (servesPeer s addr n = false → exec .readRequest s = .next (settle (answer (popped s p m) m 1 true [])))) ∧
    (s.fab.inbox.find? (fun x => isRemote 2 x.2) = some (p, m) →
      (servesPeer s (field m.body 0 8) (m.body.drop 8).length = true →
        narrowHits s.desk.mem (addrDevice (field m.body 0 8)) (m.body.drop 8).length = [] →
        ∃ t, exec .remoteWrite s = .next t ∧
          (∀ i (h : i < (m.body.drop 8).length),
            cellRead t.desk.mem.cells (addrDevice (field m.body 0 8) + i) = (m.body.drop 8)[i]) ∧
          (∀ a, a < addrDevice (field m.body 0 8) ∨ addrDevice (field m.body 0 8) + (m.body.drop 8).length ≤ a →
            cellRead t.desk.mem.cells a = cellRead s.desk.mem.cells a) ∧
          t.fab.inbox = s.fab.inbox.erase (p, m) ∧ t.desk.sqs = s.desk.sqs ∧ t.desk.ports = s.desk.ports) ∧
      (servesPeer s (field m.body 0 8) (m.body.drop 8).length = false →
        exec .remoteWrite s = .next (settle (answer (popped s p m) m 3 true [])))) ∧
    (Awake s → s.fab.inbox.find? (fun x => isRemote 1 x.2 || (x.2.cls == 4 && x.2.rtype == 3)) = some (p, m) → m.cls = 4 →
      exec .readCompletion s = .next (settle { popped s p m with
        locks := lockAnswered s.locks m.src (BitVec.ofNat 32 (field m.body 0 4)) })) ∧
    (∀ n c r, Awake s → (s.desk.sqs.at n).cur = some c →
      (s.fab.inbox.find? (fun x => isRemote 1 x.2 || (x.2.cls == 4 && x.2.rtype == 3)) = some (p, m) → m.cls ≠ 4 →
        asked false m c.remote = some r → ∃ t c', exec .readCompletion s = .next t ∧ (t.desk.sqs.at n).cur = some c' ∧
          t.desk.mem = s.desk.mem ∧ c'.remote = c.remote.erase r ∧
          (m.err = false → c' = { c with remote := c.remote.erase r, cache := cellWrites c.cache r.addr m.body }) ∧
          (m.err = true → c.stage ≠ .ended → c'.fault = true)) ∧
      (s.fab.inbox.find? (fun x => isRemote 3 x.2) = some (p, m) → asked true m c.remote = some r →
        ∃ t c', exec .writeAcknowledgement s = .next t ∧ (t.desk.sqs.at n).cur = some c' ∧
          t.desk.mem = s.desk.mem ∧ c'.remote = c.remote.erase r ∧
          (m.err = false → c' = { c with remote := c.remote.erase r }) ∧
          (m.err = true → c.stage ≠ .ended → c'.fault = true))) ∧
    (∀ n : Fin 64, s.fab.inbox.find? (fun x => x.2.cls == 4 && x.2.rtype == 2) = some (p, m) →
      field m.body 0 4 = 0x38000 + 8 * n.val → ∃ t, exec .fabricRegisterRead s = .next t ∧
        t.locks = (match s.locks.owner.at n with
          | none => { s.locks with owner := s.locks.owner.put n (some (fin 32 (16 + p.val))) }
          | some _ => s.locks)) ∧
    (s.fab.inbox.find? (fun x => x.2.cls == 4 && x.2.rtype == 1) = some (p, m) →
      (∀ n : Fin 64, field m.body 0 4 = 0x38004 + 8 * n.val → ∃ t, exec .fabricRegisterWrite s = .next t ∧
        (s.locks.owner.at n = some (fin 32 (16 + p.val)) → field m.body 4 4 % 32 = 16 + p.val →
          t.locks = { s.locks with owner := s.locks.owner.put n none }) ∧
        (s.locks.owner.at n ≠ some (fin 32 (16 + p.val)) →
          t.locks = { s.locks with badRelease := min 0xFFFFFFFF (s.locks.badRelease + 1) })) ∧
      (field m.body 0 4 = 0x200 → exec .fabricRegisterWrite s = .next (settle
        (setDoorbell (popped s p m) (.fdPeer p) (BitVec.ofNat 32 (field m.body 4 4))))))

/-! ## Transfers and slots -/

/-- R55, R107, R417, Table 9.15: a transfer of sound bytes within the module writes them to its destination and nothing else, and reports
how many; COPY and FILL form the digest of what they write; a LOAD records the base of its part. A COPY from or to the
partner's memory goes through the windows, in requests of the sizes that the partner has programmed (R266). A sector that reads
uncorrectable stops a piece before it writes. -/
def Obligations.TransfersMoveBytes : Prop :=
  ∀ (s : State) (n : Fin 64) (c : Cmd) (units a b len : Nat), Untouched c → s.desk.tclkOff = false →
    (AtHand s n .copy c → a = field c.pkt 16 8 → b = field c.pkt 24 8 → len = field c.pkt 32 8 →
      (PlainSpan s a len → PlainSpan s b len → addrDevice a + len ≤ addrDevice b ∨ addrDevice b + len ≤ addrDevice a →
        len ≤ 1048576 * units → ∃ t c', exec (.copy n units) s = .next t ∧ (t.desk.sqs.at n).cur = some c' ∧
          EndedAs c' c stOk ∧ c'.result = slice (leBytes 8 len) 0 28 ∧
          c'.digest = crc64 (cellReads s.desk.mem.cells (addrDevice a) len) ∧
          StoredAt s.desk t.desk (addrDevice b) len (fun i => cellRead s.desk.mem.cells (addrDevice a + i)) ∧
          OnlyMemory s.desk t.desk n ∧ OnlyDesk s t) ∧
      (∀ h, addrOwn (envOf s) a = true → hostBase ≤ addrDevice a → 0 < len → len ≤ 1048576 → 0 < units →
        (∀ r ∈ requests (s.desk.ports.at (queuePort n)).readMax len,
          windowTarget (s.desk.ports.at (queuePort n)) false (addrDevice a + r.1) r.2 = some (h + r.1)) →
        PlainSpan s b len → ∃ t c', exec (.copy n units) s = .next t ∧ (t.desk.sqs.at n).cur = some c' ∧
          EndedAs c' c stOk ∧ c'.result = slice (leBytes 8 len) 0 28 ∧
          StoredAt s.desk t.desk (addrDevice b) len
            (fun i => cellRead (s.desk.ports.at (queuePort n)).host (h + i)) ∧ t.desk.ports = s.desk.ports) ∧
      (∀ h, PlainSpan s a len → addrOwn (envOf s) b = true → hostBase ≤ addrDevice b → 0 < len → len ≤ 1048576 →
        0 < units →
        (∀ r ∈ requests (s.desk.ports.at (queuePort n)).writeMax len,
          windowTarget (s.desk.ports.at (queuePort n)) true (addrDevice b + r.1) r.2 = some (h + r.1)) →
        ∃ t c', exec (.copy n units) s = .next t ∧ (t.desk.sqs.at n).cur = some c' ∧ EndedAs c' c stOk ∧
          c'.result = slice (leBytes 8 len) 0 28 ∧ t.desk.mem.cells = s.desk.mem.cells ∧
          (∀ i, i < len → cellRead (t.desk.ports.at (queuePort n)).host (h + i) =
            cellRead s.desk.mem.cells (addrDevice a + i)) ∧
          ∀ x, x < h ∨ h + len ≤ x → cellRead (t.desk.ports.at (queuePort n)).host x =
            cellRead (s.desk.ports.at (queuePort n)).host x) ∧
      (∀ k, addrOwn (envOf s) a = true → addrDevice a + len ≤ tableBase → 0 < len → len ≤ 1048576 → 0 < units →
        badSector s.desk.mem (addrDevice a) len = some k → ∃ t c', exec (.copy n units) s = .next t ∧
          (t.desk.sqs.at n).cur = some c' ∧ c'.stop = some .dataLost ∧ c'.done = 0 ∧
          t.desk.mem.cells = s.desk.mem.cells ∧ t.desk.errs.logCount = satAdd 16 s.desk.errs.logCount 1)) ∧
    (AtHand s n .fill c → b = field c.pkt 16 8 → len = field c.pkt 24 8 → PlainSpan s b len → len ≤ 1048576 * units →
      ∃ t c', exec (.fill n units) s = .next t ∧ (t.desk.sqs.at n).cur = some c' ∧ EndedAs c' c stOk ∧
        c'.result = slice (leBytes 8 len) 0 28 ∧
        StoredAt s.desk t.desk (addrDevice b) len (fun i => BitVec.ofNat 8 (field c.pkt 32 8 / 256 ^ (i % 8))) ∧
        OnlyMemory s.desk t.desk n ∧ OnlyDesk s t) ∧
    (∀ o, AtHand s n o c → a = field c.pkt 24 8 → b = field c.pkt 32 8 + field c.pkt 40 8 → len = field c.pkt 48 8 →
      PlainSpan s a len → PlainSpan s b len → addrDevice a + len ≤ addrDevice b ∨ addrDevice b + len ≤ addrDevice a →
      len ≤ 1048576 * units →
      (∀ i y, (i = .loadCouplings n units ∧ o = .loadCouplings ∧ y = { s.desk.slots.at (pktSlot c.pkt) with
            extents := (s.desk.slots.at (pktSlot c.pkt)).extents.set (field c.pkt 17 1) (some (field c.pkt 32 8)) }) ∨
          (i = .loadBiases n units ∧ o = .loadBiases ∧
            y = { s.desk.slots.at (pktSlot c.pkt) with biasBase := some (field c.pkt 32 8) }) ∨
          (i = .loadGroups n units ∧ o = .loadGroups ∧
            y = { s.desk.slots.at (pktSlot c.pkt) with groupBase := some (field c.pkt 32 8) }) →
        ∃ t c', exec i s = .next t ∧ (t.desk.sqs.at n).cur = some c' ∧ EndedAs c' c stOk ∧
          c'.result = slice (leBytes 8 len) 0 28 ∧
          StoredAt s.desk t.desk (addrDevice b) len (fun i => cellRead s.desk.mem.cells (addrDevice a + i)) ∧
          OnlyMemory (withSlot s.desk (pktSlot c.pkt) y) t.desk n ∧ OnlyDesk s t))

/-- R55, R58 to R60, Table 2.6: SET_SCHEDULE and SET_PHASE_MAP record their address. A commit with N = 0 empties the slot, and no tile holds
its state any more. A commit whose records and twin all lie in mapped memory, what it reads sound and what it writes writable,
makes the slot COMMITTED with its generation advanced by 1, its digest over the bytes read, its spins and fields from the image,
and for M = 1 the energy of every replica by R42. A record or a twin beyond mapped memory makes it BAD_PACKET, on an absent
unit NOT_SUPPORTED, with no effect on the slot; a lost byte makes it DATA_LOST with the slot OPEN. A commit without a twin leaves
memory as it is where no fetch directory needs its work area (R110, R115). -/
def Obligations.SlotsAreWritten : Prop :=
  ∀ (s : State) (n : Fin 64) (c : Cmd) (x : Slot), x = s.desk.slots.at (pktSlot c.pkt) →
    (AtHand s n .setSchedule c → exec (.setSchedule n) s = .next (settle { s with
        desk := withCur (withSlot s.desk (pktSlot c.pkt) { x with
            schedAddr := if field c.pkt 24 8 = 0 then none else some (field c.pkt 24 8) }) n
          (workDone s.desk.now c stOk [] 0) })) ∧
    (AtHand s n .setPhaseMap c → exec (.setPhaseMap n) s = .next (settle { s with
        desk := withCur (withSlot s.desk (pktSlot c.pkt) { x with
            phaseAddr := if field c.pkt 24 8 = 0 then none else some (field c.pkt 24 8) }) n
          (workDone s.desk.now c stOk [] 0) })) ∧
    (∀ p rs cnt, AtHand s n .commitProblem c → s.desk.tclkOff = false → p = commitParams c.pkt → rs = listRecords s.desk x c.pkt →
      cnt = ((List.range 8).map fun k => field c.pkt (32 + 4 * k) 4) →
      (p.n = 0 → ∃ t c', exec (.commitProblem n) s = .next t ∧ (t.desk.sqs.at n).cur = some c' ∧ EndedAs c' c stOk ∧
        c'.result = slice (leBytes 4 x.gen) 0 28 ∧ (t.desk.slots.at (pktSlot c.pkt)).state = .empty ∧
        (t.desk.slots.at (pktSlot c.pkt)).gen = x.gen ∧ (t.desk.slots.at (pktSlot c.pkt)).owner = none ∧
        (t.desk.slots.at (pktSlot c.pkt)).image = none ∧ (t.desk.slots.at (pktSlot c.pkt)).susp = none ∧
        (∀ l h, t.desk.tiles.holds.at l = some h → h.slot ≠ pktSlot c.pkt) ∧
        OnlyMemory { withSlot s.desk (pktSlot c.pkt) (t.desk.slots.at (pktSlot c.pkt)) with tiles := t.desk.tiles } t.desk n ∧
        OnlyDesk s t) ∧
      (∀ parts g, p.n ≠ 0 → walkVerdict (envOf s) s.desk rs p.twin = .ok →
        firstBad s.desk (rs ++ partRanges s.desk x p) = none → parts = readParts s.desk x p rs → g = buildImage p parts →
        ((storeAll s.desk (commitStores s.desk (pktSlot c.pkt) p parts cnt c.tiles)).2 = none →
          ∃ t c' y, exec (.commitProblem n) s = .next t ∧ (t.desk.sqs.at n).cur = some c' ∧ EndedAs c' c stOk ∧
            y = t.desk.slots.at (pktSlot c.pkt) ∧ y.state = .committed ∧ y.gen = x.gen + 1 ∧
            y.owner = (if x.state = .empty then some (queuePort n) else x.owner) ∧
            y.n = p.n ∧ y.t = p.t ∧ y.m = p.m ∧ y.rank = p.rank ∧ y.qubo = p.qubo ∧ y.jobKey = p.jobKey ∧
            y.extCounts = cnt ∧ y.groupCount = p.groups ∧ y.initAddr = p.initAddr ∧ y.twinAddr = p.twin ∧
            y.workAddr = p.work ∧ y.susp = none ∧ y.ran = false ∧ y.digest = imageDigest p parts ∧ c'.digest = y.digest ∧
            y.image = some g ∧ c'.result = slice (leBytes 4 y.gen ++ leBytes 4 (streamCount g)) 0 28 ∧
            y.mirror = ((List.range 16).map fun k => startSpins g parts.init k) ∧
            y.ann.spins = (y.mirror.map fun ws => (homeWindows p.n p.t p.m p.rank).map fun w => ws.getD w 0) ∧
            y.fields = y.mirror.map (g.fieldsOf []) ∧ y.ann.best = y.ann.e ∧ y.ann.bestSpins = y.ann.spins ∧
            (p.m = 1 → y.ann.e = y.mirror.map fun ws => wrap64 (g.energyOf ws)) ∧
            (p.twin = none → p.work = none ∨ dirFits s.desk (pktSlot c.pkt) g cnt c.tiles = true → t.desk.mem = s.desk.mem) ∧
            (∀ i, i ≠ pktSlot c.pkt → t.desk.slots.at i = s.desk.slots.at i) ∧ OnlyDesk s t) ∧
        (∀ k, (storeAll s.desk (commitStores s.desk (pktSlot c.pkt) p parts cnt c.tiles)).2 = some k →
          ∃ t c', exec (.commitProblem n) s = .next t ∧ (t.desk.sqs.at n).cur = some c' ∧ EndedAs c' c stDataLost ∧
            (t.desk.slots.at (pktSlot c.pkt)).state = .open_ ∧ (t.desk.slots.at (pktSlot c.pkt)).image = none)) ∧
      (p.n ≠ 0 → walkVerdict (envOf s) s.desk rs p.twin = .unmapped → exec (.commitProblem n) s = .next (settle { s with
          desk := withCur s.desk n (workDone s.desk.now c stBad [] 0) })) ∧
      (p.n ≠ 0 → walkVerdict (envOf s) s.desk rs p.twin = .absent → exec (.commitProblem n) s = .next (settle { s with
          desk := withCur s.desk n (workDone s.desk.now c stUnsupported [] 0) })) ∧
      (∀ k, p.n ≠ 0 → walkVerdict (envOf s) s.desk rs p.twin = .ok →
        firstBad s.desk (rs ++ partRanges s.desk x p) = some k → ∃ t c', exec (.commitProblem n) s = .next t ∧
          (t.desk.sqs.at n).cur = some c' ∧ EndedAs c' c stDataLost ∧
          (t.desk.slots.at (pktSlot c.pkt)).state = .open_ ∧ (t.desk.slots.at (pktSlot c.pkt)).image = none ∧
          (t.desk.slots.at (pktSlot c.pkt)).gen = x.gen ∧ t.desk.mem.cells = s.desk.mem.cells))

/-- R149 to R152: a COUPLE_OUT whose operands, records and tables lie in sound memory of the module writes the records from OUT_ADDR and
the bias table at BIAS_ADDR, and no other byte where no fetch directory needs its work area, records them in its slot and commits
it; with N = 0 it empties the slot (log entry 25). -/
def Obligations.NetworksBecomeProblems : Prop :=
  ∀ (s : State) (n : Fin 64) (c : Cmd) (b : Bytes) (p : CommitParams), AtHand s n .coupleOut c → Untouched c →
    s.desk.tclkOff = false →
    b = c.descs.getD 0 [] → p = coupleParams c.pkt b →
    (p.n = 0 → ∃ t c', exec (.coupleOut n) s = .next t ∧ (t.desk.sqs.at n).cur = some c' ∧ EndedAs c' c stOk ∧
      c'.result = slice (leBytes 4 (s.desk.slots.at (pktSlot c.pkt)).gen) 0 28 ∧
      (t.desk.slots.at (pktSlot c.pkt)).state = .empty ∧
      OnlyMemory { withSlot s.desk (pktSlot c.pkt) (t.desk.slots.at (pktSlot c.pkt)) with tiles := t.desk.tiles } t.desk n) ∧
    (∀ recs d0 c1 l o x, p.n ≠ 0 → p.twin = none →
      recs = coupleRecords p.n p.t p.m p.rank (bit (field c.pkt 17 1) 2) (pairList (c.descs.getD 3 [])) →
      d0 = takeTiles (withSlot (leaveSlot s.desk (pktSlot c.pkt)) (pktSlot c.pkt)
        (coupleSlot (queuePort n) p b recs.length (s.desk.slots.at (pktSlot c.pkt)))) c.tiles none →
      c1 = { beginWork s.desk c with asked := 1 } →
      (∀ q ∈ coupleNeeds c recs, ∀ r ∈ rowRanges (descOf c q.1) q.2, addrOwn (envOf s) r.1 = true) →
      readOperands (envOf s) d0 n c1 (coupleNeeds c recs) = (d0, l, none) → o = coupleOutput c p recs l →
      PlainSpan s (field b 24 8) o.1.flatten.length →
      (∀ u, o.2 = some u → PlainSpan s (field b 32 8) u.length) →
      x = d0.slots.at (pktSlot c.pkt) →
      (∀ d, d.mem.ue = s.desk.mem.ue → firstBad d (partRanges d x p) = none) →
      (∀ a, p.work = some a → narrowHits s.desk.mem (addrDevice a) (8 * o.1.length + 4096) = []) →
      ∃ t c', exec (.coupleOut n) s = .next t ∧ (t.desk.sqs.at n).cur = some c' ∧ EndedAs c' c stOk ∧
        (p.work = none ∨ (∃ g, (t.desk.slots.at (pktSlot c.pkt)).image = some g ∧
            dirFits s.desk (pktSlot c.pkt) g (t.desk.slots.at (pktSlot c.pkt)).extCounts c.tiles = true) →
          t.desk.mem.cells = (match o.2 with
            | some u => cellWrites (cellWrites s.desk.mem.cells (addrDevice (field b 24 8)) o.1.flatten)
                (addrDevice (field b 32 8)) u
            | none => cellWrites s.desk.mem.cells (addrDevice (field b 24 8)) o.1.flatten)) ∧
        (t.desk.slots.at (pktSlot c.pkt)).state = .committed ∧
        (t.desk.slots.at (pktSlot c.pkt)).gen = (s.desk.slots.at (pktSlot c.pkt)).gen + 1 ∧
        (t.desk.slots.at (pktSlot c.pkt)).extents = some (field b 24 8) :: List.replicate 7 none ∧
        (t.desk.slots.at (pktSlot c.pkt)).biasBase = (if field b 8 8 = 0 then none else some (field b 32 8)) ∧
        c'.digest = (t.desk.slots.at (pktSlot c.pkt)).digest ∧
        c'.result = slice (leBytes 4 (t.desk.slots.at (pktSlot c.pkt)).gen ++ leBytes 4 o.1.length) 0 28)

/-- R172 to R174, R213: READ_STATE writes the state asked for, 32 bytes of spins to a home window; TILE_STORE writes rows of a job tile,
256 INT64 lanes each, and TILE_LOAD puts rows of memory in their place. The two that read change nothing of the slot but that it has
been used since NIGHT (R314); a load leaves its state, generation and digest. -/
def Obligations.SlotStateIsReadAndLoaded : Prop :=
  ∀ (s : State) (n : Fin 64) (c : Cmd) (g : Image) (x : Slot), Untouched c → x = s.desk.slots.at (pktSlot c.pkt) →
    x.image = some g → TilesHold s.desk c → s.desk.tclkOff = false →
    (∀ bs, AtHand s n .readState c →
      bs = (if field c.pkt 17 1 = 0 then waypointBytes s.desk (pktSlot c.pkt) g x.gen x.ann 0
        else if field c.pkt 17 1 = 1 then (x.ann.spins.getD (field c.pkt 18 1) []).flatMap (fun w => leBytes 32 w.toNat)
        else (x.ann.bestSpins.getD (field c.pkt 18 1) []).flatMap (fun w => leBytes 32 w.toNat)) →
      PlainSpan s (field c.pkt 24 8) bs.length →
      ∃ t c', exec (.readState n) s = .next t ∧ (t.desk.sqs.at n).cur = some c' ∧ EndedAs c' c stOk ∧
        StoredAt s.desk t.desk (addrDevice (field c.pkt 24 8)) bs.length (fun i => bs.getD i 0) ∧
        OnlyMemory { withSlot s.desk (pktSlot c.pkt) { x with nightSaved := false } with tiles := t.desk.tiles } t.desk n ∧
        OnlyDesk s t) ∧
    (∀ ws, AtHand s n .tileStore c →
      ws = ((List.range (field c.pkt 22 2)).map fun j => ((descOf c 0).rowAddr j 0 0,
        (rowLanes x (tileRow g (field c.pkt 18 2) (field c.pkt 20 2 + j))).flatMap (intBytes 8))) →
      (∀ w ∈ ws, PlainSpan s w.1 w.2.length) →
      ∃ t c', exec (.tileStore n) s = .next t ∧ (t.desk.sqs.at n).cur = some c' ∧ EndedAs c' c stOk ∧
        c'.digest = crc64 (ws.flatMap fun w => w.2) ∧
        t.desk.mem.cells = ws.foldl (fun m w => cellWrites m (addrDevice w.1) w.2) s.desk.mem.cells ∧
        OnlyMemory { withSlot s.desk (pktSlot c.pkt) { x with nightSaved := false } with tiles := t.desk.tiles } t.desk n ∧
        OnlyDesk s t) ∧
    (∀ ls, AtHand s n .tileLoad c →
      ls = ((List.range (field c.pkt 22 2)).map fun j =>
        cellReads s.desk.mem.cells (addrDevice ((descOf c 0).rowAddr j 0 0)) 2048) →
      (∀ j, j < field c.pkt 22 2 → PlainSpan s ((descOf c 0).rowAddr j 0 0) 2048) →
      ∃ t c', exec (.tileLoad n) s = .next t ∧ (t.desk.sqs.at n).cur = some c' ∧ EndedAs c' c stOk ∧
        c'.digest = crc64 ls.flatten ∧
        (∃ z, z = (List.range (field c.pkt 22 2)).foldl (fun y j =>
            setRow y (tileRow g (field c.pkt 18 2) (field c.pkt 20 2 + j))
              ((List.range 256).map fun l => signed 64 (field (ls.getD j []) (8 * l) 8))) x ∧
          t.desk.slots.at (pktSlot c.pkt) = { z with rowsLoaded := true, nightSaved := false }) ∧
        (t.desk.slots.at (pktSlot c.pkt)).gen = x.gen ∧ (t.desk.slots.at (pktSlot c.pkt)).state = x.state ∧
        (t.desk.slots.at (pktSlot c.pkt)).digest = x.digest ∧ t.desk.mem = s.desk.mem ∧
        (∀ i, i ≠ pktSlot c.pkt → t.desk.slots.at i = s.desk.slots.at i) ∧ OnlyDesk s t)

/-! ## Runs -/

/-- R81, R93, R158, R195, R196: the start of work of a run on a slot of M = 1 whose tiles hold it. A fresh run begins at SWEEP_BASE
with its seed, the identity permutation, every count 0, and its best energies and states the present ones; a CORRELATE with ADD starts from
the statistics that its dispatch read, and a RESUME of a CORRELATE loads its own. A RESUME goes on from its suspension record, which goes, with
the exchange that was still to be adopted, or from its copy. A
SUSPEND stops the run on its slot and completes once that has; with none it completes OK. -/
def Obligations.RunsBegin : Prop :=
  ∀ (s : State) (n : Fin 64) (c : Cmd),
    (∀ g x rs got p, Untouched c → x = s.desk.slots.at (pktSlot c.pkt) → x.image = some g → x.m = 1 → g.m = 1 →
      g.rank = 0 → TilesHold s.desk c → s.desk.tclkOff = false →
      rs = (if loadsStats g x c && pktOp c.pkt == some .resume then statRanges g (startParams g x c) (cmdPairs c) else []) →
      (∀ r ∈ rs, PlainSpan s r.1 r.2) →
      got = (if rs = [] then c.stats else rs.map fun r => cellReads s.desk.mem.cells (addrDevice r.1) r.2) →
      p = runParams (field c.pkt 0 1) (c.pkt.drop 16) →
      (∀ o i, AtHand s n o c → (i = .anneal n 0 ∧ o = .anneal) ∨ (i = .sample n 0 ∧ o = .sample) ∨
          (i = .correlate n 0 ∧ o = .correlate) →
        ∃ t y, exec i s = .next t ∧ y = t.desk.slots.at (pktSlot c.pkt) ∧
          (t.desk.sqs.at n).cur = some { c with
            stage := .working, began := true, startedAt := s.desk.now, resumedAt := s.desk.now
            progressAt := s.desk.now, asked := 1 } ∧
          y.ann.sweep = p.base ∧ y.ann.phase = 0 ∧ y.ann.seed = BitVec.ofNat 128 (field c.pkt 32 16) ∧
          y.ann.opcode = field c.pkt 0 1 ∧ y.ann.params = c.pkt.drop 16 ∧ y.ann.schedDigest = crc64 c.sched ∧
          y.ann.pi = List.range 16 ∧ y.ann.exch = 0 ∧ y.ann.counters = ⟨0, 0, 0, 0, 0, 0, 0, 0, 0⟩ ∧
          y.ann.spins = x.ann.spins ∧ y.ann.bestSpins = x.ann.spins ∧
          y.ann.best = ((List.range 16).map fun k => geti x.ann.e k) ∧ y.ann.stuck = List.replicate 16 0 ∧
          y.ann.wl = List.replicate 16 0 ∧ y.ann.plateau = 0 ∧ y.ann.wpCount = 0 ∧ y.ann.samples = 0 ∧
          (got ≠ [] → y.ann.pairs = (loadStats g (cmdPairs c) got x.ann).pairs ∧
            y.ann.moments = (loadStats g (cmdPairs c) got x.ann).moments) ∧
          y.betas = ((List.range 16).map fun k => replicaBeta c.sched k p.base 0) ∧
          (got = [] → y.ann.pairs = if o = .correlate then List.replicate p.npairs (List.replicate 256 (List.replicate 256 0)) else []) ∧
          y.fields = x.fields ∧ y.visited = [] ∧ y.fetched = [] ∧ y.entryPoint = some y.ann ∧ y.buffers = [] ∧ y.ran = true ∧
          y.user = some n ∧ y.state = x.state ∧ y.gen = x.gen ∧ y.digest = x.digest ∧ y.susp = x.susp ∧
          t.desk.mem = s.desk.mem ∧ (∀ i, i ≠ pktSlot c.pkt → t.desk.slots.at i = s.desk.slots.at i) ∧ OnlyDesk s t) ∧
      (∀ a, AtHand s n .resume c →
        a = (if field c.pkt 24 8 = 0 then (x.susp.map (·.ann)).getD x.ann else annOfBytes g (c.descs.getD 1 [])) →
        ∃ t y, exec (.resume n 0) s = .next t ∧ y = t.desk.slots.at (pktSlot c.pkt) ∧
          (t.desk.sqs.at n).cur = some { c with
            stage := .working, began := true, startedAt := s.desk.now, resumedAt := s.desk.now
            progressAt := s.desk.now, asked := 1, ckpt := a.ckpt } ∧
          (got = [] → y.ann = repairAnn g a) ∧ (got ≠ [] → y.ann = loadStats g (cmdPairs c) got (repairAnn g a)) ∧
          (field c.pkt 24 8 = 0 → ∀ z, x.susp = some z → y.piNext = z.piNext ∧ y.rxDone = z.rxDone ∧ y.betasPrev = z.betasPrev) ∧
          y.susp = none ∧ y.entryPoint = some y.ann ∧ y.stepStart = annStep a ∧ y.sweepDue = false ∧ y.ran = true ∧
          y.gen = x.gen ∧ y.state = x.state ∧ t.desk.mem = s.desk.mem ∧
          (∀ i, i ≠ pktSlot c.pkt → t.desk.slots.at i = s.desk.slots.at i) ∧ OnlyDesk s t)) ∧
    (AtHand s n .suspend c → c.done = 0 →
      (suspendTarget s.desk (pktSlot c.pkt) = none → exec (.suspend n) s = .next (settle { s with
        desk := withCur s.desk n (workDone s.desk.now c stOk [] 0) })) ∧
      (∀ m r, m ≠ n → suspendTarget s.desk (pktSlot c.pkt) = some (m, r) → ∃ t c', exec (.suspend n) s = .next t ∧
        (t.desk.sqs.at m).cur = some { r with stop := some (.suspend n), stopAt := s.desk.now } ∧
        (t.desk.sqs.at n).cur = some c' ∧ c'.stage = .working ∧
        c'.result = slice (leBytes 1 1 ++ leBytes 1 (field r.pkt 0 1) ++ leBytes 1 m.val ++ leBytes 1 0 ++
          leBytes 4 (pktPseq r.pkt)) 0 28 ∧
        (∀ i, i ≠ m → i ≠ n → t.desk.sqs.at i = s.desk.sqs.at i) ∧ t.desk.slots = s.desk.slots ∧ OnlyDesk s t)) ∧
    (∀ c1, (s.desk.sqs.at n).cur = some c1 → pktOp c1.pkt = some .suspend → c1.stage = .working → c1.stop = none →
      c1.done = 1 → (liveCmds s.desk).any (fun x => x.2.stop == some (.suspend n)) = false →
      exec (.suspend n) s = .next (settle { s with
        desk := withCur s.desk n { c1 with
          stage := .ended, status := stOk, result := slice c1.result 0 28, limit := 0 } }))

/-- R66, R73, R75 to R79, R82, R84, R105, R113: a visit changes the spins of its window alone, exactly those its flip notice names for each
replica, and touches no field. The boundary, once every notice is held, gives each replica its new fields, XORs the flips
into the mirror and goes on to the next phase, or to the sweep's end after the last; a FIRSTWIN run keeps the energies and spins of a
boundary inside the sweep for its tests. A fetch in its turn puts its block into the fetch buffers of the tile; one out of its turn
does nothing. An asynchronous exchange counts and waits for the sweep boundary. A boundary test takes a win, which ends the run once
no tile is inside a phase, or strikes its replica off. -/
def Obligations.VisitsAndBoundaries : Prop :=
  ∀ (s : State) (n : Fin 64) (c : Cmd) (g : Image) (x : Slot), RunOn s n c g x →
    (∀ tile w, tile < g.t → phaseEntry g x.ann.phase tile = some w → mayVisit g x = true →
      (∀ z ∈ x.visited, z.window ≠ w) → (∀ k, k < 16 → g.pos w < (x.ann.spins.getD k []).length) →
      ∃ t y z, exec (.windowVisit n tile) s = .next t ∧ y = visitWindow g (slotParams x) x w ∧
        t = settle { s with desk := withRun s.desk n { c with progressAt := s.desk.now } y } ∧
        y.visited = x.visited ++ [z] ∧ z.window = w ∧
        (∀ k, k < 16 → (y.ann.spins.getD k []).getD (g.pos w) 0 =
          (x.ann.spins.getD k []).getD (g.pos w) 0 ^^^ z.flips.getD k 0) ∧
        (∀ k i, k < 16 → i ≠ g.pos w → (y.ann.spins.getD k []).getD i 0 = (x.ann.spins.getD k []).getD i 0) ∧
        y.fields = x.fields ∧ y.mirror = x.mirror ∧ y.ann.sweep = x.ann.sweep ∧ y.ann.phase = x.ann.phase ∧
        y.ann.counters.visits = addCount x.ann.counters.visits 1) ∧
    (∀ tile, g.t ≤ tile ∨ phaseEntry g x.ann.phase tile = none → exec (.windowVisit n tile) s = .next (settle s)) ∧
    (x.sweepDue = true ∨ (phaseHeld g x = false ∨ fillsHeld x = false) ∧ (streamCount g = 0 ∨ homeMoved s.desk g = false) →
      x.winPhase = 0xFFFF → exec (.phaseBoundary n) s = .next (settle s)) ∧
    (x.sweepDue = false → phaseHeld g x = true → fillsHeld x = true → x.winPhase = 0xFFFF → x.overflow = [] →
      streamCount g = 0 ∨ homeMoved s.desk g = false →
      ∃ t y, exec (.phaseBoundary n) s = .next t ∧ y = t.desk.slots.at (pktSlot c.pkt) ∧
        y.fields = ((List.range 16).map fun k => (boundaryReplica g x k).1) ∧
        y.mirror = ((List.range 16).map fun k => x.visited.foldl
          (fun ws z => ws.set z.window (ws.getD z.window 0 ^^^ noticeFlips x k z.window)) (x.mirror.getD k [])) ∧
        y.ann.spins = x.ann.spins ∧ y.ann.sweep = x.ann.sweep ∧
        (x.ann.phase + 1 < g.phases.length → y.ann.phase = x.ann.phase + 1 ∧ y.sweepDue = false ∧ y.point = some y.ann) ∧
        (g.phases.length ≤ x.ann.phase + 1 → y.ann.phase = x.ann.phase ∧ y.sweepDue = true) ∧
        y.visited = (x.early.filter fun z => z.1 == barrierNo g x.ann + 1).map (·.2) ∧ y.fetched = [] ∧
        ((slotParams x).firstWin = false ∨ c.strict = true ∨ g.phases.length ≤ x.ann.phase + 1 → y.boundaries = x.boundaries) ∧
        ((slotParams x).firstWin = true → c.strict = false → x.ann.phase + 1 < g.phases.length → y.boundaries = x.boundaries ++
          [⟨x.ann.sweep, x.ann.phase, energiesNow g y, x.ann.spins, List.range 16⟩]) ∧
        t.desk.mem = s.desk.mem ∧ (∀ i, i ≠ pktSlot c.pkt → t.desk.slots.at i = s.desk.slots.at i) ∧ OnlyDesk s t) ∧
    (∀ tile i b, x.sweepDue = false → (phaseFetches g x tile)[(tileBufs x tile).done]? = some i → g.blocks[i]? = some b →
      (List.range 4).any (dirLost g x c.tiles) = false →
      (badSector s.desk.mem b.addr (recordLen b.fmt) = none → rereadBlock s.desk g b = b →
        exec (.streamFetch n tile i) s = .next (settle { s with
          desk := withRun s.desk n { c with progressAt := s.desk.now } { x with
            fetched := (x.fetched.filter fun z => z.tile != tile) ++ [(tileBufs x tile).take g i] } })) ∧
      (∀ k, badSector s.desk.mem b.addr (recordLen b.fmt) = some k → g.twin = none → c.stop = none →
        ∃ t c', exec (.streamFetch n tile i) s = .next t ∧ (t.desk.sqs.at n).cur = some c' ∧
          c'.stop = some .dataLost ∧ c'.fault = true)) ∧
    (∀ i tile, x.sweepDue = true ∨ (phaseFetches g x tile)[(tileBufs x tile).done]? ≠ some i →
      exec (.streamFetch n tile i) s = .next (settle s)) ∧
    (∀ p r, p = slotParams x → curOf s.desk n [.anneal, .sample, .resume] = some c → x.betasPrev ≠ [] →
      r = exchange x.ann.seed x.ann.exch (rxDue p x.rxDone - 1) (x.piNext.getD x.ann.pi) x.betasPrev x.ann.e →
      (p.rxMode = 2 → c.strict = false → rxDue p x.rxDone ≤ x.ann.sweep →
        exec (.asyncExchange n) s = .next (settle { s with
          desk := withSlot s.desk (pktSlot c.pkt) { x with
            piNext := some r.1
            rxDone := rxDue p x.rxDone
            ann := { x.ann with
              exch := x.ann.exch + 1
              counters := { x.ann.counters with
                rxAttempts := addCount x.ann.counters.rxAttempts r.2.1
                rxAccepts := addCount x.ann.counters.rxAccepts r.2.2 } } } })) ∧
      (p.rxMode ≠ 2 ∨ c.strict = true ∨ x.ann.sweep < rxDue p x.rxDone →
        exec (.asyncExchange n) s = .next (settle s))) ∧
    (∀ b rest (k : Fin 16) e, x.boundaries = b :: rest → k.val ∈ b.untested → terminal c.stop = false →
      e = wrap64 (geti b.energies k.val) →
      ((slotParams x).targetValid = true → e ≤ (slotParams x).target → b.phase ≠ 0xFFFF → blocksEnd c.stop = false →
        x.ann.opcode ≠ 0x18 → ∃ t y c', exec (.boundaryTargetTest n k) s = .next t ∧ y = t.desk.slots.at (pktSlot c.pkt) ∧
          (t.desk.sqs.at n).cur = some c' ∧ y.winner = k.val ∧ y.winPhase = b.phase ∧ y.boundaries = [] ∧
          y.ann.best = x.ann.best.set k.val e ∧ y.ann.bestSweep = x.ann.bestSweep.set k.val b.sweep ∧
          y.ann.bestSpins = x.ann.bestSpins.set k.val (b.spins.getD k.val []) ∧ y.ann.spins = x.ann.spins ∧
          (midPhase g x = true → c' = c) ∧
          (midPhase g x = false → c'.stage = .ended ∧ c'.status = stOk ∧ c'.stopReason = 3) ∧ t.desk.mem = s.desk.mem) ∧
      ((slotParams x).targetValid = false ∨ (slotParams x).target < e →
        exec (.boundaryTargetTest n k) s = .next (settle { s with
          desk := withSlot s.desk (pktSlot c.pkt) { x with
            boundaries := if (b.untested.erase k.val).isEmpty then rest
              else { b with untested := b.untested.erase k.val } :: rest } })))

/-- R83, R94, R103, R191 to R194, R214, R157: at the end of a sweep of a module alone the energies are K and the commit energy plus the partial
energies, best states and statistics follow, samples due are written; then the stop test ends the run with its reason and
winner, or the next sweep begins, with a waypoint when CKPT_INTERVAL has it due. The last phase of a run's packet is that
end; a phase is the visits of the module's tiles, in order, and the boundary. A run that a window fault stops writes no more
(R275), and is not meant here. -/
def Obligations.SweepsEnd : Prop :=
  ∀ (s : State) (n : Fin 64) (c : Cmd) (g : Image) (x : Slot), RunOn s n c g x → x.winPhase = 0xFFFF →
    x.boundaries = [] → c.stop ≠ some .windowFault →
    (x.sweepDue = true →
      (∀ p a1 ws, p = slotParams x → a1 = sweepTrack g p c x →
        ws = (sampleWrites g p { x.ann with e := energiesNow g x }).1 → (∀ w ∈ ws, PlainSpan s w.1 w.2.length) →
        (∀ k, k < 16 → geti a1.e k = geti g.e0 k + sumInt (x.ann.esum.map fun e => geti e k)) ∧
        (∀ reason winner a2 us, stopTest p a1 = some (reason, winner) → blocksEnd c.stop = false →
          a2 = { a1 with sweep := a1.sweep + 1, phase := 0 } →
          us = (if a2.opcode = 0x18 then statWrites g (runParams a2.opcode a2.params) (cmdPairs c) a2 else []) →
          (∀ w ∈ us, PlainSpan s w.1 w.2.length) →
          ∃ t y c', exec (.sweepEnd n) s = .next t ∧ y = t.desk.slots.at (pktSlot c.pkt) ∧
            (t.desk.sqs.at n).cur = some c' ∧ c'.stage = .ended ∧ c'.stopReason = reason ∧
            c'.status = (if reason = 2 then stPlateau else stOk) ∧ y.winner = winner ∧ y.ann = a2 ∧ y.sweepDue = false ∧
            c'.result = leBytes 8 (annStep a2) ++ intBytes 8 (geti a2.best winner) ++ leBytes 6 (getn a2.bestSweep winner) ++
              leBytes 1 winner ++ leBytes 1 0 ++ leBytes 2 0xFFFF ∧
            c'.digest = crc64 (replicaBytes (a2.bestSpins.getD winner [])) ∧
            t.desk.mem.cells = afterWrites (afterWrites s.desk.mem.cells ws) us ∧
            (∀ i, i ≠ pktSlot c.pkt → t.desk.slots.at i = s.desk.slots.at i) ∧ OnlyDesk s t) ∧
        (∀ a2, stopTest p a1 = none → a2 = exchangeAtBarrier p x.betas a1 →
          ¬ (0 < a2.ckpt ∧ (a2.sweep + 1) % a2.ckpt = 0) →
          ∃ t y c', exec (.sweepEnd n) s = .next t ∧ y = t.desk.slots.at (pktSlot c.pkt) ∧
            (t.desk.sqs.at n).cur = some c' ∧ c'.stage = c.stage ∧ c'.stop = c.stop ∧ y.sweepDue = false ∧
            y.ann = { a2 with sweep := a2.sweep + 1, phase := 0, pi := x.piNext.getD a2.pi } ∧ y.piNext = none ∧
            y.betasPrev = x.betas ∧ y.betas = nextBetas c.sched y.ann ∧ y.point = some y.ann ∧
            t.desk.mem.cells = afterWrites s.desk.mem.cells ws ∧ t.desk.ledger = s.desk.ledger ∧
            (∀ i, i ≠ pktSlot c.pkt → t.desk.slots.at i = s.desk.slots.at i) ∧ OnlyDesk s t) ∧
        (∀ a2, stopTest p a1 = none → a2 = exchangeAtBarrier p x.betas a1 → 0 < a2.ckpt →
          (a2.sweep + 1) % a2.ckpt = 0 → a2.opcode ≠ 0x18 →
          (runParams a2.opcode a2.params).wpAddr = 0 ∨ (runParams a2.opcode a2.params).wpSlots = 0 →
          ∃ t y, exec (.sweepEnd n) s = .next t ∧ y = t.desk.slots.at (pktSlot c.pkt) ∧
            y.ann.sweep = a2.sweep + 1 ∧ y.ann.phase = 0 ∧ y.ann.wpCount = a2.wpCount + 1 ∧
            y.ann.wpChain = crc64 (leBytes 8 a2.wpChain.toNat ++ leBytes 8 (wpDigest y.ann).toNat) ∧
            y.buffers = (y.ann :: x.buffers).take 2 ∧ t.desk.ledger.head = s.desk.ledger.head + 1 ∧
            t.desk.mem.cells = afterWrites s.desk.mem.cells ws ∧ OnlyDesk s t)) ∧
      (∀ o i, curOf s.desk n [o] = some c → (i = .anneal n 1 ∧ o = .anneal) ∨ (i = .sample n 1 ∧ o = .sample) ∨
        (i = .correlate n 1 ∧ o = .correlate) ∨ (i = .resume n 1 ∧ o = .resume) → exec i s = exec (.sweepEnd n) s)) ∧
    (x.sweepDue = false → exec (.sweepEnd n) s = .next (settle s)) ∧
    (∀ o i, x.sweepDue = false → c.stop = none → streamCount g = 0 ∨ homeMoved s.desk g = false → x.visited = [] →
      x.overflow = [] → mayVisit g x = true →
      (slotParams x).firstWin = false ∨ c.strict = true → (∀ w ∈ phaseWindows g x.ann.phase, w ∈ ownPhase g x.ann) →
      x.ann.phase + 1 < g.phases.length → curOf s.desk n [o] = some c →
      (i = .anneal n 1 ∧ o = .anneal) ∨ (i = .sample n 1 ∧ o = .sample) ∨ (i = .correlate n 1 ∧ o = .correlate) ∨
        (i = .resume n 1 ∧ o = .resume) →
      ∃ t y z, exec i s = .next t ∧ y = t.desk.slots.at (pktSlot c.pkt) ∧
        z = phaseBoundary g ((ownPhase g x.ann).foldl (visitWindow g (slotParams x)) x) ∧
        y = { z with fetched := [], primed := true, point := some z.ann } ∧ t.desk.mem = s.desk.mem ∧
        (∀ i, i ≠ pktSlot c.pkt → t.desk.slots.at i = s.desk.slots.at i) ∧ OnlyDesk s t)

/-! ## Tensor, flow and management commands -/

/-- R144 to R147, R190: a unit of a tensor command is the next row-block of every tile group: weights that fit the scratchpads are read
once, the other rows of its operands are read, the output rows written, each once, and after the last unit the command ends with its
row-blocks counted. ROW_BLOCK_DONE is one such unit of the command at work. A unit that cannot read its operands writes nothing and
stops. -/
def Obligations.TensorCommandsFillTheirOutput : Prop :=
  ∀ (s : State) (n : Fin 64) (c c2 c3 : Cmd) (o : Op) (i : Instr) (d0 d1 : Desk) l k ws gs bs, s.desk.tclkOff = false →
    (i = .matmul n 1 ∧ o = .matmul) ∨ (i = .conv2d n 1 ∧ o = .conv2d) ∨ (i = .attend n 1 ∧ o = .attend) ∨
      (i = .vectorOp n 1 ∧ o = .vectorOp) ∨ (i = .reduce n 1 ∧ o = .reduce) ∨
      (i = .rowBlockDone n ∧ opTensor o = true ∧ c.stage = .working) →
    (AtHand s n o c ∧ Untouched c ∧ (∀ r ∈ remoteOperands o c, addrOwn (envOf s) r.1 = true) ∧
      d0 = takeTiles s.desk c.tiles none ∧
      c2 = { beginWork s.desk c with out := List.replicate (keptLen o c) 0, asked := 1 }) ∨
    ((s.desk.sqs.at n).cur = some c ∧ pktOp c.pkt = some o ∧ c.stage = .working ∧ c.stop = none ∧ c.asked ≠ 0 ∧
      c.remote = [] ∧ d0 = s.desk ∧ c2 = c) →
    gs = groupBlocks o c → bs = nextBlocks gs c.done → c.done < unitCount gs →
    fetchKept (envOf s) d0 n o c2 = (d0, c3, none) →
    readOperands (envOf s) d0 n c3 (unitNeeds o c3 gs bs) = (d1, l, k) →
    (k = none → d1 = d0 →
      ws = (bs.flatMap fun b => b.2.rows.flatMap fun r =>
        rowWrites o c (blockOperands o c3 gs l b.1) r b.2.c0 (rowVals o c (blockOperands o c3 gs l b.1) r b.2.c0 b.2.c1).1) →
      (∀ w ∈ ws, PlainSpan s w.1 w.2.length) →
      ∃ t c', exec i s = .next t ∧ (t.desk.sqs.at n).cur = some c' ∧ c'.pkt = c.pkt ∧ c'.done = c.done + 1 ∧
        t.desk.mem.cells = afterWrites s.desk.mem.cells ws ∧
        (c'.accLong = true ↔ c.accLong = true ∨ ∃ b ∈ bs, ∃ r ∈ b.2.rows,
          (rowVals o c (blockOperands o c3 gs l b.1) r b.2.c0 b.2.c1).2 = true) ∧
        (c.done + 1 < unitCount gs → c'.stage = .working ∧ c'.stop = none) ∧
        (c.done + 1 = unitCount gs → c'.stage = .ended ∧ c'.status = stOk ∧
          c'.result.take 4 = leBytes 4 (blocksDone gs (c.done + 1))) ∧
        OnlyMemory { s.desk with tiles := t.desk.tiles } t.desk n ∧ OnlyDesk s t) ∧
    (∀ f, k = some f → d1.mem.cells = s.desk.mem.cells → ∃ t c', exec i s = .next t ∧
      (t.desk.sqs.at n).cur = some c' ∧ c'.stop = some f ∧ c'.done = c.done ∧ t.desk.mem.cells = s.desk.mem.cells)

/-- R215, R225 to R227: FENCE_SIGNAL with VALUE 0 raises its fence by 1 and with another to that value if it is greater; a fence never falls
and holds at its largest value; CLEAR_ERR clears ERR. FENCE_WAIT reports the value that released it. PATCH writes its data into
the window. A store whose packets and references are sound replaces the itinerary whole and names its owner; another leaves
it and is BAD_PACKET. A launch takes the place of the queue's command. -/
def Obligations.FencesAndItineraries : Prop :=
  ∀ (s : State) (n : Fin 64) (c : Cmd),
    (∀ f x, AtHand s n .fenceSignal c → f = fin 256 (field c.pkt 16 1) → x = s.desk.fences.at f →
      ∃ y, exec (.fenceSignal n) s = .next (settle { s with
          desk := withCur (withFence s.desk f y) n (workDone s.desk.now c stOk [] 0) }) ∧
        (field c.pkt 24 8 = 0 → y.value.toNat = min (x.value.toNat + 1) (2 ^ 64 - 1)) ∧
        (field c.pkt 24 8 ≠ 0 → field c.pkt 24 8 < 2 ^ 64 → y.value.toNat = max x.value.toNat (field c.pkt 24 8)) ∧
        x.value.toNat ≤ y.value.toNat ∧ y.err = (x.err && !(field c.pkt 17 1).testBit 0) ∧ y.hiLatch = x.hiLatch) ∧
    (AtHand s n .fenceWait c → exec (.fenceWait n) s = .next (settle { s with
      desk := withCur s.desk n (workDone s.desk.now c stOk (leBytes 8 c.done) 0) })) ∧
    (AtHand s n .patch c → exec (.patch n) s = .next (settle { s with
      desk := withCur { s.desk with itins := s.desk.itins.upd (fin 256 (field c.pkt 16 1)) fun x => { x with
          window := spliceBytes x.window (field c.pkt 17 1) (slice c.pkt 24 (field c.pkt 18 1)) } } n
        (workDone s.desk.now c stOk [] 0) })) ∧
    (∀ ps rs, AtHand s n .itineraryStore c → Untouched c → PlainSpan s (field c.pkt 24 8) (128 * field c.pkt 18 2) →
      (field c.pkt 20 2 ≠ 0 → PlainSpan s (field c.pkt 32 8) (8 * field c.pkt 20 2)) →
      ps = piecesOf 128 (field c.pkt 18 2)
        (cellReads s.desk.mem.cells (addrDevice (field c.pkt 24 8)) (128 * field c.pkt 18 2)) →
      rs = piecesOf 8 (field c.pkt 20 2)
        (cellReads s.desk.mem.cells (addrDevice (field c.pkt 32 8)) (8 * field c.pkt 20 2)) →
      (ps.all storable = true → rs.all (refOk ps) = true → exec (.itineraryStore n) s = .next (settle { s with
        desk := withCur { s.desk with itins := s.desk.itins.upd (fin 256 (field c.pkt 16 1)) fun x => { x with
            packets := ps, refs := rs.map refOf, owner := some (queuePort n) } } n
          { workDone s.desk.now c stOk [] 0 with asked := 1 } })) ∧
      (ps.all storable = false ∨ rs.all (refOk ps) = false → exec (.itineraryStore n) s = .next (settle { s with
        desk := withCur s.desk n { workDone s.desk.now c stBad [] 0 with asked := 1 } }))) ∧
    (∀ k, AtHand s n .itineraryLaunch c → c.itin = some k → (s.desk.itins.at k).packets ≠ [] →
      exec (.itineraryLaunch n) s = .next (settle { s with
        desk := { s.desk with sqs := s.desk.sqs.upd n fun q => { q with
          cur := none, launch := some ⟨beginWork s.desk c, 0, 0, stOk, c.dispatchedAt⟩ } } }))

/-- R200, R231, R232, R235: QUERY and LEDGER_MARK end at once; what they report and record is made at their commit point. An ABORT that is
decoded finds its targets: with none it completes ALREADY_DONE; a command under way in another queue is told to stop, and the
ABORT waits for it.
R100, R227, R391, R393: with no reader before it and four words in the pool, SEED_DRAW takes them as one step and reports them, in its
window or at its destination; with fewer it waits behind the other readers; while the source is out of service it ends
RNG_UNAVAILABLE and takes none. -/
def Obligations.QueriesMarksAbortsAndSeeds : Prop :=
  (∀ (s : State) (n : Fin 64),
      (∀ c, (AtHand s n .query c → exec (.query n) s = .next (settle { s with
          desk := withCur s.desk n (workDone s.desk.now c stOk [] 0) })) ∧
        (AtHand s n .ledgerMark c → exec (.ledgerMark n) s = .next (settle { s with
          desk := withCur s.desk n (workDone s.desk.now c stOk [] 0) }))) ∧
      (∀ i x p m ts, Awake s → (s.desk.sqs.at n).enable = true → i ∈ freshIndices s.desk n →
        p = ringPacket s.desk (s.desk.sqs.at n) i → pktOp p = some .abort →
        isReady s.desk n ⟨p, i, none, visibleAt (s.desk.sqs.at n) i s.desk.now⟩ = true →
        earlyChecks s.desk ⟨p, i, none, visibleAt (s.desk.sqs.at n) i s.desk.now⟩ = none →
        lateChecks (envOf s) s.desk n .abort p [] = none → m = pktSlot p →
        x = dispatchedCmd (envOf s) s.desk n ⟨p, i, none, visibleAt (s.desk.sqs.at n) i s.desk.now⟩ .abort [] →
        ts = (abortTargets s.desk p).filter (fun j => !(m == n && j == i)) →
        (ts = [] → exec (.abort n i) s = .next (settle { s with
          desk := commitCmd s.desk n { x with
            stage := .ended, began := true, status := stDone
            result := leBytes 4 m.val ++ leBytes 4 0 ++ leBytes 4 0xFF ++ leBytes 4 0 ++ List.replicate 12 0 } })) ∧
        (∀ j r, ts = [j] → m ≠ n → (s.desk.sqs.at m).launch = none → (s.desk.sqs.at m).cur = some r → r.index = j →
          r.stage = .working → r.stop = none → (∀ w ∈ s.desk.aborts, w.sq ≠ m ∨ w.cmd.index ≠ j) →
          (∀ k, (s.desk.slots.at k).owner = none → (s.desk.slots.at k).state = .empty) → ∃ t w, exec (.abort n i) s = .next t ∧
            (t.desk.sqs.at m).cur = some { r with stop := some .abort, stopAt := s.desk.now } ∧
            t.desk.aborts = s.desk.aborts ++ [w] ∧ w.sq = n ∧ w.target = m ∧ w.oldest = j ∧ w.left = [j] ∧
            t.desk.cqs = s.desk.cqs ∧ t.desk.fences = s.desk.fences ∧ t.desk.slots = s.desk.slots ∧
            t.desk.mem = s.desk.mem))) ∧
  (∀ (s : State) (n : Fin 64) (c : Cmd) (bs : Bytes), AtHand s n .seedDraw c →
      bs = (s.trng.pool.take 4).flatMap (fun w => leBytes 4 w.toNat) →
      (s.trng.state = .ready ∨ s.trng.state = .startup → s.trng.waiting = [] → 4 ≤ s.trng.pool.length →
        ((field c.pkt 16 1).testBit 0 = true → exec (.seedDraw n) s = .next (settle { s with
          trng := { s.trng with pool := s.trng.pool.drop 4 }
          desk := withCur { s.desk with itins := s.desk.itins.upd (fin 256 (field c.pkt 18 1)) fun x => { x with
              window := spliceBytes x.window (field c.pkt 19 1) bs } } n (workDone s.desk.now c stOk bs 0) })) ∧
        ((field c.pkt 16 1).testBit 0 = false → PlainSpan s (field c.pkt 24 8) 16 → ∃ t c', exec (.seedDraw n) s = .next t ∧
          t.trng = { s.trng with pool := s.trng.pool.drop 4 } ∧ (t.desk.sqs.at n).cur = some c' ∧ EndedAs c' c stOk ∧
          c'.result = slice bs 0 28 ∧
          StoredAt s.desk t.desk (addrDevice (field c.pkt 24 8)) 16 (fun i => bs.getD i 0) ∧
          OnlyMemory s.desk t.desk n)) ∧
      (s.trng.state = .ready ∨ s.trng.state = .startup → s.trng.waiting ≠ [] ∨ s.trng.pool.length < 4 →
        (∀ r ∈ s.trng.waiting, r ≠ .seed n) → exec (.seedDraw n) s = .next (settle { s with
          trng := { s.trng with waiting := s.trng.waiting ++ [.seed n] }
          desk := withCur s.desk n (beginWork s.desk c) })) ∧
      (s.trng.state = .requal ∨ s.trng.state = .off → exec (.seedDraw n) s = .next (settle { s with
        desk := withCur s.desk n (workDone s.desk.now c stRng [] 0) })))

/-- R372, R371, R377, R380: a piece of an image goes to the staging slot of its type, at its offset. IMAGE_INSTALL puts an image that passes
its checks into the slot that is not active, which becomes pending, and records the first check that fails otherwise. A
module whose alias key serves signs its report with the next leaf and then writes it; one without a key reports result 1.
A transition whose token holds wipes the secure SRAM and changes the state; another is BAD_PACKET. -/
def Obligations.ManagementCommands : Prop :=
  ∀ (s : State) (n : Fin 64) (c : Cmd), Untouched c →
    (∀ x k, AtHand s n .imageStage c → PlainSpan s (field c.pkt 24 8) (field c.pkt 40 8) → 0 < field c.pkt 40 8 →
      x = cellReads s.desk.mem.cells (addrDevice (field c.pkt 24 8)) (field c.pkt 40 8) →
      stageSlotOf s.sec (field c.pkt 32 8) x = some k → exec (.imageStage n) s = .next (settle { s with
        desk := withCur s.desk n { workDone s.desk.now c stOk [] 0 with asked := 1 }
        sec := { s.sec with
          stageSlot := k, staging := s.sec.staging.upd k fun b => placeBytes b (field c.pkt 32 8) x } })) ∧
    (∀ k b f code, AtHand s n .imageInstall c → k = field c.pkt 16 1 → k ≤ 1 → b = s.sec.staging.at (fin 2 k) →
      f = (if k = 0 then s.sec.fd else s.sec.np) →
      code = imageVerdictCode s.fuses.vroot s.sec.lifecycle f.rollback (k + 1) b →
      ∃ t c', exec (.imageInstall n) s = .next t ∧ (t.desk.sqs.at n).cur = some c' ∧
        EndedAs c' c (if code = 1 then stOk else stBad) ∧ t.sec.fwResult = BitVec.ofNat 8 code ∧
        t.sec.fwImage = BitVec.ofNat 2 k ∧
        (if k = 0 then t.sec.fd else t.sec.np) = (if code = 1 then { f with
            slots := f.slots.put (f.active + 1) ⟨b.take (imageLen b), false⟩
            pending := some (f.active + 1)
            attempts := 0
            fails := 0 } else f) ∧
        (if k = 0 then t.sec.np else t.sec.fd) = (if k = 0 then s.sec.np else s.sec.fd) ∧ t.sec.staging = s.sec.staging ∧
        OnlyMemory s.desk t.desk n) ∧
    (∀ k i msg, AtHand s n .attest c → s.sec.attKey = some k → aliasServes s.sec = true → s.sec.genWanted = false →
      i = s.sec.attLeaf → msg = attBody s 0 (slice c.pkt 32 32) ++ slice k.cert 0 2692 →
      ∃ t c', exec (.attest n) s = .next t ∧ (t.desk.sqs.at n).cur = some c' ∧ c'.stage = .working ∧ c'.done = 2 ∧
        c'.out = msg ++ slice (Config.xmssSign k.seed i msg) 0 2692 ∧ t.sec.attLeaf = i + 1 ∧
        t.sec.attKey = s.sec.attKey ∧ t.desk.mem = s.desk.mem) ∧
    (AtHand s n .attest c → s.sec.attKey = none → certifiable s.sec = false →
      PlainSpan s (field c.pkt 24 8) (attBody s 1 (slice c.pkt 32 32)).length →
      ∃ t c', exec (.attest n) s = .next t ∧ (t.desk.sqs.at n).cur = some c' ∧ EndedAs c' c stOk ∧ t.sec = s.sec ∧
        StoredAt s.desk t.desk (addrDevice (field c.pkt 24 8)) (attBody s 1 (slice c.pkt 32 32)).length
          (fun j => (attBody s 1 (slice c.pkt 32 32)).getD j 0)) ∧
    (∀ c1, (s.desk.sqs.at n).cur = some c1 → pktOp c1.pkt = some .attest → c1.stage = .working → c1.stop = none →
      c1.done = 2 → PlainSpan s (field c1.pkt 24 8) c1.out.length →
      ∃ t c', exec (.attest n) s = .next t ∧ (t.desk.sqs.at n).cur = some c' ∧ c'.stage = .ended ∧ c'.status = stOk ∧
        t.sec = s.sec ∧ StoredAt s.desk t.desk (addrDevice (field c1.pkt 24 8)) c1.out.length (fun j => c1.out.getD j 0)) ∧
    (∀ tok l, AtHand s n .lifecycle c → PlainSpan s (field c.pkt 24 8) 2884 →
      tok = cellReads s.desk.mem.cells (addrDevice (field c.pkt 24 8)) 2884 → l = lcOf (field c.pkt 16 1) →
      (s.sec.lifecycle = .blank ∧ l = .provisioned → s.sec.drawn = [] ∧ s.trng.state = .ready ∧ s.trng.waiting = [] ∧
        24 ≤ s.trng.pool.length) →
      ∃ t c', exec (.lifecycle n) s = .next t ∧ (t.desk.sqs.at n).cur = some c' ∧
        (if tokenOk s.fuses s.sec (field c.pkt 16 1) tok = true then
          EndedAs c' c stOk ∧ t.sec.lifecycle = l ∧ t.sec.lcCount = s.sec.lcCount + 1 ∧ t.sec.sram = [] ∧
            t.sec.wipeLc = true ∧ (l = .retired → t.sec.idKey = none ∧ t.sec.attKey = none) ∧
            (s.sec.lifecycle = .blank ∧ l = .provisioned →
              t.sec.idKey = some ((s.trng.pool.take 24).flatMap fun w => leBytes 4 w.toNat) ∧ t.sec.idLeaf = 0 ∧
              t.trng = { s.trng with pool := s.trng.pool.drop 24 })
        else EndedAs c' c stBad ∧ t.sec = s.sec))

/-! ## Front Desk's own events -/

/-- R206, R219, R220, R222, Table 9.22: the round dispatches the head of the first queue after RR that can start, and RR names it: a packet of
Front Desk's own opcodes that passes every check becomes the queue's command with GCTL sampled, and a COPY or a FILL takes its allotment as
well; one with a bad header, an unknown opcode or a deadline in the past completes with that status and does not run. With no queue that
can start nothing starts. A preload dispatches the next packet behind the command under way. -/
def Obligations.HeadsAreDispatched : Prop :=
  ∀ s : State, Awake s →
    (∀ (n : Fin 64) d0 cand, firstStart (envOf s) (roundRobin s.desk) s.desk = (d0, some n) →
      (d0.sqs.at n).cur = none → nextCand d0 n = some cand → isReady d0 n cand = true →
      (∀ o, pktOp cand.pkt = some o → o ≠ .abort → earlyChecks d0 cand = none →
        lateChecks (envOf s) d0 n o cand.pkt [] = none → (d0.sqs.at n).fetch = [] → (d0.sqs.at n).fetchErr = false →
        (opTile o = false → opMgmt o = false → dispatchReads d0 o cand.pkt 0 [] = [] → dispatchReads d0 o cand.pkt 1 [] = [] →
          ∃ t c', exec (.dispatch none) s = .next t ∧ (t.desk.sqs.at n).cur = some c' ∧ t.desk.rr = n ∧
            c'.pkt = cand.pkt ∧ c'.index = cand.index ∧ c'.stage = .dispatched ∧ c'.stop = none ∧ c'.began = false ∧
            c'.dispatchedAt = d0.now ∧ c'.visibleAt = cand.visible ∧
            c'.strict = (d0.gctl.detStrict || pktStrict cand.pkt) ∧ c'.fixed = d0.gctl.fixedTiming ∧
            c'.ckpt = d0.gctl.ckpt.toNat ∧ (opSlotWriter o = false → t.desk.slots = d0.slots) ∧
            (opSlotWriter o = true → t.desk.slots = d0.slots.put (pktSlot cand.pkt)
              (openSlot (queuePort n) (d0.slots.at (pktSlot cand.pkt)))) ∧ t.desk.mem = d0.mem ∧
            t.desk.cqs = d0.cqs ∧ (∀ i, i ≠ n → t.desk.sqs.at i = d0.sqs.at i) ∧ OnlyDesk s t) ∧
        (∀ tiles, o = .copy ∨ o = .fill → tilesBarred d0 = false →
          allotFor s.fuses.grade d0 n none (max 1 (d0.sqs.at n).allot.length) = some tiles →
          ∃ t c', exec (.dispatch none) s = .next t ∧ (t.desk.sqs.at n).cur = some c' ∧ t.desk.rr = n ∧
            c'.pkt = cand.pkt ∧ c'.stage = .dispatched ∧ c'.tiles = tiles ∧ (t.desk.sqs.at n).allot = tiles)) ∧
      (∀ st, pktOp cand.pkt ≠ some .abort → (pktOp cand.pkt = none ∧ st = stBad ∨
          (∃ o, pktOp cand.pkt = some o) ∧ earlyChecks d0 cand = some st) →
        exec (.dispatch none) s = .next (settle { s with
          desk := { failPacket d0 n (sampledCmd (envOf s) d0 n cand) st false with rr := n } })) ∧
      (∀ d, examine (envOf s) d0 n = .starts d → exec (.dispatch none) s = .next (settle { s with
        desk := { d with rr := n } }))) ∧
    (∀ d, firstStart (envOf s) (roundRobin s.desk) s.desk = (d, none) ∨
        (∃ n, firstStart (envOf s) (roundRobin s.desk) s.desk = (d, some n) ∧ (d.sqs.at n).cur ≠ none) →
      exec (.dispatch none) s = .next (settle { s with desk := d })) ∧
    (∀ (n : Fin 64) run cand ro o, (s.desk.sqs.at n).cur = some run → (s.desk.sqs.at n).pre = none →
      (s.desk.sqs.at n).launch = none → nextCand s.desk n = some cand → pktOp run.pkt = some ro →
      pktOp cand.pkt = some o → run.launch = none → run.stage = .working → ro ≠ .itineraryLaunch →
      o ≠ .itineraryLaunch → o ≠ .abort → opTile o = false → opMgmt o = false → opSlotWriter o = false →
      isReady s.desk n cand = true → slotClash o cand.pkt ro run.pkt = false → earlyChecks s.desk cand = none →
      dispatchReads s.desk o cand.pkt 0 [] = [] → dispatchReads s.desk o cand.pkt 1 [] = [] →
      lateChecks (envOf s) s.desk n o cand.pkt [] = none →
      (s.desk.sqs.at n).fetch = [] → (s.desk.sqs.at n).fetchErr = false →
      ∃ t c', exec (.dispatch (some n)) s = .next t ∧ (t.desk.sqs.at n).pre = some c' ∧ c'.stage = .preloaded ∧
        c'.pkt = cand.pkt ∧ (t.desk.sqs.at n).cur = some run ∧ t.desk.rr = s.desk.rr ∧ t.desk.slots = s.desk.slots ∧
        ∀ i, i ≠ n → t.desk.sqs.at i = s.desk.sqs.at i)

/-- R199, R200, R206 to R208, R216, R217, R232: the commit point of a command of its ring, with nothing that waits on it: its fence goes up by
1, with ERR for a status that is not OK, OK_PLATEAU or ALREADY_DONE; the head passes its index; its entry is written at the
tail of its completion ring with the queue's PHASE, which toggles as the ring wraps; and a run, a commit or a mark that ended OK makes its Ledger
record. A command whose work or writes are not done has no commit point. No partner waits to arrive or to leave meanwhile (R278, R279). -/
def Obligations.CommitPointsComplete : Prop :=
  ∀ (s : State) (n : Fin 64) (c : Cmd) (k : Fin 64) (q : Cq) (p : Port), Awake s → (s.desk.sqs.at n).cur = some c →
    k = fin 64 (s.desk.sqs.at n).cq.toNat → q = s.desk.cqs.at k → p = s.desk.ports.at (queuePort k) →
    PortsQuiet s.desk →
    (c.stage ≠ .ended ∨ c.remote ≠ [] →
      exec (.commitPoint n) s = .next (settle s)) ∧
    (∀ o, c.stage = .ended → c.remote = [] → c.launch = none → pktOp c.pkt = some o → o ≠ .query → opNamesSlot o = false →
      (s.desk.sqs.at n).early = [] → (s.desk.sqs.at n).head = c.index → (s.desk.sqs.at n).pre = none →
      (s.desk.sqs.at n).launch = none → s.desk.aborts = [] →
      q.enable = true → cqFull q = false → q.waiting = [] → q.report = false → q.irq = false →
      p.guest.state = .bound → transferOk p true (q.base.toNat + 64 * q.tail.toNat) 64 = true → c.status ≠ stTiming →
      ∃ t, exec (.commitPoint n) s = .next t ∧ (t.desk.sqs.at n).cur = none ∧
        (t.desk.sqs.at n).head = BitVec.ofNat 12 ((c.index.toNat + 1) % 2 ^ (s.desk.sqs.at n).log2.toNat) ∧
        (∀ f, t.desk.fences.at f = (if pktSignal c.pkt = true ∧ f = fin 256 (pktSignalFence c.pkt) then
          { s.desk.fences.at f with
            value := BitVec.ofNat 64 (min ((s.desk.fences.at f).value.toNat + 1) (2 ^ 64 - 1))
            err := (s.desk.fences.at f).err || statusErr c.status } else s.desk.fences.at f)) ∧
        (∃ e, e.length = 64 ∧ e.getD 0 0 = BitVec.ofNat 8 c.status ∧ e.getD 1 0 = BitVec.ofNat 8 c.stopReason ∧
          e.getD 2 0 = BitVec.ofNat 8 c.limit ∧ (e.getD 3 0).getLsbD 0 = q.phase ∧ e.getD 4 0 = BitVec.ofNat 8 n.val ∧
          slice e 8 2 = leBytes 2 (pktQtag c.pkt) ∧ slice e 10 2 = [0, 0] ∧ slice e 12 4 = leBytes 4 (pktPseq c.pkt) ∧
          slice e 16 8 = leBytes 8 c.digest.toNat ∧ slice e 36 28 = slice c.result 0 28 ∧
          ∀ i, i < 64 → cellRead (t.desk.ports.at (queuePort k)).host (q.base.toNat + 64 * q.tail.toNat + i) = e.getD i 0) ∧
        (t.desk.cqs.at k).tail = BitVec.ofNat 12 ((q.tail.toNat + 1) % 2 ^ q.log2.toNat) ∧
        (t.desk.cqs.at k).phase = (if (q.tail.toNat + 1) % 2 ^ q.log2.toNat = 0 then !q.phase else q.phase) ∧
        t.desk.ledger.head = s.desk.ledger.head + (if o = .ledgerMark ∧ c.status = stOk then 1 else 0) ∧
        t.desk.errs.dataLost = (if c.status = stDataLost then satAdd 32 s.desk.errs.dataLost 1 else s.desk.errs.dataLost) ∧
        t.desk.mem = s.desk.mem) ∧
    (∀ o, c.stage = .ended → c.remote = [] → c.launch = none → pktOp c.pkt = some o →
      (opRun o = true ∨ o = .commitProblem ∨ o = .coupleOut) → c.status ≠ stTiming → s.desk.aborts = [] →
      (s.desk.sqs.at n).launch = none →
      ∃ t, exec (.commitPoint n) s = .next t ∧ t.desk.ledger.head = s.desk.ledger.head + 1 ∧
        (t.desk.ledger.ring.at (fin 256 s.desk.ledger.head)).getD 8 0 = (if opRun o = true then 1 else 3) ∧
        (t.desk.ledger.ring.at (fin 256 s.desk.ledger.head)).getD 9 0 = BitVec.ofNat 8 (pktSlot c.pkt).val)

/-- R223, R80, R415, R191, R195, R232: a slice that has run out tells its command to stop when another queue's ready command needs its tiles,
or the module drains, and a command inside its timed region is exempt; at its preemption point the command gives up its allotment; it goes
on, on tiles that may be others, when its turn in the round comes. A terminal stop ends a transfer with its bytes written, and a run with
a stop waypoint; a run that SUSPEND stops leaves its record. No command stands still for a trip, and no tile waits to be retired. -/
def Obligations.StopsAndSlices : Prop :=
  ∀ (s : State) (n : Fin 64) (c : Cmd) (o : Op), Awake s → (s.desk.sqs.at n).cur = some c → pktOp c.pkt = some o →
    (opSliced o = true → c.stage = .working → c.stop = none → inTimed c = false →
      c.resumedAt + 100000 * max 1 (min 1000 s.desk.slice.toNat) ≤ s.desk.now →
      s.desk.drain = true ∨ (s.desk.tripHold = false ∧ tilesNeeded (envOf s) s.desk n = true) →
      exec (.timeSliceExpiry n) s = .next (settle { s with
        desk := withCur s.desk n { c with stop := some .slice, stopAt := s.desk.now } })) ∧
    (inTimed c = true ∨ s.desk.now < c.resumedAt + 100000 * max 1 (min 1000 s.desk.slice.toNat) →
      exec (.timeSliceExpiry n) s = .next (settle s)) ∧
    (∀ d0 tiles, firstStart (envOf s) (roundRobin s.desk) s.desk = (d0, some n) → (d0.sqs.at n).cur = some c →
      resumeTiles (envOf s) d0 n c = some tiles →
      (∃ t c', exec .timeSliceResume s = .next t ∧ (t.desk.sqs.at n).cur = some c' ∧ c'.pkt = c.pkt ∧ c'.tiles = tiles ∧
        c'.stage = (if c.began = true then .working else .dispatched) ∧ (t.desk.sqs.at n).allot = tiles ∧ t.desk.rr = n) ∧
      (∀ d, opNamesSlot o = false → d = takeTiles d0 tiles none → exec .timeSliceResume s = .next (settle { s with
        desk := { d with
          sqs := d.sqs.upd n fun q => { q with
            allot := tiles
            cur := some { c with
              tiles := tiles, stage := if c.began then .working else .dispatched, resumedAt := d0.now
              progressAt := c.progressAt + (d0.now - c.stopAt) } }
          deadlockSince := none
          rr := n } }))) ∧
    (s.desk.tiles.due = [] → stillOf s.desk c = false →
      (c.stop = some .slice → c.stage = .working → atPoint s.desk c = true →
        (∃ t, exec (.preemptionPointStop n) s = .next t ∧ (t.desk.sqs.at n).allot = [] ∧
          (t.desk.sqs.at n).cur = some { c with stage := .sliced, stop := none, stopAt := s.desk.now, kept := [] }) ∧
        (opRun o = false → exec (.preemptionPointStop n) s = .next (settle { s with
          desk := { s.desk with sqs := s.desk.sqs.upd n fun q => { q with
            allot := [], cur := some { c with stage := .sliced, stop := none, stopAt := s.desk.now, kept := [] } } } }))) ∧
      (c.stop = some .abort → c.stage = .working ∨ c.stage = .sliced → o = .copy ∨ o = .fill →
        ∃ t c', exec (.preemptionPointStop n) s = .next t ∧ (t.desk.sqs.at n).cur = some c' ∧ c'.stage = .ended ∧
          c'.status = stAborted ∧ c'.result = slice (leBytes 8 c.done) 0 28 ∧ t.desk.mem = s.desk.mem) ∧
      (∀ g x k, x = s.desk.slots.at (pktSlot c.pkt) → x.image = some g → opRun o = true → c.began = true →
        c.stop = some k → (k = .abort ∨ (∃ m, k = .suspend m)) → c.stage = .working → c.fault = false →
        midPhase g x = false → x.sweepDue = false → x.ann.opcode ≠ 0x18 →
        (runParams x.ann.opcode x.ann.params).wpAddr = 0 ∨ (runParams x.ann.opcode x.ann.params).wpSlots = 0 →
        ∃ t y c', exec (.preemptionPointStop n) s = .next t ∧ y = t.desk.slots.at (pktSlot c.pkt) ∧
          (t.desk.sqs.at n).cur = some c' ∧ c'.stage = .ended ∧ c'.stopWp = true ∧
          c'.status = (if k = .abort then stAborted else stOk) ∧ c'.stopReason = (if k = .abort then 0 else 4) ∧
          y.buffers = (x.ann :: x.buffers).take 2 ∧ y.ann = x.ann ∧
          y.susp = (if k = .abort then x.susp else some ⟨x.ann, c.sched, x.gen, x.piNext, x.rxDone, x.betasPrev⟩) ∧
          t.desk.ledger.head = s.desk.ledger.head + 1 ∧ t.desk.mem = s.desk.mem)) ∧
    (c.stop = none ∨ c.stage = .ended → s.desk.tiles.due = [] → exec (.preemptionPointStop n) s = .next (settle s))

/-- R229, R230, R233: a head that waits for a fence or for tiles when its deadline has passed completes EXPIRED; a running tile command with no
progress for SQn_HANG ms is told to stop, unless SQn_HANG is 0, and an engine still at it 10 ms later is reset and stops; when the count
of a fence deadlock has run out the head of the lowest blocked queue completes FENCE_DEADLOCK, and below IDLE the module wakes
first with cause 10. None of these does anything before its time. -/
def Obligations.LimitsExpire : Prop :=
  ∀ (s : State) (n : Fin 64), Awake s →
    (∀ cand, (s.desk.sqs.at n).cur = none → nextCand s.desk n = some cand → pktDeadlineValid cand.pkt = true →
      (pktDeadline cand.pkt < s.desk.now → fenceBlocked s.desk n = true ∨ waitsTiles (envOf s) s.desk n cand = true →
        exec (.deadlineExpiry n) s = .next (settle { s with
          desk := failPacket s.desk n
            (freshCmd s.desk (s.desk.sqs.at n) cand.pkt cand.index cand.launch cand.visible) stExpired false })) ∧
      (s.desk.now ≤ pktDeadline cand.pkt → exec (.deadlineExpiry n) s = .next (settle s))) ∧
    (∀ c o, (s.desk.sqs.at n).cur = some c → pktOp c.pkt = some o →
      (opTile o = true → c.stage = .working → c.stop = none → (s.desk.sqs.at n).hang ≠ 0 →
        c.progressAt + 1000000 * (s.desk.sqs.at n).hang.toNat ≤ s.desk.now →
        exec (.hangTimeout n) s = .next (settle { s with
          desk := withCur s.desk n { c with stop := some .hang, stopAt := s.desk.now } })) ∧
      ((s.desk.sqs.at n).hang = 0 ∨ s.desk.now < c.progressAt + 1000000 * (s.desk.sqs.at n).hang.toNat →
        exec (.hangTimeout n) s = .next (settle s)) ∧
      (s.desk.tiles.due = [] → c.stop = some .hang → c.stage = .working → c.stopAt + 10000000 ≤ s.desk.now →
        o = .copy ∨ o = .fill →
        ∃ t c', exec (.engineStopTimeout n) s = .next t ∧ (t.desk.sqs.at n).cur = some c' ∧ c'.stage = .ended ∧
          c'.status = stHung ∧ c'.result = slice (leBytes 8 c.done) 0 28) ∧
      (s.desk.tiles.due = [] → s.desk.now < c.stopAt + 10000000 ∨ c.stop = some .slice ∨ (∃ m, c.stop = some (.suspend m)) →
        exec (.engineStopTimeout n) s = .next (settle s))) ∧
    (∀ cand, deadlockDue s.desk = true → firstBlocked s.desk = some n → nextCand s.desk n = some cand →
      exec .fenceDeadlockExpiry s = .next (settle { s with
        desk := failPacket s.desk n
          (freshCmd s.desk (s.desk.sqs.at n) cand.pkt cand.index cand.launch cand.visible) stDeadlock false })) ∧
    (∀ u : State, u.elec.life = .running → u.np.state ≠ .active → u.np.state ≠ .idle → u.np.waking = false →
      deadlockDue u.desk = true → ∃ t, exec .fenceDeadlockExpiry u = .next t ∧
        t.np.waking = true ∧ t.np.wakeCause = 10 ∧ t.np.state = u.np.state ∧ t.desk.sqs = u.desk.sqs) ∧
    (deadlockDue s.desk = false → exec .fenceDeadlockExpiry s = .next s)
end

