-- ==== Sys2Proof/Laws/Bytes.lean ====
section
/-!
SUPPORT. Little-endian bytes read back as the value they were made of (R12), and the CRC of a flit (R285).
-/
namespace Sys2Proof.Machine

theorem le_length (n v : Nat) : (leBytes n v).length = n := by
  induction n generalizing v with
  | zero => rfl
  | succ n ih => simp [leBytes, ih]

theorem le_value (n v : Nat) (h : v < 256 ^ n) : leNat (leBytes n v) = v := by
  induction n generalizing v with
  | zero => simp at h; simp [leBytes, leNat, h]
  | succ n ih =>
    have : v / 256 < 256 ^ n := Nat.div_lt_of_lt_mul (by rw [Nat.pow_succ] at h; omega)
    simp only [leBytes, leNat, ih _ this, BitVec.toNat_ofNat]
    omega

theorem slice_length (b : Bytes) (o n : Nat) : (slice b o n).length = n := by
  simp only [slice, List.length_append, List.length_take, List.length_drop, List.length_replicate]
  omega

/-- A flit is 256 bytes (R284). -/
theorem flit_length (t c : Nat) (f l : Bool) (s a k n : Nat) (b : Bytes) : (flitBytes t c f l s a k n b).length = 256 := by
  simp only [flitBytes, List.length_append, le_length, slice_length]

/-- A flit ends in the CRC of the rest, and a flit that ends otherwise is bad. -/
theorem crc_tells (b : Bytes) (x : Word) (h : b.length = 252) :
    flitGood (b ++ leBytes 4 x.toNat) = decide (x = crc32 b) := by
  have hx : x.toNat < 256 ^ 4 := by have := x.isLt; omega
  have hd : (b ++ leBytes 4 x.toNat).drop 252 = leBytes 4 x.toNat := by rw [← h]; simp
  have ht : (b ++ leBytes 4 x.toNat).take 252 = b := by rw [← h]; simp
  have hl : (leBytes 4 x.toNat).take 4 = leBytes 4 x.toNat := List.take_of_length_le (by simp [le_length])
  simp only [flitGood, field, hd, ht, hl, le_value _ _ hx, List.length_append, h, le_length]
  by_cases e : x = crc32 b
  · simp [e]
  · simp [e, BitVec.toNat_inj]

end Sys2Proof.Machine
end

