-- ==== Sys2Proof/Laws/State.lean ====
section
/-!
SUPPORT. What each named update of the state leaves alone: one lemma per field, true by computation, so that no proof
unfolds a record update. Also reads of a table after a write.
-/
namespace Sys2Proof.Machine

/-! ## Tables -/

theorem Tab.at_put_same {n : Nat} {α : Type} (t : Tab n α) (i : Fin n) (x : α) : (t.put i x).at i = x := by
  simp [Tab.put, Tab.at]

theorem Tab.at_put_ne {n : Nat} {α : Type} (t : Tab n α) (i j : Fin n) (x : α) (h : j ≠ i) :
    (t.put i x).at j = t.at j := by
  have h' : i.val ≠ j.val := fun e => h (Fin.ext e.symm)
  simp [Tab.put, Tab.at, Vector.getElem_set_ne, h']

theorem Tab.at_upd_same {n : Nat} {α : Type} (t : Tab n α) (i : Fin n) (f : α → α) :
    (t.upd i f).at i = f (t.at i) := Tab.at_put_same t i _

theorem Tab.at_upd_ne {n : Nat} {α : Type} (t : Tab n α) (i j : Fin n) (f : α → α) (h : j ≠ i) :
    (t.upd i f).at j = t.at j := Tab.at_put_ne t i j _ h

@[simp] theorem Tab.at_all {n : Nat} {α : Type} (x : α) (i : Fin n) : (Tab.all n x).at i = x := by
  simp [Tab.all, Tab.at]

@[simp] theorem Tab.at_gen {n : Nat} {α : Type} (f : Nat → α) (i : Fin n) : (Tab.gen n f).at i = f i.val := by
  simp [Tab.gen, Tab.at]

@[simp] theorem Tab.at_map {n : Nat} {α β : Type} (t : Tab n α) (f : α → β) (i : Fin n) :
    Tab.at (Vector.map f t) i = f (t.at i) := by
  simp [Tab.at]

/-- A table is its entries. -/
theorem Tab.ext_at {n : Nat} {α : Type} {t u : Tab n α} (h : ∀ i, t.at i = u.at i) : t = u :=
  Vector.ext fun i hi => h ⟨i, hi⟩

/-! ## The command of a queue -/

@[simp] theorem setCur_now (d : Desk) (n : Fin 64) (c : Option Cmd) : (setCur d n c).now = d.now := rfl
@[simp] theorem setCur_nowHi (d : Desk) (n : Fin 64) (c : Option Cmd) : (setCur d n c).nowHi = d.nowHi := rfl
@[simp] theorem setCur_freeCtr (d : Desk) (n : Fin 64) (c : Option Cmd) : (setCur d n c).freeCtr = d.freeCtr := rfl
@[simp] theorem setCur_ring (d : Desk) (n : Fin 64) (c : Option Cmd) : (setCur d n c).ring = d.ring := rfl
@[simp] theorem setCur_cqs (d : Desk) (n : Fin 64) (c : Option Cmd) : (setCur d n c).cqs = d.cqs := rfl
@[simp] theorem setCur_rr (d : Desk) (n : Fin 64) (c : Option Cmd) : (setCur d n c).rr = d.rr := rfl
@[simp] theorem setCur_slice (d : Desk) (n : Fin 64) (c : Option Cmd) : (setCur d n c).slice = d.slice := rfl
@[simp] theorem setCur_drain (d : Desk) (n : Fin 64) (c : Option Cmd) : (setCur d n c).drain = d.drain := rfl
@[simp] theorem setCur_fences (d : Desk) (n : Fin 64) (c : Option Cmd) : (setCur d n c).fences = d.fences := rfl
@[simp] theorem setCur_deadlockSince (d : Desk) (n : Fin 64) (c : Option Cmd) : (setCur d n c).deadlockSince = d.deadlockSince := rfl
@[simp] theorem setCur_itins (d : Desk) (n : Fin 64) (c : Option Cmd) : (setCur d n c).itins = d.itins := rfl
@[simp] theorem setCur_slots (d : Desk) (n : Fin 64) (c : Option Cmd) : (setCur d n c).slots = d.slots := rfl
@[simp] theorem setCur_aborts (d : Desk) (n : Fin 64) (c : Option Cmd) : (setCur d n c).aborts = d.aborts := rfl
@[simp] theorem setCur_ledger (d : Desk) (n : Fin 64) (c : Option Cmd) : (setCur d n c).ledger = d.ledger := rfl
@[simp] theorem setCur_gctl (d : Desk) (n : Fin 64) (c : Option Cmd) : (setCur d n c).gctl = d.gctl := rfl
@[simp] theorem setCur_tiles (d : Desk) (n : Fin 64) (c : Option Cmd) : (setCur d n c).tiles = d.tiles := rfl
@[simp] theorem setCur_errs (d : Desk) (n : Fin 64) (c : Option Cmd) : (setCur d n c).errs = d.errs := rfl
@[simp] theorem setCur_mem (d : Desk) (n : Fin 64) (c : Option Cmd) : (setCur d n c).mem = d.mem := rfl
@[simp] theorem setCur_ports (d : Desk) (n : Fin 64) (c : Option Cmd) : (setCur d n c).ports = d.ports := rfl
@[simp] theorem setCur_bootId (d : Desk) (n : Fin 64) (c : Option Cmd) : (setCur d n c).bootId = d.bootId := rfl
@[simp] theorem setCur_tx (d : Desk) (n : Fin 64) (c : Option Cmd) : (setCur d n c).tx = d.tx := rfl
@[simp] theorem setCur_held (d : Desk) (n : Fin 64) (c : Option Cmd) : (setCur d n c).held = d.held := rfl
@[simp] theorem setCur_nextTag (d : Desk) (n : Fin 64) (c : Option Cmd) : (setCur d n c).nextTag = d.nextTag := rfl
@[simp] theorem setCur_out (d : Desk) (n : Fin 64) (c : Option Cmd) : (setCur d n c).out = d.out := rfl
@[simp] theorem setCur_tripHold (d : Desk) (n : Fin 64) (c : Option Cmd) : (setCur d n c).tripHold = d.tripHold := rfl
@[simp] theorem setCur_tripLatched (d : Desk) (n : Fin 64) (c : Option Cmd) : (setCur d n c).tripLatched = d.tripLatched := rfl
@[simp] theorem setCur_tclkOff (d : Desk) (n : Fin 64) (c : Option Cmd) : (setCur d n c).tclkOff = d.tclkOff := rfl
@[simp] theorem setCur_marks (d : Desk) (n : Fin 64) (c : Option Cmd) : (setCur d n c).marks = d.marks := rfl

/-! ## A slot -/

@[simp] theorem updSlot_now (d : Desk) (i : Fin 64) (f : Slot → Slot) : (updSlot d i f).now = d.now := rfl
@[simp] theorem updSlot_nowHi (d : Desk) (i : Fin 64) (f : Slot → Slot) : (updSlot d i f).nowHi = d.nowHi := rfl
@[simp] theorem updSlot_freeCtr (d : Desk) (i : Fin 64) (f : Slot → Slot) : (updSlot d i f).freeCtr = d.freeCtr := rfl
@[simp] theorem updSlot_ring (d : Desk) (i : Fin 64) (f : Slot → Slot) : (updSlot d i f).ring = d.ring := rfl
@[simp] theorem updSlot_sqs (d : Desk) (i : Fin 64) (f : Slot → Slot) : (updSlot d i f).sqs = d.sqs := rfl
@[simp] theorem updSlot_cqs (d : Desk) (i : Fin 64) (f : Slot → Slot) : (updSlot d i f).cqs = d.cqs := rfl
@[simp] theorem updSlot_rr (d : Desk) (i : Fin 64) (f : Slot → Slot) : (updSlot d i f).rr = d.rr := rfl
@[simp] theorem updSlot_slice (d : Desk) (i : Fin 64) (f : Slot → Slot) : (updSlot d i f).slice = d.slice := rfl
@[simp] theorem updSlot_drain (d : Desk) (i : Fin 64) (f : Slot → Slot) : (updSlot d i f).drain = d.drain := rfl
@[simp] theorem updSlot_fences (d : Desk) (i : Fin 64) (f : Slot → Slot) : (updSlot d i f).fences = d.fences := rfl
@[simp] theorem updSlot_deadlockSince (d : Desk) (i : Fin 64) (f : Slot → Slot) : (updSlot d i f).deadlockSince = d.deadlockSince := rfl
@[simp] theorem updSlot_itins (d : Desk) (i : Fin 64) (f : Slot → Slot) : (updSlot d i f).itins = d.itins := rfl
@[simp] theorem updSlot_aborts (d : Desk) (i : Fin 64) (f : Slot → Slot) : (updSlot d i f).aborts = d.aborts := rfl
@[simp] theorem updSlot_ledger (d : Desk) (i : Fin 64) (f : Slot → Slot) : (updSlot d i f).ledger = d.ledger := rfl
@[simp] theorem updSlot_gctl (d : Desk) (i : Fin 64) (f : Slot → Slot) : (updSlot d i f).gctl = d.gctl := rfl
@[simp] theorem updSlot_tiles (d : Desk) (i : Fin 64) (f : Slot → Slot) : (updSlot d i f).tiles = d.tiles := rfl
@[simp] theorem updSlot_errs (d : Desk) (i : Fin 64) (f : Slot → Slot) : (updSlot d i f).errs = d.errs := rfl
@[simp] theorem updSlot_mem (d : Desk) (i : Fin 64) (f : Slot → Slot) : (updSlot d i f).mem = d.mem := rfl
@[simp] theorem updSlot_ports (d : Desk) (i : Fin 64) (f : Slot → Slot) : (updSlot d i f).ports = d.ports := rfl
@[simp] theorem updSlot_bootId (d : Desk) (i : Fin 64) (f : Slot → Slot) : (updSlot d i f).bootId = d.bootId := rfl
@[simp] theorem updSlot_tx (d : Desk) (i : Fin 64) (f : Slot → Slot) : (updSlot d i f).tx = d.tx := rfl
@[simp] theorem updSlot_held (d : Desk) (i : Fin 64) (f : Slot → Slot) : (updSlot d i f).held = d.held := rfl
@[simp] theorem updSlot_nextTag (d : Desk) (i : Fin 64) (f : Slot → Slot) : (updSlot d i f).nextTag = d.nextTag := rfl
@[simp] theorem updSlot_out (d : Desk) (i : Fin 64) (f : Slot → Slot) : (updSlot d i f).out = d.out := rfl
@[simp] theorem updSlot_tripHold (d : Desk) (i : Fin 64) (f : Slot → Slot) : (updSlot d i f).tripHold = d.tripHold := rfl
@[simp] theorem updSlot_tripLatched (d : Desk) (i : Fin 64) (f : Slot → Slot) : (updSlot d i f).tripLatched = d.tripLatched := rfl
@[simp] theorem updSlot_tclkOff (d : Desk) (i : Fin 64) (f : Slot → Slot) : (updSlot d i f).tclkOff = d.tclkOff := rfl
@[simp] theorem updSlot_marks (d : Desk) (i : Fin 64) (f : Slot → Slot) : (updSlot d i f).marks = d.marks := rfl

/-! ## A port -/

@[simp] theorem updPort_now (d : Desk) (p : Fin 4) (f : Port → Port) : (updPort d p f).now = d.now := rfl
@[simp] theorem updPort_nowHi (d : Desk) (p : Fin 4) (f : Port → Port) : (updPort d p f).nowHi = d.nowHi := rfl
@[simp] theorem updPort_freeCtr (d : Desk) (p : Fin 4) (f : Port → Port) : (updPort d p f).freeCtr = d.freeCtr := rfl
@[simp] theorem updPort_ring (d : Desk) (p : Fin 4) (f : Port → Port) : (updPort d p f).ring = d.ring := rfl
@[simp] theorem updPort_sqs (d : Desk) (p : Fin 4) (f : Port → Port) : (updPort d p f).sqs = d.sqs := rfl
@[simp] theorem updPort_cqs (d : Desk) (p : Fin 4) (f : Port → Port) : (updPort d p f).cqs = d.cqs := rfl
@[simp] theorem updPort_rr (d : Desk) (p : Fin 4) (f : Port → Port) : (updPort d p f).rr = d.rr := rfl
@[simp] theorem updPort_slice (d : Desk) (p : Fin 4) (f : Port → Port) : (updPort d p f).slice = d.slice := rfl
@[simp] theorem updPort_drain (d : Desk) (p : Fin 4) (f : Port → Port) : (updPort d p f).drain = d.drain := rfl
@[simp] theorem updPort_fences (d : Desk) (p : Fin 4) (f : Port → Port) : (updPort d p f).fences = d.fences := rfl
@[simp] theorem updPort_deadlockSince (d : Desk) (p : Fin 4) (f : Port → Port) : (updPort d p f).deadlockSince = d.deadlockSince := rfl
@[simp] theorem updPort_itins (d : Desk) (p : Fin 4) (f : Port → Port) : (updPort d p f).itins = d.itins := rfl
@[simp] theorem updPort_slots (d : Desk) (p : Fin 4) (f : Port → Port) : (updPort d p f).slots = d.slots := rfl
@[simp] theorem updPort_aborts (d : Desk) (p : Fin 4) (f : Port → Port) : (updPort d p f).aborts = d.aborts := rfl
@[simp] theorem updPort_ledger (d : Desk) (p : Fin 4) (f : Port → Port) : (updPort d p f).ledger = d.ledger := rfl
@[simp] theorem updPort_gctl (d : Desk) (p : Fin 4) (f : Port → Port) : (updPort d p f).gctl = d.gctl := rfl
@[simp] theorem updPort_tiles (d : Desk) (p : Fin 4) (f : Port → Port) : (updPort d p f).tiles = d.tiles := rfl
@[simp] theorem updPort_errs (d : Desk) (p : Fin 4) (f : Port → Port) : (updPort d p f).errs = d.errs := rfl
@[simp] theorem updPort_mem (d : Desk) (p : Fin 4) (f : Port → Port) : (updPort d p f).mem = d.mem := rfl
@[simp] theorem updPort_bootId (d : Desk) (p : Fin 4) (f : Port → Port) : (updPort d p f).bootId = d.bootId := rfl
@[simp] theorem updPort_tx (d : Desk) (p : Fin 4) (f : Port → Port) : (updPort d p f).tx = d.tx := rfl
@[simp] theorem updPort_held (d : Desk) (p : Fin 4) (f : Port → Port) : (updPort d p f).held = d.held := rfl
@[simp] theorem updPort_nextTag (d : Desk) (p : Fin 4) (f : Port → Port) : (updPort d p f).nextTag = d.nextTag := rfl
@[simp] theorem updPort_out (d : Desk) (p : Fin 4) (f : Port → Port) : (updPort d p f).out = d.out := rfl
@[simp] theorem updPort_tripHold (d : Desk) (p : Fin 4) (f : Port → Port) : (updPort d p f).tripHold = d.tripHold := rfl
@[simp] theorem updPort_tripLatched (d : Desk) (p : Fin 4) (f : Port → Port) : (updPort d p f).tripLatched = d.tripLatched := rfl
@[simp] theorem updPort_tclkOff (d : Desk) (p : Fin 4) (f : Port → Port) : (updPort d p f).tclkOff = d.tclkOff := rfl
@[simp] theorem updPort_marks (d : Desk) (p : Fin 4) (f : Port → Port) : (updPort d p f).marks = d.marks := rfl

/-! ## The error log -/

@[simp] theorem logFault_now (d : Desk) (c die : Nat) (l q : Option Nat) (a x : Nat) : (logFault d c die l q a x).now = d.now := rfl
@[simp] theorem logFault_nowHi (d : Desk) (c die : Nat) (l q : Option Nat) (a x : Nat) : (logFault d c die l q a x).nowHi = d.nowHi := rfl
@[simp] theorem logFault_freeCtr (d : Desk) (c die : Nat) (l q : Option Nat) (a x : Nat) : (logFault d c die l q a x).freeCtr = d.freeCtr := rfl
@[simp] theorem logFault_ring (d : Desk) (c die : Nat) (l q : Option Nat) (a x : Nat) : (logFault d c die l q a x).ring = d.ring := rfl
@[simp] theorem logFault_sqs (d : Desk) (c die : Nat) (l q : Option Nat) (a x : Nat) : (logFault d c die l q a x).sqs = d.sqs := rfl
@[simp] theorem logFault_cqs (d : Desk) (c die : Nat) (l q : Option Nat) (a x : Nat) : (logFault d c die l q a x).cqs = d.cqs := rfl
@[simp] theorem logFault_rr (d : Desk) (c die : Nat) (l q : Option Nat) (a x : Nat) : (logFault d c die l q a x).rr = d.rr := rfl
@[simp] theorem logFault_slice (d : Desk) (c die : Nat) (l q : Option Nat) (a x : Nat) : (logFault d c die l q a x).slice = d.slice := rfl
@[simp] theorem logFault_drain (d : Desk) (c die : Nat) (l q : Option Nat) (a x : Nat) : (logFault d c die l q a x).drain = d.drain := rfl
@[simp] theorem logFault_fences (d : Desk) (c die : Nat) (l q : Option Nat) (a x : Nat) : (logFault d c die l q a x).fences = d.fences := rfl
@[simp] theorem logFault_deadlockSince (d : Desk) (c die : Nat) (l q : Option Nat) (a x : Nat) : (logFault d c die l q a x).deadlockSince = d.deadlockSince := rfl
@[simp] theorem logFault_itins (d : Desk) (c die : Nat) (l q : Option Nat) (a x : Nat) : (logFault d c die l q a x).itins = d.itins := rfl
@[simp] theorem logFault_slots (d : Desk) (c die : Nat) (l q : Option Nat) (a x : Nat) : (logFault d c die l q a x).slots = d.slots := rfl
@[simp] theorem logFault_aborts (d : Desk) (c die : Nat) (l q : Option Nat) (a x : Nat) : (logFault d c die l q a x).aborts = d.aborts := rfl
@[simp] theorem logFault_ledger (d : Desk) (c die : Nat) (l q : Option Nat) (a x : Nat) : (logFault d c die l q a x).ledger = d.ledger := rfl
@[simp] theorem logFault_gctl (d : Desk) (c die : Nat) (l q : Option Nat) (a x : Nat) : (logFault d c die l q a x).gctl = d.gctl := rfl
@[simp] theorem logFault_tiles (d : Desk) (c die : Nat) (l q : Option Nat) (a x : Nat) : (logFault d c die l q a x).tiles = d.tiles := rfl
@[simp] theorem logFault_mem (d : Desk) (c die : Nat) (l q : Option Nat) (a x : Nat) : (logFault d c die l q a x).mem = d.mem := rfl
@[simp] theorem logFault_ports (d : Desk) (c die : Nat) (l q : Option Nat) (a x : Nat) : (logFault d c die l q a x).ports = d.ports := rfl
@[simp] theorem logFault_bootId (d : Desk) (c die : Nat) (l q : Option Nat) (a x : Nat) : (logFault d c die l q a x).bootId = d.bootId := rfl
@[simp] theorem logFault_tx (d : Desk) (c die : Nat) (l q : Option Nat) (a x : Nat) : (logFault d c die l q a x).tx = d.tx := rfl
@[simp] theorem logFault_held (d : Desk) (c die : Nat) (l q : Option Nat) (a x : Nat) : (logFault d c die l q a x).held = d.held := rfl
@[simp] theorem logFault_nextTag (d : Desk) (c die : Nat) (l q : Option Nat) (a x : Nat) : (logFault d c die l q a x).nextTag = d.nextTag := rfl
@[simp] theorem logFault_out (d : Desk) (c die : Nat) (l q : Option Nat) (a x : Nat) : (logFault d c die l q a x).out = d.out := rfl
@[simp] theorem logFault_tripHold (d : Desk) (c die : Nat) (l q : Option Nat) (a x : Nat) : (logFault d c die l q a x).tripHold = d.tripHold := rfl
@[simp] theorem logFault_tripLatched (d : Desk) (c die : Nat) (l q : Option Nat) (a x : Nat) : (logFault d c die l q a x).tripLatched = d.tripLatched := rfl
@[simp] theorem logFault_tclkOff (d : Desk) (c die : Nat) (l q : Option Nat) (a x : Nat) : (logFault d c die l q a x).tclkOff = d.tclkOff := rfl
@[simp] theorem logFault_marks (d : Desk) (c die : Nat) (l q : Option Nat) (a x : Nat) : (logFault d c die l q a x).marks = d.marks := rfl

/-! ## The Ledger -/

@[simp] theorem ledgerWrite_now (d : Desk) (ty sl sq st qt ps : Nat) (b : Bytes) : (ledgerWrite d ty sl sq st qt ps b).now = d.now := rfl
@[simp] theorem ledgerWrite_nowHi (d : Desk) (ty sl sq st qt ps : Nat) (b : Bytes) : (ledgerWrite d ty sl sq st qt ps b).nowHi = d.nowHi := rfl
@[simp] theorem ledgerWrite_freeCtr (d : Desk) (ty sl sq st qt ps : Nat) (b : Bytes) : (ledgerWrite d ty sl sq st qt ps b).freeCtr = d.freeCtr := rfl
@[simp] theorem ledgerWrite_ring (d : Desk) (ty sl sq st qt ps : Nat) (b : Bytes) : (ledgerWrite d ty sl sq st qt ps b).ring = d.ring := rfl
@[simp] theorem ledgerWrite_sqs (d : Desk) (ty sl sq st qt ps : Nat) (b : Bytes) : (ledgerWrite d ty sl sq st qt ps b).sqs = d.sqs := rfl
@[simp] theorem ledgerWrite_cqs (d : Desk) (ty sl sq st qt ps : Nat) (b : Bytes) : (ledgerWrite d ty sl sq st qt ps b).cqs = d.cqs := rfl
@[simp] theorem ledgerWrite_rr (d : Desk) (ty sl sq st qt ps : Nat) (b : Bytes) : (ledgerWrite d ty sl sq st qt ps b).rr = d.rr := rfl
@[simp] theorem ledgerWrite_slice (d : Desk) (ty sl sq st qt ps : Nat) (b : Bytes) : (ledgerWrite d ty sl sq st qt ps b).slice = d.slice := rfl
@[simp] theorem ledgerWrite_drain (d : Desk) (ty sl sq st qt ps : Nat) (b : Bytes) : (ledgerWrite d ty sl sq st qt ps b).drain = d.drain := rfl
@[simp] theorem ledgerWrite_fences (d : Desk) (ty sl sq st qt ps : Nat) (b : Bytes) : (ledgerWrite d ty sl sq st qt ps b).fences = d.fences := rfl
@[simp] theorem ledgerWrite_deadlockSince (d : Desk) (ty sl sq st qt ps : Nat) (b : Bytes) : (ledgerWrite d ty sl sq st qt ps b).deadlockSince = d.deadlockSince := rfl
@[simp] theorem ledgerWrite_itins (d : Desk) (ty sl sq st qt ps : Nat) (b : Bytes) : (ledgerWrite d ty sl sq st qt ps b).itins = d.itins := rfl
@[simp] theorem ledgerWrite_slots (d : Desk) (ty sl sq st qt ps : Nat) (b : Bytes) : (ledgerWrite d ty sl sq st qt ps b).slots = d.slots := rfl
@[simp] theorem ledgerWrite_aborts (d : Desk) (ty sl sq st qt ps : Nat) (b : Bytes) : (ledgerWrite d ty sl sq st qt ps b).aborts = d.aborts := rfl
@[simp] theorem ledgerWrite_gctl (d : Desk) (ty sl sq st qt ps : Nat) (b : Bytes) : (ledgerWrite d ty sl sq st qt ps b).gctl = d.gctl := rfl
@[simp] theorem ledgerWrite_tiles (d : Desk) (ty sl sq st qt ps : Nat) (b : Bytes) : (ledgerWrite d ty sl sq st qt ps b).tiles = d.tiles := rfl
@[simp] theorem ledgerWrite_errs (d : Desk) (ty sl sq st qt ps : Nat) (b : Bytes) : (ledgerWrite d ty sl sq st qt ps b).errs = d.errs := rfl
@[simp] theorem ledgerWrite_mem (d : Desk) (ty sl sq st qt ps : Nat) (b : Bytes) : (ledgerWrite d ty sl sq st qt ps b).mem = d.mem := rfl
@[simp] theorem ledgerWrite_ports (d : Desk) (ty sl sq st qt ps : Nat) (b : Bytes) : (ledgerWrite d ty sl sq st qt ps b).ports = d.ports := rfl
@[simp] theorem ledgerWrite_bootId (d : Desk) (ty sl sq st qt ps : Nat) (b : Bytes) : (ledgerWrite d ty sl sq st qt ps b).bootId = d.bootId := rfl
@[simp] theorem ledgerWrite_tx (d : Desk) (ty sl sq st qt ps : Nat) (b : Bytes) : (ledgerWrite d ty sl sq st qt ps b).tx = d.tx := rfl
@[simp] theorem ledgerWrite_held (d : Desk) (ty sl sq st qt ps : Nat) (b : Bytes) : (ledgerWrite d ty sl sq st qt ps b).held = d.held := rfl
@[simp] theorem ledgerWrite_nextTag (d : Desk) (ty sl sq st qt ps : Nat) (b : Bytes) : (ledgerWrite d ty sl sq st qt ps b).nextTag = d.nextTag := rfl
@[simp] theorem ledgerWrite_out (d : Desk) (ty sl sq st qt ps : Nat) (b : Bytes) : (ledgerWrite d ty sl sq st qt ps b).out = d.out := rfl
@[simp] theorem ledgerWrite_tripHold (d : Desk) (ty sl sq st qt ps : Nat) (b : Bytes) : (ledgerWrite d ty sl sq st qt ps b).tripHold = d.tripHold := rfl
@[simp] theorem ledgerWrite_tripLatched (d : Desk) (ty sl sq st qt ps : Nat) (b : Bytes) : (ledgerWrite d ty sl sq st qt ps b).tripLatched = d.tripLatched := rfl
@[simp] theorem ledgerWrite_tclkOff (d : Desk) (ty sl sq st qt ps : Nat) (b : Bytes) : (ledgerWrite d ty sl sq st qt ps b).tclkOff = d.tclkOff := rfl
@[simp] theorem ledgerWrite_marks (d : Desk) (ty sl sq st qt ps : Nat) (b : Bytes) : (ledgerWrite d ty sl sq st qt ps b).marks = d.marks := rfl

/-! ## A fence -/

@[simp] theorem fenceSignal_now (d : Desk) (f : Nat) (e : Bool) : (fenceSignal d f e).now = d.now := rfl
@[simp] theorem fenceSignal_nowHi (d : Desk) (f : Nat) (e : Bool) : (fenceSignal d f e).nowHi = d.nowHi := rfl
@[simp] theorem fenceSignal_freeCtr (d : Desk) (f : Nat) (e : Bool) : (fenceSignal d f e).freeCtr = d.freeCtr := rfl
@[simp] theorem fenceSignal_ring (d : Desk) (f : Nat) (e : Bool) : (fenceSignal d f e).ring = d.ring := rfl
@[simp] theorem fenceSignal_sqs (d : Desk) (f : Nat) (e : Bool) : (fenceSignal d f e).sqs = d.sqs := rfl
@[simp] theorem fenceSignal_cqs (d : Desk) (f : Nat) (e : Bool) : (fenceSignal d f e).cqs = d.cqs := rfl
@[simp] theorem fenceSignal_rr (d : Desk) (f : Nat) (e : Bool) : (fenceSignal d f e).rr = d.rr := rfl
@[simp] theorem fenceSignal_slice (d : Desk) (f : Nat) (e : Bool) : (fenceSignal d f e).slice = d.slice := rfl
@[simp] theorem fenceSignal_drain (d : Desk) (f : Nat) (e : Bool) : (fenceSignal d f e).drain = d.drain := rfl
@[simp] theorem fenceSignal_deadlockSince (d : Desk) (f : Nat) (e : Bool) : (fenceSignal d f e).deadlockSince = d.deadlockSince := rfl
@[simp] theorem fenceSignal_itins (d : Desk) (f : Nat) (e : Bool) : (fenceSignal d f e).itins = d.itins := rfl
@[simp] theorem fenceSignal_slots (d : Desk) (f : Nat) (e : Bool) : (fenceSignal d f e).slots = d.slots := rfl
@[simp] theorem fenceSignal_aborts (d : Desk) (f : Nat) (e : Bool) : (fenceSignal d f e).aborts = d.aborts := rfl
@[simp] theorem fenceSignal_ledger (d : Desk) (f : Nat) (e : Bool) : (fenceSignal d f e).ledger = d.ledger := rfl
@[simp] theorem fenceSignal_gctl (d : Desk) (f : Nat) (e : Bool) : (fenceSignal d f e).gctl = d.gctl := rfl
@[simp] theorem fenceSignal_tiles (d : Desk) (f : Nat) (e : Bool) : (fenceSignal d f e).tiles = d.tiles := rfl
@[simp] theorem fenceSignal_errs (d : Desk) (f : Nat) (e : Bool) : (fenceSignal d f e).errs = d.errs := rfl
@[simp] theorem fenceSignal_mem (d : Desk) (f : Nat) (e : Bool) : (fenceSignal d f e).mem = d.mem := rfl
@[simp] theorem fenceSignal_ports (d : Desk) (f : Nat) (e : Bool) : (fenceSignal d f e).ports = d.ports := rfl
@[simp] theorem fenceSignal_bootId (d : Desk) (f : Nat) (e : Bool) : (fenceSignal d f e).bootId = d.bootId := rfl
@[simp] theorem fenceSignal_tx (d : Desk) (f : Nat) (e : Bool) : (fenceSignal d f e).tx = d.tx := rfl
@[simp] theorem fenceSignal_held (d : Desk) (f : Nat) (e : Bool) : (fenceSignal d f e).held = d.held := rfl
@[simp] theorem fenceSignal_nextTag (d : Desk) (f : Nat) (e : Bool) : (fenceSignal d f e).nextTag = d.nextTag := rfl
@[simp] theorem fenceSignal_out (d : Desk) (f : Nat) (e : Bool) : (fenceSignal d f e).out = d.out := rfl
@[simp] theorem fenceSignal_tripHold (d : Desk) (f : Nat) (e : Bool) : (fenceSignal d f e).tripHold = d.tripHold := rfl
@[simp] theorem fenceSignal_tripLatched (d : Desk) (f : Nat) (e : Bool) : (fenceSignal d f e).tripLatched = d.tripLatched := rfl
@[simp] theorem fenceSignal_tclkOff (d : Desk) (f : Nat) (e : Bool) : (fenceSignal d f e).tclkOff = d.tclkOff := rfl
@[simp] theorem fenceSignal_marks (d : Desk) (f : Nat) (e : Bool) : (fenceSignal d f e).marks = d.marks := rfl

/-! ## The end of work -/

@[simp] theorem endWork_now (d : Desk) (n : Fin 64) (c : Cmd) (st : Nat) (r : Bytes) (l : Nat) : (endWork d n c st r l).now = d.now := rfl
@[simp] theorem endWork_nowHi (d : Desk) (n : Fin 64) (c : Cmd) (st : Nat) (r : Bytes) (l : Nat) : (endWork d n c st r l).nowHi = d.nowHi := rfl
@[simp] theorem endWork_freeCtr (d : Desk) (n : Fin 64) (c : Cmd) (st : Nat) (r : Bytes) (l : Nat) : (endWork d n c st r l).freeCtr = d.freeCtr := rfl
@[simp] theorem endWork_ring (d : Desk) (n : Fin 64) (c : Cmd) (st : Nat) (r : Bytes) (l : Nat) : (endWork d n c st r l).ring = d.ring := rfl
@[simp] theorem endWork_cqs (d : Desk) (n : Fin 64) (c : Cmd) (st : Nat) (r : Bytes) (l : Nat) : (endWork d n c st r l).cqs = d.cqs := rfl
@[simp] theorem endWork_rr (d : Desk) (n : Fin 64) (c : Cmd) (st : Nat) (r : Bytes) (l : Nat) : (endWork d n c st r l).rr = d.rr := rfl
@[simp] theorem endWork_slice (d : Desk) (n : Fin 64) (c : Cmd) (st : Nat) (r : Bytes) (l : Nat) : (endWork d n c st r l).slice = d.slice := rfl
@[simp] theorem endWork_drain (d : Desk) (n : Fin 64) (c : Cmd) (st : Nat) (r : Bytes) (l : Nat) : (endWork d n c st r l).drain = d.drain := rfl
@[simp] theorem endWork_fences (d : Desk) (n : Fin 64) (c : Cmd) (st : Nat) (r : Bytes) (l : Nat) : (endWork d n c st r l).fences = d.fences := rfl
@[simp] theorem endWork_deadlockSince (d : Desk) (n : Fin 64) (c : Cmd) (st : Nat) (r : Bytes) (l : Nat) : (endWork d n c st r l).deadlockSince = d.deadlockSince := rfl
@[simp] theorem endWork_itins (d : Desk) (n : Fin 64) (c : Cmd) (st : Nat) (r : Bytes) (l : Nat) : (endWork d n c st r l).itins = d.itins := rfl
@[simp] theorem endWork_slots (d : Desk) (n : Fin 64) (c : Cmd) (st : Nat) (r : Bytes) (l : Nat) : (endWork d n c st r l).slots = d.slots := rfl
@[simp] theorem endWork_aborts (d : Desk) (n : Fin 64) (c : Cmd) (st : Nat) (r : Bytes) (l : Nat) : (endWork d n c st r l).aborts = d.aborts := rfl
@[simp] theorem endWork_ledger (d : Desk) (n : Fin 64) (c : Cmd) (st : Nat) (r : Bytes) (l : Nat) : (endWork d n c st r l).ledger = d.ledger := rfl
@[simp] theorem endWork_gctl (d : Desk) (n : Fin 64) (c : Cmd) (st : Nat) (r : Bytes) (l : Nat) : (endWork d n c st r l).gctl = d.gctl := rfl
@[simp] theorem endWork_tiles (d : Desk) (n : Fin 64) (c : Cmd) (st : Nat) (r : Bytes) (l : Nat) : (endWork d n c st r l).tiles = d.tiles := rfl
@[simp] theorem endWork_errs (d : Desk) (n : Fin 64) (c : Cmd) (st : Nat) (r : Bytes) (l : Nat) : (endWork d n c st r l).errs = d.errs := rfl
@[simp] theorem endWork_mem (d : Desk) (n : Fin 64) (c : Cmd) (st : Nat) (r : Bytes) (l : Nat) : (endWork d n c st r l).mem = d.mem := rfl
@[simp] theorem endWork_ports (d : Desk) (n : Fin 64) (c : Cmd) (st : Nat) (r : Bytes) (l : Nat) : (endWork d n c st r l).ports = d.ports := rfl
@[simp] theorem endWork_bootId (d : Desk) (n : Fin 64) (c : Cmd) (st : Nat) (r : Bytes) (l : Nat) : (endWork d n c st r l).bootId = d.bootId := rfl
@[simp] theorem endWork_tx (d : Desk) (n : Fin 64) (c : Cmd) (st : Nat) (r : Bytes) (l : Nat) : (endWork d n c st r l).tx = d.tx := rfl
@[simp] theorem endWork_held (d : Desk) (n : Fin 64) (c : Cmd) (st : Nat) (r : Bytes) (l : Nat) : (endWork d n c st r l).held = d.held := rfl
@[simp] theorem endWork_nextTag (d : Desk) (n : Fin 64) (c : Cmd) (st : Nat) (r : Bytes) (l : Nat) : (endWork d n c st r l).nextTag = d.nextTag := rfl
@[simp] theorem endWork_out (d : Desk) (n : Fin 64) (c : Cmd) (st : Nat) (r : Bytes) (l : Nat) : (endWork d n c st r l).out = d.out := rfl
@[simp] theorem endWork_tripHold (d : Desk) (n : Fin 64) (c : Cmd) (st : Nat) (r : Bytes) (l : Nat) : (endWork d n c st r l).tripHold = d.tripHold := rfl
@[simp] theorem endWork_tripLatched (d : Desk) (n : Fin 64) (c : Cmd) (st : Nat) (r : Bytes) (l : Nat) : (endWork d n c st r l).tripLatched = d.tripLatched := rfl
@[simp] theorem endWork_tclkOff (d : Desk) (n : Fin 64) (c : Cmd) (st : Nat) (r : Bytes) (l : Nat) : (endWork d n c st r l).tclkOff = d.tclkOff := rfl
@[simp] theorem endWork_marks (d : Desk) (n : Fin 64) (c : Cmd) (st : Nat) (r : Bytes) (l : Nat) : (endWork d n c st r l).marks = d.marks := rfl

/-! ## A fabric port -/

@[simp] theorem updFab_pending (s : State) (p : Fin 16) (f : FabPort → FabPort) : (updFab s p f).pending = s.pending := rfl
@[simp] theorem updFab_fuses (s : State) (p : Fin 16) (f : FabPort → FabPort) : (updFab s p f).fuses = s.fuses := rfl
@[simp] theorem updFab_elec (s : State) (p : Fin 16) (f : FabPort → FabPort) : (updFab s p f).elec = s.elec := rfl
@[simp] theorem updFab_desk (s : State) (p : Fin 16) (f : FabPort → FabPort) : (updFab s p f).desk = s.desk := rfl
@[simp] theorem updFab_mbx (s : State) (p : Fin 16) (f : FabPort → FabPort) : (updFab s p f).mbx = s.mbx := rfl
@[simp] theorem updFab_locks (s : State) (p : Fin 16) (f : FabPort → FabPort) : (updFab s p f).locks = s.locks := rfl
@[simp] theorem updFab_np (s : State) (p : Fin 16) (f : FabPort → FabPort) : (updFab s p f).np = s.np := rfl
@[simp] theorem updFab_trng (s : State) (p : Fin 16) (f : FabPort → FabPort) : (updFab s p f).trng = s.trng := rfl
@[simp] theorem updFab_sec (s : State) (p : Fin 16) (f : FabPort → FabPort) : (updFab s p f).sec = s.sec := rfl
@[simp] theorem updFab_recov (s : State) (p : Fin 16) (f : FabPort → FabPort) : (updFab s p f).recov = s.recov := rfl
@[simp] theorem updFab_smb (s : State) (p : Fin 16) (f : FabPort → FabPort) : (updFab s p f).smb = s.smb := rfl
@[simp] theorem updFab_reply (s : State) (p : Fin 16) (f : FabPort → FabPort) : (updFab s p f).reply = s.reply := rfl

/-! ## The pins -/

@[simp] theorem emit_pending (s : State) (l : List Out) : (emit s l).pending = s.pending := rfl
@[simp] theorem emit_fuses (s : State) (l : List Out) : (emit s l).fuses = s.fuses := rfl
@[simp] theorem emit_elec (s : State) (l : List Out) : (emit s l).elec = s.elec := rfl
@[simp] theorem emit_mbx (s : State) (l : List Out) : (emit s l).mbx = s.mbx := rfl
@[simp] theorem emit_locks (s : State) (l : List Out) : (emit s l).locks = s.locks := rfl
@[simp] theorem emit_np (s : State) (l : List Out) : (emit s l).np = s.np := rfl
@[simp] theorem emit_trng (s : State) (l : List Out) : (emit s l).trng = s.trng := rfl
@[simp] theorem emit_sec (s : State) (l : List Out) : (emit s l).sec = s.sec := rfl
@[simp] theorem emit_recov (s : State) (l : List Out) : (emit s l).recov = s.recov := rfl
@[simp] theorem emit_smb (s : State) (l : List Out) : (emit s l).smb = s.smb := rfl
@[simp] theorem emit_fab (s : State) (l : List Out) : (emit s l).fab = s.fab := rfl
@[simp] theorem emit_reply (s : State) (l : List Out) : (emit s l).reply = s.reply := rfl

end Sys2Proof.Machine
end

