-- ==== Sys2Proof/Laws/Settle.lean ====
section
/-!
SUPPORT. Everything that `settle` can do: the state it leaves differs from the one it takes in messages handed to the
fabric, in what Front Desk notes of its heads and the end of a drain, in TCLK as a fixed-timing command starts, in the module state with
its descent timer, and in the latches of the SMBus STATUS word, and in nothing else.
-/
namespace Sys2Proof.Machine

/-- What may differ between a state and the same state settled. -/
structure Settled where
  fab : Fabric
  tx : List Msg
  out : List Out
  since : Option Nat
  marks : Tab 64 (Option HeadMark)
  drain : Bool
  f : Nat
  fixedHold : Bool
  state : PState
  timer : Nat
  quiet : Bool
  latches : BitVec 8
  seen : BitVec 8

/-- A state with these parts. -/
def Settled.on (x : Settled) (s : State) : State :=
  { s with
    fab := x.fab
    desk := { s.desk with tx := x.tx, out := x.out, deadlockSince := x.since, marks := x.marks, drain := x.drain }
    np := { s.np with f := x.f, fixedHold := x.fixedHold, state := x.state, timer := x.timer, quiet := x.quiet }
    smb := { s.smb with latches := x.latches, seen := x.seen } }

/-- These parts of a state. -/
def settledOf (s : State) : Settled :=
  ⟨s.fab, s.desk.tx, s.desk.out, s.desk.deadlockSince, s.desk.marks, s.desk.drain, s.np.f, s.np.fixedHold, s.np.state, s.np.timer,
    s.np.quiet, s.smb.latches, s.smb.seen⟩

/-- A state that differs from another in these parts at most. -/
def Settles (s t : State) : Prop := t = (settledOf t).on s

theorem Settles.of {s t : State} (x : Settled) (h : t = x.on s) : Settles s t := by
  subst h
  rfl

theorem Settles.trans {s t u : State} (h : Settles s t) (k : Settles t u) : Settles s u := by
  unfold Settles at h k
  rw [k]
  generalize settledOf u = x
  rw [h]
  exact Settles.of x rfl

theorem flushTx_settles (s : State) : Settles s (flushTx s) := by
  unfold flushTx
  split
  · exact Settles.of (settledOf s) rfl
  · exact Settles.of { settledOf s with
      fab := (sendAll s.elec.moduleId.toNat s.desk.now s.fab s.desk.tx).1, tx := []
      out := s.desk.out ++ (sendAll s.elec.moduleId.toNat s.desk.now s.fab s.desk.tx).2 } rfl

theorem headsNoted_settles (s : State) (m : Tab 64 (Option HeadMark)) (b : Bool) :
    Settles s { s with desk := { s.desk with marks := m, drain := b } } :=
  Settles.of { settledOf s with marks := m, drain := b } rfl

theorem settleHeads_settles (s : State) : Settles s (settleHeads s) := by
  unfold settleHeads markHeads
  exact headsNoted_settles s _ _

theorem settleBlock_settles (s : State) : Settles s (settleBlock s) :=
  Settles.of { settledOf s with since := (settleBlock s).desk.deadlockSince } rfl

theorem settleClock_settles (s : State) : Settles s (settleClock s) := by
  unfold settleClock
  split
  · split
    · exact Settles.of (settledOf s) rfl
    · exact Settles.of { settledOf s with fixedHold := true, f := 1800 } rfl
  · exact Settles.of { settledOf s with fixedHold := false } rfl

theorem settlePower_settles (s : State) : Settles s (settlePower s) := by
  unfold settlePower
  split
  · split
    · exact Settles.of (settledOf s) rfl
    · exact Settles.of { settledOf s with state := .idle, timer := s.desk.now } rfl
  · split
    · exact Settles.of { settledOf s with state := .active } rfl
    · exact Settles.of (settledOf s) rfl
  · exact Settles.of (settledOf s) rfl

theorem settleTimer_settles (s : State) : Settles s (settleTimer s) := by
  unfold settleTimer
  split
  · exact Settles.of (settledOf s) rfl
  · exact Settles.of { settledOf s with quiet := quietNow s, timer := s.desk.now } rfl

theorem latchStatus_settles (s : State) : Settles s (latchStatus s) :=
  Settles.of { settledOf s with latches := (latchStatus s).smb.latches, seen := (latchStatus s).smb.seen } rfl

/-- `settle` changes these parts and no other. -/
theorem settle_settles (s : State) : Settles s (settle s) := by
  unfold settle
  split
  · exact (flushTx_settles s).trans <| (settleHeads_settles _).trans <| (settleBlock_settles _).trans <|
      (settleClock_settles _).trans <| (settlePower_settles _).trans <| (settleTimer_settles _).trans (latchStatus_settles _)
  · exact Settles.of (settledOf s) rfl

/-- The same as one equation. -/
theorem settle_eq (s : State) : settle s = (settledOf (settle s)).on s := settle_settles s

/-- A module that does not run firmware settles at once. -/
theorem settle_of_not_running (s : State) (h : s.elec.life ≠ .running) : settle s = s := by
  unfold settle
  split
  · exact absurd ‹_› h
  · rfl

@[simp] theorem settle_pending (s : State) : (settle s).pending = s.pending := by
  rw [settle_eq]; rfl
@[simp] theorem settle_fuses (s : State) : (settle s).fuses = s.fuses := by
  rw [settle_eq]; rfl
@[simp] theorem settle_elec (s : State) : (settle s).elec = s.elec := by
  rw [settle_eq]; rfl
@[simp] theorem settle_mbx (s : State) : (settle s).mbx = s.mbx := by
  rw [settle_eq]; rfl
@[simp] theorem settle_locks (s : State) : (settle s).locks = s.locks := by
  rw [settle_eq]; rfl
@[simp] theorem settle_trng (s : State) : (settle s).trng = s.trng := by
  rw [settle_eq]; rfl
@[simp] theorem settle_sec (s : State) : (settle s).sec = s.sec := by
  rw [settle_eq]; rfl
@[simp] theorem settle_recov (s : State) : (settle s).recov = s.recov := by
  rw [settle_eq]; rfl
@[simp] theorem settle_reply (s : State) : (settle s).reply = s.reply := by
  rw [settle_eq]; rfl

@[simp] theorem settle_desk_now (s : State) : (settle s).desk.now = s.desk.now := by
  rw [settle_eq]; rfl
@[simp] theorem settle_desk_nowHi (s : State) : (settle s).desk.nowHi = s.desk.nowHi := by
  rw [settle_eq]; rfl
@[simp] theorem settle_desk_freeCtr (s : State) : (settle s).desk.freeCtr = s.desk.freeCtr := by
  rw [settle_eq]; rfl
@[simp] theorem settle_desk_ring (s : State) : (settle s).desk.ring = s.desk.ring := by
  rw [settle_eq]; rfl
@[simp] theorem settle_desk_sqs (s : State) : (settle s).desk.sqs = s.desk.sqs := by
  rw [settle_eq]; rfl
@[simp] theorem settle_desk_cqs (s : State) : (settle s).desk.cqs = s.desk.cqs := by
  rw [settle_eq]; rfl
@[simp] theorem settle_desk_rr (s : State) : (settle s).desk.rr = s.desk.rr := by
  rw [settle_eq]; rfl
@[simp] theorem settle_desk_slice (s : State) : (settle s).desk.slice = s.desk.slice := by
  rw [settle_eq]; rfl
@[simp] theorem settle_desk_fences (s : State) : (settle s).desk.fences = s.desk.fences := by
  rw [settle_eq]; rfl
@[simp] theorem settle_desk_itins (s : State) : (settle s).desk.itins = s.desk.itins := by
  rw [settle_eq]; rfl
@[simp] theorem settle_desk_slots (s : State) : (settle s).desk.slots = s.desk.slots := by
  rw [settle_eq]; rfl
@[simp] theorem settle_desk_aborts (s : State) : (settle s).desk.aborts = s.desk.aborts := by
  rw [settle_eq]; rfl
@[simp] theorem settle_desk_ledger (s : State) : (settle s).desk.ledger = s.desk.ledger := by
  rw [settle_eq]; rfl
@[simp] theorem settle_desk_gctl (s : State) : (settle s).desk.gctl = s.desk.gctl := by
  rw [settle_eq]; rfl
@[simp] theorem settle_desk_tiles (s : State) : (settle s).desk.tiles = s.desk.tiles := by
  rw [settle_eq]; rfl
@[simp] theorem settle_desk_errs (s : State) : (settle s).desk.errs = s.desk.errs := by
  rw [settle_eq]; rfl
@[simp] theorem settle_desk_mem (s : State) : (settle s).desk.mem = s.desk.mem := by
  rw [settle_eq]; rfl
@[simp] theorem settle_desk_ports (s : State) : (settle s).desk.ports = s.desk.ports := by
  rw [settle_eq]; rfl
@[simp] theorem settle_desk_bootId (s : State) : (settle s).desk.bootId = s.desk.bootId := by
  rw [settle_eq]; rfl
@[simp] theorem settle_desk_held (s : State) : (settle s).desk.held = s.desk.held := by
  rw [settle_eq]; rfl
@[simp] theorem settle_desk_nextTag (s : State) : (settle s).desk.nextTag = s.desk.nextTag := by
  rw [settle_eq]; rfl
@[simp] theorem settle_desk_tripHold (s : State) : (settle s).desk.tripHold = s.desk.tripHold := by
  rw [settle_eq]; rfl
@[simp] theorem settle_desk_tripLatched (s : State) : (settle s).desk.tripLatched = s.desk.tripLatched := by
  rw [settle_eq]; rfl

@[simp] theorem settle_desk_tclkOff (s : State) : (settle s).desk.tclkOff = s.desk.tclkOff := by
  rw [settle_eq]; rfl

@[simp] theorem settle_np_memPaths (s : State) : (settle s).np.memPaths = s.np.memPaths := by
  rw [settle_eq]; rfl
@[simp] theorem settle_np_capThrottle (s : State) : (settle s).np.capThrottle = s.np.capThrottle := by
  rw [settle_eq]; rfl
@[simp] theorem settle_np_thermalThrottle (s : State) : (settle s).np.thermalThrottle = s.np.thermalThrottle := by
  rw [settle_eq]; rfl
@[simp] theorem settle_np_limiter (s : State) : (settle s).np.limiter = s.np.limiter := by
  rw [settle_eq]; rfl
@[simp] theorem settle_np_limiterAt (s : State) : (settle s).np.limiterAt = s.np.limiterAt := by
  rw [settle_eq]; rfl
@[simp] theorem settle_np_tripHold (s : State) : (settle s).np.tripHold = s.np.tripHold := by
  rw [settle_eq]; rfl
@[simp] theorem settle_np_tripLatched (s : State) : (settle s).np.tripLatched = s.np.tripLatched := by
  rw [settle_eq]; rfl
@[simp] theorem settle_np_npRestart (s : State) : (settle s).np.npRestart = s.np.npRestart := by
  rw [settle_eq]; rfl
@[simp] theorem settle_np_idleNap (s : State) : (settle s).np.idleNap = s.np.idleNap := by
  rw [settle_eq]; rfl
@[simp] theorem settle_np_napDoze (s : State) : (settle s).np.napDoze = s.np.napDoze := by
  rw [settle_eq]; rfl
@[simp] theorem settle_np_dozeNight (s : State) : (settle s).np.dozeNight = s.np.dozeNight := by
  rw [settle_eq]; rfl
@[simp] theorem settle_np_floor (s : State) : (settle s).np.floor = s.np.floor := by
  rw [settle_eq]; rfl
@[simp] theorem settle_np_pcapHost (s : State) : (settle s).np.pcapHost = s.np.pcapHost := by
  rw [settle_eq]; rfl
@[simp] theorem settle_np_trayCap (s : State) : (settle s).np.trayCap = s.np.trayCap := by
  rw [settle_eq]; rfl
@[simp] theorem settle_np_cap (s : State) : (settle s).np.cap = s.np.cap := by
  rw [settle_eq]; rfl
@[simp] theorem settle_np_trayNow (s : State) : (settle s).np.trayNow = s.np.trayNow := by
  rw [settle_eq]; rfl
@[simp] theorem settle_np_gate (s : State) : (settle s).np.gate = s.np.gate := by
  rw [settle_eq]; rfl
@[simp] theorem settle_np_voff (s : State) : (settle s).np.voff = s.np.voff := by
  rw [settle_eq]; rfl
@[simp] theorem settle_np_steps (s : State) : (settle s).np.steps = s.np.steps := by
  rw [settle_eq]; rfl
@[simp] theorem settle_np_pendSteps (s : State) : (settle s).np.pendSteps = s.np.pendSteps := by
  rw [settle_eq]; rfl
@[simp] theorem settle_np_worst (s : State) : (settle s).np.worst = s.np.worst := by
  rw [settle_eq]; rfl
@[simp] theorem settle_np_plans (s : State) : (settle s).np.plans = s.np.plans := by
  rw [settle_eq]; rfl
@[simp] theorem settle_np_hours (s : State) : (settle s).np.hours = s.np.hours := by
  rw [settle_eq]; rfl
@[simp] theorem settle_np_nextPlan (s : State) : (settle s).np.nextPlan = s.np.nextPlan := by
  rw [settle_eq]; rfl
@[simp] theorem settle_np_planDue (s : State) : (settle s).np.planDue = s.np.planDue := by
  rw [settle_eq]; rfl
@[simp] theorem settle_np_wakeCause (s : State) : (settle s).np.wakeCause = s.np.wakeCause := by
  rw [settle_eq]; rfl
@[simp] theorem settle_np_throttleCount (s : State) : (settle s).np.throttleCount = s.np.throttleCount := by
  rw [settle_eq]; rfl
@[simp] theorem settle_np_limiterCount (s : State) : (settle s).np.limiterCount = s.np.limiterCount := by
  rw [settle_eq]; rfl
@[simp] theorem settle_np_trips (s : State) : (settle s).np.trips = s.np.trips := by
  rw [settle_eq]; rfl
@[simp] theorem settle_np_tripTimes (s : State) : (settle s).np.tripTimes = s.np.tripTimes := by
  rw [settle_eq]; rfl
@[simp] theorem settle_np_coolSince (s : State) : (settle s).np.coolSince = s.np.coolSince := by
  rw [settle_eq]; rfl
@[simp] theorem settle_np_filt (s : State) : (settle s).np.filt = s.np.filt := by
  rw [settle_eq]; rfl
@[simp] theorem settle_np_y (s : State) : (settle s).np.y = s.np.y := by
  rw [settle_eq]; rfl
@[simp] theorem settle_np_val (s : State) : (settle s).np.val = s.np.val := by
  rw [settle_eq]; rfl
@[simp] theorem settle_np_raw (s : State) : (settle s).np.raw = s.np.raw := by
  rw [settle_eq]; rfl
@[simp] theorem settle_np_waking (s : State) : (settle s).np.waking = s.np.waking := by
  rw [settle_eq]; rfl
@[simp] theorem settle_np_left (s : State) : (settle s).np.left = s.np.left := by
  rw [settle_eq]; rfl
@[simp] theorem settle_np_wakeAt (s : State) : (settle s).np.wakeAt = s.np.wakeAt := by
  rw [settle_eq]; rfl
@[simp] theorem settle_np_asked (s : State) : (settle s).np.asked = s.np.asked := by
  rw [settle_eq]; rfl
@[simp] theorem settle_np_rounds (s : State) : (settle s).np.rounds = s.np.rounds := by
  rw [settle_eq]; rfl

@[simp] theorem settle_smb_mask (s : State) : (settle s).smb.mask = s.smb.mask := by
  rw [settle_eq]; rfl
@[simp] theorem settle_smb_excursion (s : State) : (settle s).smb.excursion = s.smb.excursion := by
  rw [settle_eq]; rfl

/-! ## An event on Front Desk's part -/

@[simp] theorem onDesk_pending (s : State) (f : Env → Desk → Desk) : (onDesk s f).pending = s.pending := by simp [onDesk]
@[simp] theorem onDesk_fuses (s : State) (f : Env → Desk → Desk) : (onDesk s f).fuses = s.fuses := by simp [onDesk]
@[simp] theorem onDesk_elec (s : State) (f : Env → Desk → Desk) : (onDesk s f).elec = s.elec := by simp [onDesk]
@[simp] theorem onDesk_mbx (s : State) (f : Env → Desk → Desk) : (onDesk s f).mbx = s.mbx := by simp [onDesk]
@[simp] theorem onDesk_locks (s : State) (f : Env → Desk → Desk) : (onDesk s f).locks = s.locks := by simp [onDesk]
@[simp] theorem onDesk_trng (s : State) (f : Env → Desk → Desk) : (onDesk s f).trng = s.trng := by simp [onDesk]
@[simp] theorem onDesk_sec (s : State) (f : Env → Desk → Desk) : (onDesk s f).sec = s.sec := by simp [onDesk]
@[simp] theorem onDesk_recov (s : State) (f : Env → Desk → Desk) : (onDesk s f).recov = s.recov := by simp [onDesk]
@[simp] theorem onDesk_reply (s : State) (f : Env → Desk → Desk) : (onDesk s f).reply = s.reply := by simp [onDesk]

@[simp] theorem onDesk_desk_now (s : State) (f : Env → Desk → Desk) :
    (onDesk s f).desk.now = (f (envOf s) s.desk).now := by simp [onDesk]
@[simp] theorem onDesk_desk_nowHi (s : State) (f : Env → Desk → Desk) :
    (onDesk s f).desk.nowHi = (f (envOf s) s.desk).nowHi := by simp [onDesk]
@[simp] theorem onDesk_desk_freeCtr (s : State) (f : Env → Desk → Desk) :
    (onDesk s f).desk.freeCtr = (f (envOf s) s.desk).freeCtr := by simp [onDesk]
@[simp] theorem onDesk_desk_ring (s : State) (f : Env → Desk → Desk) :
    (onDesk s f).desk.ring = (f (envOf s) s.desk).ring := by simp [onDesk]
@[simp] theorem onDesk_desk_sqs (s : State) (f : Env → Desk → Desk) :
    (onDesk s f).desk.sqs = (f (envOf s) s.desk).sqs := by simp [onDesk]
@[simp] theorem onDesk_desk_cqs (s : State) (f : Env → Desk → Desk) :
    (onDesk s f).desk.cqs = (f (envOf s) s.desk).cqs := by simp [onDesk]
@[simp] theorem onDesk_desk_rr (s : State) (f : Env → Desk → Desk) :
    (onDesk s f).desk.rr = (f (envOf s) s.desk).rr := by simp [onDesk]
@[simp] theorem onDesk_desk_slice (s : State) (f : Env → Desk → Desk) :
    (onDesk s f).desk.slice = (f (envOf s) s.desk).slice := by simp [onDesk]
@[simp] theorem onDesk_desk_fences (s : State) (f : Env → Desk → Desk) :
    (onDesk s f).desk.fences = (f (envOf s) s.desk).fences := by simp [onDesk]
@[simp] theorem onDesk_desk_itins (s : State) (f : Env → Desk → Desk) :
    (onDesk s f).desk.itins = (f (envOf s) s.desk).itins := by simp [onDesk]
@[simp] theorem onDesk_desk_slots (s : State) (f : Env → Desk → Desk) :
    (onDesk s f).desk.slots = (f (envOf s) s.desk).slots := by simp [onDesk]
@[simp] theorem onDesk_desk_aborts (s : State) (f : Env → Desk → Desk) :
    (onDesk s f).desk.aborts = (f (envOf s) s.desk).aborts := by simp [onDesk]
@[simp] theorem onDesk_desk_ledger (s : State) (f : Env → Desk → Desk) :
    (onDesk s f).desk.ledger = (f (envOf s) s.desk).ledger := by simp [onDesk]
@[simp] theorem onDesk_desk_gctl (s : State) (f : Env → Desk → Desk) :
    (onDesk s f).desk.gctl = (f (envOf s) s.desk).gctl := by simp [onDesk]
@[simp] theorem onDesk_desk_tiles (s : State) (f : Env → Desk → Desk) :
    (onDesk s f).desk.tiles = (f (envOf s) s.desk).tiles := by simp [onDesk]
@[simp] theorem onDesk_desk_errs (s : State) (f : Env → Desk → Desk) :
    (onDesk s f).desk.errs = (f (envOf s) s.desk).errs := by simp [onDesk]
@[simp] theorem onDesk_desk_mem (s : State) (f : Env → Desk → Desk) :
    (onDesk s f).desk.mem = (f (envOf s) s.desk).mem := by simp [onDesk]
@[simp] theorem onDesk_desk_ports (s : State) (f : Env → Desk → Desk) :
    (onDesk s f).desk.ports = (f (envOf s) s.desk).ports := by simp [onDesk]
@[simp] theorem onDesk_desk_bootId (s : State) (f : Env → Desk → Desk) :
    (onDesk s f).desk.bootId = (f (envOf s) s.desk).bootId := by simp [onDesk]
@[simp] theorem onDesk_desk_held (s : State) (f : Env → Desk → Desk) :
    (onDesk s f).desk.held = (f (envOf s) s.desk).held := by simp [onDesk]
@[simp] theorem onDesk_desk_nextTag (s : State) (f : Env → Desk → Desk) :
    (onDesk s f).desk.nextTag = (f (envOf s) s.desk).nextTag := by simp [onDesk]
@[simp] theorem onDesk_desk_tripHold (s : State) (f : Env → Desk → Desk) :
    (onDesk s f).desk.tripHold = (f (envOf s) s.desk).tripHold := by simp [onDesk]
@[simp] theorem onDesk_desk_tripLatched (s : State) (f : Env → Desk → Desk) :
    (onDesk s f).desk.tripLatched = (f (envOf s) s.desk).tripLatched := by simp [onDesk]

@[simp] theorem onDesk_desk_tclkOff (s : State) (f : Env → Desk → Desk) :
    (onDesk s f).desk.tclkOff = (f (envOf s) s.desk).tclkOff := by simp [onDesk]

theorem settlePower_awake (s : State) (h : s.np.state = .active ∨ s.np.state = .idle) :
    (settlePower s).np.state = .active ∨ (settlePower s).np.state = .idle := by
  unfold settlePower
  split
  · split
    · exact h
    · exact .inr rfl
  · split
    · exact .inl rfl
    · exact h
  · exact h

theorem settleTimer_state (s : State) : (settleTimer s).np.state = s.np.state := by
  unfold settleTimer
  split <;> rfl

theorem flushTx_np (s : State) : (flushTx s).np = s.np := by
  unfold flushTx
  split <;> rfl

theorem settleBlock_np (s : State) : (settleBlock s).np = s.np := rfl

theorem settleHeads_np (s : State) : (settleHeads s).np = s.np := by
  unfold settleHeads
  simp only

theorem settleClock_state (s : State) : (settleClock s).np.state = s.np.state := by
  unfold settleClock
  split
  · split <;> rfl
  · rfl

/-- A module in ACTIVE or IDLE settles into one of the two: `settle` never wakes and never descends. -/
theorem settle_np_awake (s : State) (h : s.np.state = .active ∨ s.np.state = .idle) :
    (settle s).np.state = .active ∨ (settle s).np.state = .idle := by
  unfold settle
  split
  · have h1 : (settleClock (settleBlock (settleHeads (flushTx s)))).np.state = s.np.state := by
      rw [settleClock_state, settleBlock_np, settleHeads_np, flushTx_np]
    rw [← h1] at h
    have h2 := settlePower_awake _ h
    rw [← settleTimer_state] at h2
    exact h2
  · exact h

end Sys2Proof.Machine
end

