-- ==== Sys2Proof/Laws/Mailbox.lean ====
section
/-!
SUPPORT. What the shared operations of the mailboxes, the doorbells and a wake can do: `OnlyMail` says it once, and every
event of the mailboxes is a chain of operations that keep it.
-/
namespace Sys2Proof.Machine

/-! ## Boxes and bells: reads after writes -/

theorem boxAt_updBox_same (m : Mailboxes) (b : BoxId) (f : Box → Box) : boxAt (updBox m b f) b = f (boxAt m b) := by
  cases b <;> simp [boxAt, updBox, Tab.at_upd_same]

theorem boxAt_updBox_ne (m : Mailboxes) (b x : BoxId) (f : Box → Box) (h : x ≠ b) :
    boxAt (updBox m b f) x = boxAt m x := by
  cases b <;> cases x <;> first
    | rfl
    | exact Tab.at_upd_ne _ _ _ _ fun e => h (congrArg _ e)
    | exact absurd rfl h

@[simp] theorem bellAt_updBox (m : Mailboxes) (b : BoxId) (f : Box → Box) (x : BellId) :
    bellAt (updBox m b f) x = bellAt m x := by
  cases b <;> cases x <;> rfl

@[simp] theorem boxAt_setBell (m : Mailboxes) (b : BellId) (y : Bell) (x : BoxId) :
    boxAt (setBell m b y) x = boxAt m x := by
  cases b <;> cases x <;> rfl

theorem bellAt_setBell_same (m : Mailboxes) (b : BellId) (x y : Bell) (h : bellAt m b = some x) :
    bellAt (setBell m b y) b = some y := by
  cases b <;> simp_all [bellAt, setBell, Tab.at_put_same]

theorem bellAt_setBell_ne (m : Mailboxes) (b x : BellId) (y : Bell) (h : x ≠ b) :
    bellAt (setBell m b y) x = bellAt m x := by
  cases b <;> cases x <;> first
    | rfl
    | exact congrArg some (Tab.at_put_ne _ _ _ _ fun e => h (congrArg _ e))
    | exact absurd rfl h

@[simp] theorem queueAt_updBox (m : Mailboxes) (b : BoxId) (f : Box → Box) (x : BoxId) :
    queueAt (updBox m b f) x = queueAt m x := by
  cases b <;> cases x <;> rfl

@[simp] theorem queueAt_setBell (m : Mailboxes) (b : BellId) (y : Bell) (x : BoxId) :
    queueAt (setBell m b y) x = queueAt m x := by
  cases b <;> cases x <;> rfl

@[simp] theorem boxAt_setQueue (m : Mailboxes) (b : BoxId) (l : List Mail) (x : BoxId) :
    boxAt (setQueue m b l) x = boxAt m x := by
  cases b <;> cases x <;> rfl

@[simp] theorem bellAt_setQueue (m : Mailboxes) (b : BoxId) (l : List Mail) (x : BellId) :
    bellAt (setQueue m b l) x = bellAt m x := by
  cases b <;> cases x <;> rfl

/-! ## Notifications -/

/-- A message is sent or left pending, and nothing else changes. -/
theorem raiseMsix_speaks (d : Desk) (p : Fin 4) (v : Nat) : DeskSpeaks d (raiseMsix d p v) := by
  unfold raiseMsix
  simp only
  split
  · exact ⟨rfl, fun _ => rfl⟩
  split
  · exact ⟨rfl, fun _ => rfl⟩
  · refine ⟨rfl, fun q => ?_⟩
    by_cases h : q = p
    · subst h
      simp [Tab.at_put_same]
    · simp [Tab.at_put_ne _ _ _ _ h]

theorem DeskSpeaks.rfl' (d : Desk) : DeskSpeaks d d := ⟨rfl, fun _ => rfl⟩

theorem DeskSpeaks.trans {d e f : Desk} (h : DeskSpeaks d e) (k : DeskSpeaks e f) : DeskSpeaks d f := by
  obtain ⟨h1, h2⟩ := h
  obtain ⟨k1, k2⟩ := k
  refine ⟨?_, fun p => ?_⟩
  · rw [k1, h1]
  · rw [k2, h2]

/-- More words on the wires and toward the fabric. -/
theorem DeskSpeaks.post (d : Desk) (tx : List Msg) (out : List Out) (since : Option Nat) :
    DeskSpeaks d { d with tx := tx, out := out, deadlockSince := since } := ⟨rfl, fun _ => rfl⟩

theorem OnlyMail.refl (s : State) : OnlyMail s s := ⟨rfl, DeskSpeaks.rfl' _, rfl, rfl⟩

theorem OnlyMail.trans {s t u : State} (h : OnlyMail s t) (k : OnlyMail t u) : OnlyMail s u := by
  obtain ⟨h1, h2, h3, h4⟩ := h
  obtain ⟨k1, k2, k3, k4⟩ := k
  refine ⟨?_, h2.trans k2, ?_, ?_⟩
  · rw [k1, h1]
  · unfold PorterWakes at *
    rw [k3, h3]
  · unfold SmbusLatches at *
    rw [k4, h4]

/-- A change of the mailboxes alone. -/
theorem OnlyMail.mbx (s : State) (m : Mailboxes) : OnlyMail s { s with mbx := m } := ⟨rfl, DeskSpeaks.rfl' _, rfl, rfl⟩

/-- A change of Front Desk's words alone. -/
theorem OnlyMail.desk (s : State) (d : Desk) (h : DeskSpeaks s.desk d) : OnlyMail s { s with desk := d } := ⟨rfl, h, rfl, rfl⟩

theorem settle_only (s : State) : OnlyMail s (settle s) := by
  rw [settle_eq]
  exact ⟨rfl, ⟨rfl, fun _ => rfl⟩, rfl, rfl⟩

/-- A wake touches Night Porter's wake state and timer only. -/
theorem wake_eq (code : BitVec 4) (s : State) : wake code s = { s with np := (wake code s).np } := by
  unfold wake
  repeat' split
  all_goals first | rfl | (simp only; repeat' split) <;> rfl

theorem wake_only (code : BitVec 4) (s : State) : OnlyMail s (wake code s) := by
  have h : PorterWakes s.np (wake code s).np := by
    unfold wake
    simp only
    repeat' split
    all_goals rfl
  rw [wake_eq]
  exact ⟨rfl, DeskSpeaks.rfl' _, h, rfl⟩

theorem notify_eq (s : State) (id : BellId) (b : Bell) : notify s id b = { s with desk := (notify s id b).desk } := by
  unfold notify
  split
  · split <;> rfl
  · rfl

theorem notify_only (s : State) (id : BellId) (b : Bell) : OnlyMail s (notify s id b) := by
  unfold notify
  split
  · split
    · exact OnlyMail.desk _ _ (raiseMsix_speaks _ _ _)
    · exact OnlyMail.refl _
  · exact OnlyMail.desk _ _ ⟨rfl, fun _ => rfl⟩

/-- The mailboxes after bits of a receiver's DB_PEND are set. -/
theorem ring_mbx (s : State) (id : BellId) (v : Word) : (ring s id v).mbx =
    match bellAt s.mbx id with
    | none => s.mbx
    | some b => setBell s.mbx id { b with pend := b.pend ||| v } := by
  unfold ring
  split
  · next h => simp [h]
  · next b h =>
    simp only [h]
    split
    · rfl
    · rw [notify_eq]

theorem ring_only (s : State) (id : BellId) (v : Word) : OnlyMail s (ring s id v) := by
  unfold ring
  split
  · exact OnlyMail.refl _
  · simp only
    split
    · exact OnlyMail.mbx _ _
    · exact (OnlyMail.mbx _ _).trans (notify_only _ _ _)

theorem bellAt_ring_same (s : State) (id : BellId) (v : Word) (x : Bell) (h : bellAt s.mbx id = some x) :
    bellAt (ring s id v).mbx id = some { x with pend := x.pend ||| v } := by
  rw [ring_mbx, h]
  exact bellAt_setBell_same _ _ _ _ h

theorem bellAt_ring_ne (s : State) (id x : BellId) (v : Word) (h : x ≠ id) :
    bellAt (ring s id v).mbx x = bellAt s.mbx x := by
  rw [ring_mbx]
  split
  · rfl
  · exact bellAt_setBell_ne _ _ _ _ h

@[simp] theorem boxAt_ring (s : State) (id : BellId) (v : Word) (x : BoxId) :
    boxAt (ring s id v).mbx x = boxAt s.mbx x := by
  rw [ring_mbx]
  split <;> simp

@[simp] theorem queueAt_ring (s : State) (id : BellId) (v : Word) (x : BoxId) :
    queueAt (ring s id v).mbx x = queueAt s.mbx x := by
  rw [ring_mbx]
  split <;> simp

/-! ## Words that travel to a peer (R251) -/

@[simp] theorem peerWrite_mbx (s : State) (p : Fin 16) (off : Nat) (v : Word) : (peerWrite s p off v).mbx = s.mbx := by
  unfold peerWrite
  split <;> rfl

theorem peerWrite_only (s : State) (p : Fin 16) (off : Nat) (v : Word) : OnlyMail s (peerWrite s p off v) := by
  unfold peerWrite
  split
  · exact OnlyMail.refl _
  · exact OnlyMail.desk _ _ ⟨rfl, fun _ => rfl⟩

@[simp] theorem carry_mbx (s : State) (b : BoxId) (off : Nat) (v : Word) : (carry s b off v).mbx = s.mbx := by
  unfold carry
  split <;> simp

theorem carry_only (s : State) (b : BoxId) (off : Nat) (v : Word) : OnlyMail s (carry s b off v) := by
  unfold carry
  split
  · exact peerWrite_only _ _ _ _
  · exact OnlyMail.refl _

@[simp] theorem wake_mbx (code : BitVec 4) (s : State) : (wake code s).mbx = s.mbx := by rw [wake_eq]
@[simp] theorem wake_desk (code : BitVec 4) (s : State) : (wake code s).desk = s.desk := by rw [wake_eq]
@[simp] theorem wake_fuses (code : BitVec 4) (s : State) : (wake code s).fuses = s.fuses := by rw [wake_eq]
@[simp] theorem wake_elec (code : BitVec 4) (s : State) : (wake code s).elec = s.elec := by rw [wake_eq]
@[simp] theorem wake_pending (code : BitVec 4) (s : State) : (wake code s).pending = s.pending := by rw [wake_eq]
@[simp] theorem wake_locks (code : BitVec 4) (s : State) : (wake code s).locks = s.locks := by rw [wake_eq]
@[simp] theorem wake_trng (code : BitVec 4) (s : State) : (wake code s).trng = s.trng := by rw [wake_eq]

/-! ## The events -/

/-- GO: its mailbox takes the message, and nothing changes but by notifications and a wake. -/
theorem goMail_mbx (s : State) (b : BoxId) : (goMail s b).mbx =
    (ring { s with mbx := updBox s.mbx b (goBox s.desk.now), desk := { s.desk with out := s.desk.out ++ [.mail b] } }
      (receiverBell b) mailBit).mbx := by
  unfold goMail
  simp only
  split <;> simp

theorem goMail_only (s : State) (b : BoxId) : OnlyMail s (goMail s b) := by
  have h1 : OnlyMail s { s with
      mbx := updBox s.mbx b (goBox s.desk.now), desk := { s.desk with out := s.desk.out ++ [.mail b] } } :=
    ⟨rfl, ⟨rfl, fun _ => rfl⟩, rfl, rfl⟩
  have h2 := (h1.trans (ring_only _ (receiverBell b) mailBit)).trans (carry_only _ b 0x44 1)
  unfold goMail
  simp only
  split
  · exact h2.trans (wake_only _ _)
  · exact h2

theorem boxAt_goMail_same (s : State) (b : BoxId) : boxAt (goMail s b).mbx b = goBox s.desk.now (boxAt s.mbx b) := by
  rw [goMail_mbx, boxAt_ring]
  exact boxAt_updBox_same _ _ _

theorem boxAt_goMail_ne (s : State) (b x : BoxId) (h : x ≠ b) : boxAt (goMail s b).mbx x = boxAt s.mbx x := by
  rw [goMail_mbx, boxAt_ring]
  exact boxAt_updBox_ne _ _ _ _ h

theorem bellAt_goMail_same (s : State) (b : BoxId) (x : Bell) (h : bellAt s.mbx (receiverBell b) = some x) :
    bellAt (goMail s b).mbx (receiverBell b) = some { x with pend := x.pend ||| mailBit } := by
  rw [goMail_mbx]
  exact bellAt_ring_same _ _ _ _ (by simpa using h)

theorem bellAt_goMail_ne (s : State) (b : BoxId) (x : BellId) (h : x ≠ receiverBell b) :
    bellAt (goMail s b).mbx x = bellAt s.mbx x := by
  rw [goMail_mbx, bellAt_ring_ne _ _ _ _ h]
  simp

@[simp] theorem queueAt_goMail (s : State) (b x : BoxId) : queueAt (goMail s b).mbx x = queueAt s.mbx x := by
  rw [goMail_mbx]
  simp

/-- The receiver of a mailbox is not its sender. -/
theorem receiverBell_ne (b : BoxId) : receiverBell b ≠ senderBell b := by
  cases b <;> simp [receiverBell, senderBell]

/-- An acknowledge write: what it does to the mailboxes, and that nothing else changes but by notifications. -/
theorem ackMail_only (s : State) (b : BoxId) (v : Word) : OnlyMail s (ackMail s b v) := by
  unfold ackMail
  simp only
  have h1 : OnlyMail s { s with mbx := updBox s.mbx b (ackBox v) } := OnlyMail.mbx _ _
  cases b <;> simp only [receiverBell, bellAt] <;> split <;>
    first
    | exact ((h1.trans (OnlyMail.mbx _ _)).trans (ring_only _ _ _)).trans (peerWrite_only _ _ _ _)
    | exact (h1.trans (OnlyMail.mbx _ _)).trans (ring_only _ _ _)
    | exact h1.trans (ring_only _ _ _)
    | exact h1.trans (peerWrite_only _ _ _ _)
    | exact h1

theorem boxAt_ackMail (s : State) (b x : BoxId) (v : Word) :
    boxAt (ackMail s b v).mbx x = boxAt (updBox s.mbx b (ackBox v)) x := by
  unfold ackMail
  cases b <;> simp only [receiverBell, bellAt] <;> split <;> simp

theorem withdrawMail_only (s : State) (b : BoxId) : OnlyMail s (withdrawMail s b) := by
  unfold withdrawMail
  simp only
  cases b <;> exact (OnlyMail.trans (OnlyMail.mbx _ _) (ring_only _ _ _))

theorem postMail_only (s : State) (b : BoxId) (m : Mail) : OnlyMail s (postMail s b m) := by
  unfold postMail
  simp only
  cases b <;> simp only <;> first | exact OnlyMail.mbx _ _ | (split <;> exact OnlyMail.refl _)

end Sys2Proof.Machine
end

