-- ==== Sys2Proof/Laws/Memory.lean ====
section
/-!
SUPPORT. The sparse memories: a read after a write, and the canonical form that every memory operation keeps.
-/
namespace Sys2Proof.Machine

/-! ## Read after write -/

theorem cellRead_filter_ne (l : List Host.Cell) {a x : Nat} (hx : x ≠ a) :
    cellRead (l.filter fun c => c.1 != a) x = cellRead l x := by
  induction l with
  | nil => rfl
  | cons c cs ih =>
    simp only [List.filter_cons, bne_iff_ne, ne_eq]
    split
    · simp only [cellRead, ih]
    · have h : c.1 ≠ x := by omega
      simp only [cellRead, h, if_false, ih]

theorem cellRead_filter_same (l : List Host.Cell) (a : Nat) : cellRead (l.filter fun c => c.1 != a) a = 0 := by
  induction l with
  | nil => rfl
  | cons c cs ih =>
    simp only [List.filter_cons, bne_iff_ne, ne_eq]
    split
    · rename_i h
      simp only [cellRead, h, if_false, ih]
    · exact ih

theorem cellRead_insert_ne (l : List Host.Cell) {a x : Nat} (b : Byte) (hx : x ≠ a) :
    cellRead (cellInsert l a b) x = cellRead l x := by
  induction l with
  | nil => simp [cellInsert, cellRead, hx.symm]
  | cons c cs ih =>
    unfold cellInsert
    split
    · simp only [cellRead, hx.symm, if_false]
    · simp only [cellRead, ih]

theorem cellRead_insert_same {l : List Host.Cell} {a : Nat} (b : Byte) (h : ∀ c ∈ l, c.1 ≠ a) :
    cellRead (cellInsert l a b) a = b := by
  induction l with
  | nil => simp [cellInsert, cellRead]
  | cons c cs ih =>
    unfold cellInsert
    split
    · simp [cellRead]
    · have hc := h c (by simp)
      simp only [cellRead, hc, if_false]
      exact ih fun x hx => h x (by simp [hx])

/-- A byte reads as it was last written. -/
theorem cellRead_write_same (l : List Host.Cell) (a : Nat) (b : Byte) : cellRead (cellWrite l a b) a = b := by
  unfold cellWrite
  split
  · rename_i h
    rw [h]
    exact cellRead_filter_same l a
  · exact cellRead_insert_same b fun c hc => by simpa using (List.mem_filter.1 hc).2

/-- Every other byte reads as before. -/
theorem cellRead_write_ne (l : List Host.Cell) {a x : Nat} (b : Byte) (hx : x ≠ a) :
    cellRead (cellWrite l a b) x = cellRead l x := by
  unfold cellWrite
  split
  · exact cellRead_filter_ne l hx
  · rw [cellRead_insert_ne _ b hx, cellRead_filter_ne l hx]

/-! ## The canonical form -/

theorem mem_cellInsert {l : List Host.Cell} {a : Nat} {b : Byte} {c : Host.Cell} (h : c ∈ cellInsert l a b) :
    c ∈ l ∨ c = (a, b) := by
  induction l with
  | nil => exact .inr (by simpa [cellInsert] using h)
  | cons x xs ih =>
    unfold cellInsert at h
    split at h
    · rcases List.mem_cons.1 h with h | h
      · exact .inr h
      · exact .inl h
    · rcases List.mem_cons.1 h with h | h
      · exact .inl (by simp [h])
      · exact (ih h).imp (List.mem_cons_of_mem _) id

theorem cellInsert_rising {l : List Host.Cell} (h : l.Pairwise fun x y => x.1 < y.1) {a : Nat} (b : Byte)
    (ha : ∀ c ∈ l, c.1 ≠ a) : (cellInsert l a b).Pairwise fun x y => x.1 < y.1 := by
  induction l with
  | nil => simp [cellInsert]
  | cons c cs ih =>
    have hc := List.pairwise_cons.1 h
    unfold cellInsert
    split
    · refine List.pairwise_cons.2 ⟨fun x hx => ?_, h⟩
      rcases List.mem_cons.1 hx with e | e
      · rw [e]; assumption
      · exact Nat.lt_trans ‹_› (hc.1 x e)
    · refine List.pairwise_cons.2 ⟨fun x hx => ?_, ih hc.2 fun x hx => ha x (by simp [hx])⟩
      rcases mem_cellInsert hx with e | e
      · exact hc.1 x e
      · have := ha c (by simp)
        rw [e]
        simp only
        omega

/-- What a reset keeps of device memory has its canonical form. -/
theorem filter_wf {l : List Host.Cell} (h : CellsWf l) (f : Host.Cell → Bool) : CellsWf (l.filter f) :=
  ⟨h.1.filter f, fun c hc => h.2 c (List.mem_filter.1 hc).1⟩

/-- A byte written keeps the canonical form. -/
theorem cellWrite_wf {l : List Host.Cell} (h : CellsWf l) (a : Nat) (b : Byte) : CellsWf (cellWrite l a b) := by
  have hf := filter_wf h fun c => c.1 != a
  unfold cellWrite
  split
  · exact hf
  · refine ⟨cellInsert_rising hf.1 b fun c hc => by simpa using (List.mem_filter.1 hc).2, fun c hc => ?_⟩
    rcases mem_cellInsert hc with e | e
    · exact hf.2 c e
    · rw [e]; assumption

theorem cellWrites_wf {l : List Host.Cell} (h : CellsWf l) (a : Nat) (bs : Bytes) : CellsWf (cellWrites l a bs) := by
  induction bs generalizing l a with
  | nil => exact h
  | cons b bs ih => exact ih (cellWrite_wf h a b) (a + 1)

theorem cellWritesBut_wf {l : List Host.Cell} (h : CellsWf l) (keep : List Nat) (a : Nat) (bs : Bytes) :
    CellsWf (cellWritesBut keep l a bs) := by
  induction bs generalizing l a with
  | nil => exact h
  | cons b bs ih =>
    unfold cellWritesBut
    split
    · exact ih h (a + 1)
    · exact ih (cellWrite_wf h a b) (a + 1)

/-- Bytes outside a run that is written read as before. -/
theorem cellRead_writes_ne (l : List Host.Cell) {a x : Nat} (bs : Bytes)
    (hx : x < a ∨ a + bs.length ≤ x) : cellRead (cellWrites l a bs) x = cellRead l x := by
  induction bs generalizing l a with
  | nil => rfl
  | cons b bs ih =>
    simp only [List.length_cons] at hx
    unfold cellWrites
    rw [ih (cellWrite l a b) (by omega), cellRead_write_ne l b (by omega)]

/-- Bytes of a run that is written read as written. -/
theorem cellRead_writes_same (l : List Host.Cell) (a : Nat) (bs : Bytes) (i : Nat) (hi : i < bs.length) :
    cellRead (cellWrites l a bs) (a + i) = bs[i] := by
  induction bs generalizing l a i with
  | nil => simp at hi
  | cons b bs ih =>
    unfold cellWrites
    cases i with
    | zero =>
      rw [cellRead_writes_ne (cellWrite l a b) bs (by omega)]
      exact cellRead_write_same l a b
    | succ i =>
      have := ih (cellWrite l a b) (a + 1) i (by simpa using hi)
      rw [show a + 1 + i = a + (i + 1) by omega] at this
      simpa using this

/-- A write to device memory keeps its canonical form. -/
theorem memStore_wf {m : Memory} (h : m.wf) (a : Nat) (bs : Bytes) : (memStore m a bs).wf := by
  unfold Memory.wf memStore
  simp only
  split
  · exact cellWrites_wf h a bs
  · exact cellWritesBut_wf h _ a bs

/-- A write to the partner's memory keeps its canonical form. -/
theorem hostStore_wf {p : Port} (h : CellsWf p.host) (a : Nat) (bs : Bytes) (src : BitVec 2) :
    CellsWf (hostStore p a bs src).1.host := by
  unfold hostStore
  split
  · exact cellWrites_wf h a bs
  · exact h

@[simp] theorem markDue_cells (m : Memory) (h : Fin 12) (row : Nat) : (markDue m h row).cells = m.cells := by
  unfold markDue
  split <;> rfl

@[simp] theorem findUe_cells (m : Memory) (a : Nat) : (findUe m a).cells = m.cells := by
  unfold findUe
  split
  · rfl
  · simp only
    split
    · exact markDue_cells _ _ _
    · rfl

/-- Counting an uncorrectable read changes no byte. -/
@[simp] theorem countUe_cells (m : Memory) (a : Nat) : (countUe m a).cells = m.cells := by
  unfold countUe
  simp only
  split <;> exact findUe_cells m a

@[simp] theorem noteUe_cells (d : Desk) (a : Nat) (q : Option Nat) (k : Nat) : (noteUe d a q k).mem.cells = d.mem.cells := by
  simp [noteUe]

@[simp] theorem noteUe_ports (d : Desk) (a : Nat) (q : Option Nat) (k : Nat) : (noteUe d a q k).ports = d.ports := rfl

/-- The memory of the module right after reset has the canonical form. -/
theorem reset_mem_wf : State.reset.desk.mem.wf := by decide

end Sys2Proof.Machine
end

