-- ==== Sys2Proof/Machine/AccGroups.lean ====
section
/-!
DEFINITION. The memories of a spin tile as they stand (Table 1.2): accumulator memory (R159 to R162), spin store (R52) and coupling
scratchpad (R112, R113, R145). No command reads them whole; TILE_STORE and READ_STATE read parts of them.
-/
namespace Sys2Proof.Machine

/-- The slot whose state a logical tile holds in its present generation, with its image and the job tile. -/
def tileState (d : Desk) (l : Nat) : Option (Slot × Image × Nat) :=
  match d.tiles.holds.at (fin 256 l) with
  | some h => match (d.slots.at h.slot).image with
    | some g => if (d.slots.at h.slot).gen = h.gen then some (d.slots.at h.slot, g, h.job) else none
    | none => none
  | none => none

/-- The bits of lane `c` of row `r` among the rows left behind. -/
def leftWord : List RowRun → Nat → Nat → BitVec 64
  | [], _, _ => 0
  | x :: xs, r, c =>
    if x.first ≤ r ∧ r < x.first + x.count then
      match x.bits with
      | .words w => w.getD (256 * (r - x.first) + c) 0
      | .free n => Config.freeValue (n + 256 * (r - x.first) + c)
    else leftWord xs r c

/-- The lane word in lane `c` of row `r` of a tile's ACM (R159, R160): a field or a bias while the slot's group is open, a statistic
while that of a CORRELATE is, and the bits last left there otherwise. -/
def acmWord (d : Desk) (l r c : Nat) : BitVec 64 :=
  let u := d.tiles.units.at (fin 256 l)
  match tileState d l with
  | some (s, g, j) =>
    if r < 17 * homeCount g j then (laneWords (rowLanes s (tileRow g j r))).getD c 0
    else
      let q := u.active.at 1
      if q.open_ ∧ q.mode = 1 ∧ q.firstRow ≤ r ∧ r < q.firstRow + q.rows then
        match s.user.bind fun n => (d.sqs.at n).cur with
        | some x => (laneWords (statLanes g s.ann j (cmdPairs x) r)).getD c 0
        | none => leftWord u.rows r c
      else leftWord u.rows r c
  | none => leftWord u.rows r c

/-- Accumulation group `n` of a tile (R162). -/
def accGroup (d : Desk) (l : Nat) (n : Fin 4) : GroupReg := (d.tiles.units.at (fin 256 l)).active.at n

/-- Byte `o` of a tile's spin store while it holds a slot (R52): spin bits of home slot σ, replica k, at 32(16σ + k), then the int16
bias codes at 32,768. -/
def spsByte (d : Desk) (l o : Nat) : Byte :=
  match tileState d l with
  | some (s, g, j) =>
    let ws := tileWindows g j
    if o < 32768 then
      let x := (s.ann.spins.getD (o / 32 % 16) []).getD (g.pos (ws.getD (o / 512) 0)) 0
      if o / 512 < ws.length then BitVec.ofNat 8 (x.toNat / 2 ^ (8 * (o % 32)) % 256) else 0
    else
      let q := (o - 32768) / 2
      if q / 256 < ws.length then
        (intBytes 2 (geti g.codes (256 * g.pos (ws.getD (q / 256) 0) + q % 256))).getD ((o - 32768) % 2) 0
      else 0
  | none => 0

/-- The coupling blocks in a tile's scratchpad, by their place in the list (R112, R113): the resident ones, and those in the fetch
buffers of a streaming tile. -/
def cpsBlocks (d : Desk) (l : Nat) : List Nat :=
  match tileState d l with
  | some (s, g, j) =>
    let t := j % g.t
    let out := streamedBlocks g t
    (residentOrder g t).filter (fun i => !out.contains i) ++ (tileBufs s t).full ++ (tileBufs s t).filling
  | none => []

/-- Groups that a slot's command opens together lie in rows of their own, at most four of them (R162). -/
theorem statGroups_apart (g : Image) (t : Nat) (pairs : List (Nat × Nat)) (add : Bool) (terms : Nat) :
    [fieldGroup g t, statGroup g t pairs add terms].length ≤ 4 ∧
      [fieldGroup g t, statGroup g t pairs add terms].Pairwise fun a b => a.firstRow + a.rows ≤ b.firstRow := by
  simp [fieldGroup, statGroup]

end Sys2Proof.Machine
end

