-- ==== Sys2Proof/Machine/RegView.lean ====
section
/-!
DEFINITION. What every register of BAR0 reads (R394, Table 18.1, and the table of each block), and what the function's
configuration header says (R261). A read without a side effect changes nothing and the table has no row for it, so these are
views of the state, which holds each value once. Of a register whose read has a side effect this is the value that the read
would return; the effect is its row's (NOW_READ, FENCE_VALUE_READ, LOCK_READ, TRNG_DATA_READ), and `barReadRun` says what a longer read
comes to.
-/
namespace Sys2Proof.Machine

/-- A number as a register word. -/
def word (n : Nat) : Word := BitVec.ofNat 32 n

/-- One half of a 64-bit value: [31:0] at the lower offset. -/
def half (x : BitVec 64) (hi : Bool) : Word := if hi then x.extractLsb' 32 32 else x.extractLsb' 0 32

/-- One half of a count. -/
def halfNat (x : Nat) (hi : Bool) : Word := if hi then word (x / 2 ^ 32) else word x

/-- The little-endian word at an offset of some bytes. -/
def wordAt (b : Bytes) (off : Nat) : Word := word (field b off 4)

/-! ## CAP (Tables 18.2 and 18.3) -/

/-- DEVICE_ID (R397). -/
def deviceId : Grade → Nat
  | .ktk9480 => 0x9480
  | .ktk9460 => 0x9460
  | .ktk9440 => 0x9440

/-- VENDOR_ID, Nehagrim Devices (R397). -/
def vendorId : Nat := 0x1E6B

/-- The CAP block, through the function of UPp. -/
def capRead (s : State) (p : Fin 4) (off : Nat) : Word :=
  match off with
  | 0x00 => word (vendorId + 65536 * deviceId s.fuses.grade)
  | 0x04 => word (s.fuses.revision.toNat + 256)
  | 0x08 => half s.fuses.serial false
  | 0x0C => half s.fuses.serial true
  | 0x10 => gradeUnits s.fuses.grade
  | 0x14 => word (p.val + 4 * (partnerId p).val)
  | _ => 0

/-- The Type 0 configuration header of a function, as far as R261 gives it. -/
structure ConfigHeader where
  vendor : Nat
  device : Nat
  subVendor : Nat
  subsystem : Nat
  classCode : Nat      -- base class, subclass, programming interface
  revision : Nat
  serial : BitVec 64   -- the Device Serial Number capability
deriving DecidableEq, Repr

/-- The header of every function of the module (R261). -/
def configHeader (s : State) : ConfigHeader :=
  ⟨vendorId, deviceId s.fuses.grade, vendorId, deviceId s.fuses.grade, 0x120000, s.fuses.revision.toNat, s.fuses.serial⟩

/-! ## GCTL (Tables 8.1 and 8.2) -/

/-- The GCTL block, by offset from 0x000_1000. -/
def gctlRead (s : State) (off : Nat) : Word :=
  let g := s.desk.gctl
  match off with
  | 0x00 => word (b2n g.detStrict + 2 * b2n g.fixedTiming + 4 * g.timingClass.toNat)
  | 0x04 => word g.ckpt.toNat
  | 0x08 => g.epoch
  | 0x0C => g.fwVersion
  | 0x10 => word s.np.f
  | _ => 0

/-! ## Queues, SLICE, NOW and fences (Tables 9.1 to 9.6) -/

/-- SQn_STATUS (Table 9.3). -/
def sqStatus (d : Desk) (n : Fin 64) : Word :=
  let q := d.sqs.at n
  word (b2n q.enable + 2 * b2n q.cfgErr + 4 * b2n q.tailErr + 8 * b2n (fenceBlocked d n) +
    16 * b2n (q.enable && (q.tail.toNat + 1) % q.len == q.head.toNat))

/-- The registers of SQn, by offset. -/
def sqRead (d : Desk) (n : Fin 64) (off : Nat) : Word :=
  let q := d.sqs.at n
  match off with
  | 0x00 => word (b2n q.enable + 2 * q.log2.toNat + 32 * q.cq.toNat)
  | 0x04 => word q.base.toNat
  | 0x08 => word q.tail.toNat
  | 0x0C => word q.head.toNat
  | 0x10 => sqStatus d n
  | 0x14 => word q.hang.toNat
  | _ => 0

/-- The registers of CQn, by offset. -/
def cqRead (d : Desk) (n : Fin 64) (off : Nat) : Word :=
  let c := d.cqs.at n
  match off with
  | 0x00 => word (b2n c.enable + 2 * c.log2.toNat + 32 * c.vector.toNat + 2048 * b2n c.irq + 4096 * b2n c.report)
  | 0x04 => half c.base false
  | 0x08 => half c.base true
  | 0x0C => word c.head.toNat
  | 0x10 => word (c.tail.toNat + 4096 * b2n c.phase)
  | 0x14 => half c.rpt false
  | 0x18 => half c.rpt true
  | 0x1C => word (b2n (c.enable && cqFull c) + 2 * b2n c.windowGone + 4 * b2n c.cfgErr)
  | _ => 0

/-- The registers of a fence; those of the fences of an absent port read 0 (R395). -/
def fenceRead (g : Grade) (d : Desk) (f : Fin 256) (off : Nat) : Word :=
  if portPresent g (fin 4 (f.val / 64)) then
    match off with
    | 0x0 => half (d.fences.at f).value false
    | 0x4 => (d.fences.at f).hiLatch
    | 0x8 => word (b2n (d.fences.at f).err)
    | _ => 0
  else 0

/-- The module-wide registers of SQC, by offset from 0x001_1000. -/
def sqcRead (g : Grade) (d : Desk) (off : Nat) : Word :=
  if off = 0x00 then word d.slice.toNat
  else if off = 0x08 then halfNat d.now false
  else if off = 0x0C then d.nowHi
  else if 0x1000 ≤ off ∧ off < 0x2000 then fenceRead g d (fin 256 ((off - 0x1000) / 16)) (off % 16)
  else 0

/-! ## The regions of a port (Tables 10.2, 11.5 to 11.7) -/

/-- The host pair and doorbells of UPp, by offset. -/
def mbxRead (s : State) (p : Fin 4) (off : Nat) : Word :=
  match off with
  | 0x150 => word (s.mbx.dropped.at p)
  | 0x210 => (s.mbx.host.at p).pend
  | 0x214 => (s.mbx.host.at p).mask
  | 0x218 => word ((s.mbx.host.at p).vector.toNat + 64 * b2n (s.mbx.host.at p).irq)
  | _ => pairRead s (.h2f p) (.f2h p) off

/-- DW_FAULT_INFO (Table 11.7). -/
def dwFaultInfo (f : DwFault) : Word :=
  word (b2n f.valid + 2 * b2n f.write + 4 * f.source.toNat + 16 * f.sq.toNat + 4096 * b2n f.hwa)

/-- A register of a DMA window. -/
def dwRead (w : DmaWindow) (off : Nat) : Word :=
  match off with
  | 0x0 => half w.base false
  | 0x4 => half w.base true
  | 0x8 => word w.pagesM1.toNat
  | 0xC => word (b2n w.en + 2 * b2n w.rd + 4 * b2n w.wr)
  | _ => 0

/-- A register of an aperture window (Table 11.5). -/
def apwRead (w : Aperture) (hi : Bool) : Word :=
  if hi then word (w.base.toNat / 4) else word (b2n w.en + 2 ^ 30 * (w.base.toNat % 4))

/-- The DWT region of a port, by offset. -/
def dwtRead (q : Port) (off : Nat) : Word :=
  if off < 0x400 then dwRead (q.dw.at (fin 64 (off / 16))) (off % 16)
  else if off < 0x600 then apwRead (q.apw.at (fin 64 ((off - 0x400) / 8))) (off % 8 == 4)
  else match off with
    | 0x600 => half q.fault.addr false
    | 0x604 => half q.fault.addr true
    | 0x608 => dwFaultInfo q.fault
    | 0x60C => word q.faultCount
    | 0x610 => word q.apwErr
    | 0x614 => word q.apwUe
    | _ => 0

/-- The MSI-X table and the pending-bit array of a function, by offset from 0x3F0_0000 (R265). -/
def msixRead (q : Port) (off : Nat) : Word :=
  if off < 0x400 then
    let e := q.msix.at (fin 64 (off / 16))
    match off % 16 with
    | 0x0 => half e.addr false
    | 0x4 => half e.addr true
    | 0x8 => e.data
    | 0xC => word (b2n e.mask)
    | _ => 0
  else if off = 0x1000 ∨ off = 0x1004 then
    word ((List.range 32).foldl (fun a i => a + b2n (q.pba.at (fin 64 (8 * (off - 0x1000) + i))) * 2 ^ i) 0)
  else 0

/-! ## Itineraries and the Ledger (R224, Tables 8.12 and 8.13, R201) -/

/-- ITINn_STATUS (R224). -/
def itinStatus (i : Itin) : Word :=
  word (i.packets.length + 8192 * match i.owner with | some p => p.val | none => 0)

/-- The ITP block, by offset from 0x005_0000. -/
def itpRead (d : Desk) (off : Nat) : Word :=
  if off < 0x10000 then wordAt (d.itins.at (fin 256 (off / 256))).window (off % 256)
  else if off < 0x10400 then itinStatus (d.itins.at (fin 256 ((off - 0x10000) / 4)))
  else 0

/-- The LGR block, by offset from 0x009_0000: registers, then the ring of 256 records. -/
def lgrRead (d : Desk) (off : Nat) : Word :=
  let l := d.ledger
  if 0x8000 ≤ off then wordAt (l.ring.at (fin 256 ((off - 0x8000) / 128))) (off % 128)
  else match off with
    | 0x00 => word (b2n l.enable)
    | 0x04 => half l.base false
    | 0x08 => half l.base true
    | 0x0C => word l.log2.toNat
    | 0x10 => halfNat l.head false
    | 0x14 => halfNat l.head true
    | 0x18 => halfNat l.mirrored false
    | 0x1C => halfNat l.mirrored true
    | 0x20 => half l.tail false
    | 0x24 => half l.tail true
    | 0x28 => word (b2n l.lag + 2 * b2n l.lost + 4 * b2n l.windowGone)
    | 0x2C => word l.lostCount
    | 0x30 => d.bootId
    | _ => 0

/-! ## TRNG (Tables 17.3 to 17.5) -/

/-- The code of the state of the random source. -/
def trngCode : TrngState → Nat
  | .startup => 0 | .ready => 1 | .requal => 2 | .off => 3

/-- The TRNG block as a requester reads it, by offset from 0x00A_0000. -/
def trngBlockRead (t : Trng) (who : Requester) (off : Nat) : Word :=
  if 0x100 ≤ off ∧ off < 0x158 then
    let x := t.src.at (fin 11 ((off - 0x100) / 8))
    if off % 8 = 0 then word x.onesOut else if off % 8 = 4 then word x.pairsOut else 0
  else match off with
    | 0x00 => t.pool.headD 0
    | 0x04 => t.latch.at who
    | 0x08 => word (trngCode t.state + 4 * t.attempt + 65536 * t.pool.length)
    | 0x0C => word t.fails
    | 0x10 => t.lastFail
    | _ => 0

/-! ## NPI (Tables 14.9 to 14.11) -/

/-- NPI.STATE (Table 14.10). -/
def npiState (p : Porter) : Word :=
  word (stateCode p.state + 8 * b2n (!p.memPaths.isEmpty) + 16 * b2n p.capThrottle + 32 * b2n p.thermalThrottle +
    64 * b2n p.limiter + 128 * b2n p.tripHold + 256 * b2n p.tripLatched + 512 * b2n p.npRestart)

/-- The limiter ceiling of a grade in watts (R337). -/
def limiterCeiling : Grade → Nat
  | .ktk9480 => 2300
  | .ktk9460 => 2010
  | .ktk9440 => 1090

/-- NPI.AGEING_STATE (Table 14.11). -/
def ageingState (p : Porter) : Word :=
  word (p.voff % 32 + 256 * (p.steps % 256) + 65536 * (p.worst % 16) + 2 ^ 20 * min p.plans 255)

/-- The NPI block, by offset from 0x00B_0000. -/
def npiRead (g : Grade) (p : Porter) (off : Nat) : Word :=
  if 0x100 ≤ off ∧ off < 0x300 ∧ off % 4 = 0 then
    if filterThere g ((off - 0x100) / 4) then word (p.filt.at (fin 128 ((off - 0x100) / 4))).toNat else 0
  else if 0x400 ≤ off ∧ off < 0x600 ∧ off % 4 = 0 then BitVec.ofInt 32 (p.val.at (fin 128 ((off - 0x400) / 4)))
  else if 0x600 ≤ off ∧ off < 0x800 ∧ off % 4 = 0 then BitVec.ofInt 32 (p.raw.at (fin 128 ((off - 0x600) / 4)))
  else match off with
    | 0x00 => npiState p
    | 0x04 => word p.idleNap.toNat
    | 0x08 => word p.napDoze.toNat
    | 0x0C => word p.dozeNight.toNat
    | 0x10 => word p.floor.toNat
    | 0x14 => word p.pcapHost.toNat
    | 0x18 => word (p.cap + 65536 * p.trayNow.toNat)
    | 0x1C => word (limiterCeiling g)
    | 0x20 => word (2000 - 25 * p.steps + 65536 * p.gate)
    | 0x24 => ageingState p
    | 0x28 => word p.hours
    | 0x2C => word p.nextPlan
    | 0x30 => word p.wakeCause.toNat
    | 0x34 => word p.throttleCount
    | 0x38 => word p.limiterCount
    | 0x3C => word (min p.trips 255)
    | _ => 0

/-! ## ERRS (Tables 13.6, 15.5 to 15.8) -/

/-- ERRS.LOSTk (Table 15.5): the logical tiles of present dies that nothing serves. -/
def lostTiles (g : Grade) (d : Desk) (k : Nat) : Word :=
  word ((List.range 32).foldl (fun a j =>
    a + b2n (decide (32 * k + j < 64 * gradeDies g) && !tileServed g d (32 * k + j)) * 2 ^ j) 0)

/-- DIEd_TILES (Table 15.7). -/
def dieTilesWord (g : Grade) (d : Desk) (die : Fin 4) : Word :=
  if die.val < gradeDies g then
    word ((d.tiles.spares.at die).length + 8 * b2n (d.tiles.disabled.at die) +
      16 * (dieTiles (tileServed g d) die.val).length + 2048 * (d.tiles.retired.filter fun x => x.1 == die).length)
  else 0

/-- The memory counters of ERRS, by offset from 0x00C_0800 (Table 13.6). -/
def memCountRead (g : Grade) (m : Memory) (off : Nat) : Word :=
  if off < 0xC0 then
    let h := fin 12 (off / 16)
    if h.val < 3 * gradeDies g then
      let c := m.hbm.at h
      match off % 16 with
      | 0x0 => word c.ce
      | 0x4 => word c.ue
      | 0x8 => word (c.sparesLeft.toNat + 256 * c.softRepairs.toNat + 65536 * b2n c.noSpare)
      | 0xC => c.lastUe
      | _ => 0
    else 0
  else if 0x100 ≤ off ∧ off < 0x300 then
    if gradeLp g then
      let c := m.lp.at (fin 32 ((off - 0x100) / 16))
      match off % 16 with
      | 0x0 => word c.ce
      | 0x4 => word c.ue
      | 0x8 => word c.rows
      | 0xC => c.lastUe
      | _ => 0
    else 0
  else if 0x300 ≤ off ∧ off < 0x340 then
    let i := fin 4 ((off - 0x300) / 16)
    if i.val < gradeDies g then
      match off % 16 with
      | 0x0 => word (m.sram.at i).ce
      | 0x4 => word (m.sram.at i).ue
      | 0x8 => word (m.sram.at i).scrub
      | _ => 0
    else 0
  else match off with
    | 0x340 => word m.hubCe
    | 0x344 => word m.hubUe
    | _ => 0

/-- The ERRS block, by offset from 0x00C_0000. -/
def errsRead (s : State) (off : Nat) : Word :=
  let g := s.fuses.grade
  let e := s.desk.errs
  if 0x800 ≤ off then memCountRead g s.desk.mem (off - 0x800)
  else if 0x20 ≤ off ∧ off < 0x40 ∧ off % 4 = 0 then lostTiles g s.desk ((off - 0x20) / 4)
  else if 0x100 ≤ off ∧ off < 0x140 ∧ off % 16 = 0 then dieTilesWord g s.desk (fin 4 ((off - 0x100) / 16))
  else if 0x400 ≤ off ∧ off < 0x500 then wordAt (logBytes (e.log.at (fin 16 ((off - 0x400) / 16)))) (off % 16)
  else match off with
    | 0x00 => word (errsStatus s)
    | 0x04 => word (servedCount g s.desk)
    | 0x08 => word e.resetCause.toNat
    | 0x0C => word e.remaps
    | 0x10 => word e.replays
    | 0x14 => word e.dataLost
    | 0x18 => word e.twinReads
    | 0x500 => word (e.logHead.val + 65536 * e.logCount)
    | _ => 0

/-! ## SEC (Table 16.8) -/

/-- SEC.FW_SLOTS. -/
def fwSlotsWord (x : Secure) : Word :=
  word (x.fd.active.val + 2 * x.np.active.val + 4 * b2n x.fd.pending.isSome + 8 * b2n x.np.pending.isSome +
    16 * b2n x.fd.reverted + 32 * b2n x.np.reverted + 64 * b2n x.recovered)

/-- The SEC block, by offset from 0x00D_0000. -/
def secRead (x : Secure) (off : Nat) : Word :=
  match off with
  | 0x00 => word (lcCode x.lifecycle + 8 * b2n x.tampered + 256 * x.lcCount.toNat)
  | 0x04 => fwSlotsWord x
  | 0x0C => word (x.fwResult.toNat + 256 * x.fwImage.toNat)
  | 0x10 => x.fd.rollback
  | 0x14 => x.np.rollback
  | 0x18 => x.npVersion
  | 0x20 => word x.idLeaf
  | 0x24 => word x.attLeaf
  | 0x28 => match x.attKey with
    | some k => word k.number
    | none => 0xFFFFFFFF#32
  | 0x2C => word (wipeWord x)
  | _ => 0

/-! ## FAB (Tables 12.8 and 12.9) -/

/-- SLp_STATE.LINK. -/
def linkCode : LinkState → Nat
  | .absent => 0 | .training => 1 | .up => 2 | .down => 3

/-- FAB.PEERS: bit m set when module m is a peer. -/
def peerBits (f : Fabric) : Nat :=
  (List.range 64).foldl (fun a m => a + b2n (f.peers.any fun x => x.id.toNat == m) * 2 ^ m) 0

/-- The registers of SLp, by offset. -/
def slRead (q : FabPort) (off : Nat) : Word :=
  match off with
  | 0x0 => word (linkCode q.link + 4 * q.peerId.toNat + 256 * q.peerPort.toNat + 4096 * b2n q.cableErr + 8192 * b2n q.dupId)
  | 0x4 => word q.retries
  | 0x8 => word q.retrains
  | 0xC => word q.errs
  | _ => 0

/-- The FAB block, by offset from 0x00E_0000; without a fabric it reads 0 (R301). -/
def fabRead (s : State) (off : Nat) : Word :=
  let f := s.fab
  let g := s.fuses.grade
  if gradeSl g = 0 then 0
  else if 0x100 ≤ off ∧ off < 0x300 then
    if (off - 0x100) / 0x20 < gradeSl g then slRead (f.ports.at (fin 16 ((off - 0x100) / 0x20))) (off % 0x20) else 0
  else match off with
    | 0x00 => word f.timeout.toNat
    | 0x04 => word (s.elec.moduleId.toNat + 64 * (s.elec.moduleId.toNat % 8) + 512 * (s.elec.moduleId.toNat / 8))
    | 0x08 => word (peerBits f)
    | 0x0C => word (peerBits f / 2 ^ 32)
    | 0x10 => f.gen
    | _ => 0

/-! ## The block map (Table 18.1) -/

/-- A read of a block of the module. -/
def modRead (s : State) (p : Fin 4) (off : Nat) : Word :=
  let g := s.fuses.grade
  if off < 0x10000 then gctlRead s (off - 0x1000)
  else if off < 0x20000 then sqcRead g s.desk (off - 0x11000)
  else if off < 0x40000 then
    match lockOffset off 0x38000 with
    | some n => word (lockValue s.locks n)
    | none => lockStatus s.locks off
  else if off < 0x50000 then
    if off < 0x48100 ∧ portPresent g (fin 4 ((off - 0x48000) / 0x40)) then
      wordAt (guestBytes (s.desk.ports.at (fin 4 ((off - 0x48000) / 0x40))).guest) (off % 0x40)
    else 0
  else if off < 0x90000 then itpRead s.desk (off - 0x50000)
  else if off < 0xA0000 then lgrRead s.desk (off - 0x90000)
  else if off < 0xB0000 then trngBlockRead s.trng (partnerId p) (off - 0xA0000)
  else if off < 0xC0000 then npiRead g s.np (off - 0xB0000)
  else if off < 0xD0000 then errsRead s (off - 0xC0000)
  else if off < 0xE0000 then secRead s.sec (off - 0xD0000)
  else if off < 0xF0000 then fabRead s (off - 0xE0000)
  else if 0x3F00000 ≤ off ∧ off < 0x3F02000 then msixRead (s.desk.ports.at p) (off - 0x3F00000)
  else 0

/-- A read of a block that belongs to a port: another port's registers read 0 (R264). -/
def portRead (s : State) (p : Fin 4) (off : Nat) : Word :=
  if off < 0x11000 then
    let n := fin 64 ((off - 0x10000) / 64)
    if queuePort n = p then sqRead s.desk n (off % 64) else 0
  else if off < 0x30000 then
    let n := fin 64 ((off - 0x20000) / 64)
    if off < 0x21000 ∧ queuePort n = p then cqRead s.desk n (off % 64) else 0
  else if 0x30000 + 0x800 * p.val ≤ off ∧ off < 0x30800 + 0x800 * p.val then mbxRead s p (off - 0x30000 - 0x800 * p.val)
  else if 0x40000 + 0x1000 * p.val ≤ off ∧ off < 0x41000 + 0x1000 * p.val then
    dwtRead (s.desk.ports.at p) (off - 0x40000 - 0x1000 * p.val)
  else 0

/-- The word at an offset of BAR0 of UPp, a multiple of 4 outside SQ ring memory. CAP answers whenever the module has power
(R397), the other blocks as the partner reaches them (R264, R278). -/
def wordRead (s : State) (p : Fin 4) (off : Nat) : Word :=
  if off < 0x1000 then (if s.elec.life != .off && portPresent s.fuses.grade p then capRead s p off else 0)
  else if portBlock off then (if ownReach s p then portRead s p off else 0)
  else if modReach s p then modRead s p off
  else 0

/-- A byte of SQ ring memory: stored within an enabled ring of the port, 0 elsewhere (R396). -/
def ringByte (s : State) (p : Fin 4) (off : Nat) : Byte :=
  if ownReach s p && ringLands s.desk p off 1 then cellRead s.desk.ring off else 0

/-- The state after a 32-bit read of BAR0: the side effects of the registers that have one (R209, R254, R392). -/
def readEffect (s : State) (p : Fin 4) (off : Nat) : State :=
  if !modReach s p then s
  else if off = 0x11008 then nowLatch s
  else if 0x12000 ≤ off ∧ off < 0x13000 ∧ off % 16 = 0 then
    let f := fin 256 ((off - 0x12000) / 16)
    if portPresent s.fuses.grade (fin 4 (f.val / 64)) then fenceLatch s f else s
  else if off = 0xA0000 then trngRead s (partnerId p)
  else match lockOffset off 0x38000 with
    | some n => { s with locks := lockTaken s.locks (partnerId p) n }
    | none => s

/-- `k` words read one after the other in ascending address order, each with its effect: what they return, and the state after them
(R263: a 64-bit read is two reads of 32 bits). -/
def readWords (p : Fin 4) : Nat → Nat → State → Bytes × State
  | 0, _, s => ([], s)
  | k + 1, off, s =>
    let r := readWords p k (off + 4) (readEffect s p off)
    (leBytes 4 (wordRead s p off).toNat ++ r.1, r.2)

/-- A read through BAR0 (R263): of whole words, of bytes inside one register, or, across two registers, zeros and no side effect. What it
returns, and the state after it. -/
def barReadRun (s : State) (p : Fin 4) (off n : Nat) : Bytes × State :=
  if inRings off then ((List.range n).map fun i => ringByte s p (off - 0x100000 + i), s)
  else if off % 4 = 0 ∧ n % 4 = 0 then readWords p (n / 4) off s
  else if off % 4 + n ≤ 4 then
    (slice (leBytes 4 (wordRead s p (off - off % 4)).toNat) (off % 4) n, readEffect s p (off - off % 4))
  else (List.replicate n 0, s)

/-- What a read through BAR0 returns. -/
def barRead (s : State) (p : Fin 4) (off n : Nat) : Bytes := (barReadRun s p off n).1

end Sys2Proof.Machine
end

