-- ==== Sys2Proof/WellFormed.lean ====
section
/-!
DEFINITION. Which commands are well formed: operands within what the spec's tables let a sender name. `exec` is total
and gives an ill-formed command the effect of the nearest one or none at all; statements name the checks they need.
-/
namespace Sys2Proof

/-- A flit is 256 bytes (R284). -/
def flitSized (flit : Bytes) : Bool := flit.length == 256

/-- A write of bytes into a region of `size` bytes: at least one byte, and within the region (R263, R396). -/
def spanOk (off len size : Nat) : Bool := decide (1 ≤ len) && decide (off + len ≤ size)

/-- An access through the aperture is one PCIe request (R268, R269): at least a byte, within 4 KiB. -/
def accessOk (off : Nat) (acc : BarAccess) : Bool :=
  match acc with
  | .read len => decide (1 ≤ len) && decide (off % 4096 + len ≤ 4096)
  | .write data => decide (1 ≤ data.length) && decide (off % 4096 + data.length ≤ 4096)

/-- A register write through BAR0 is whole words at a word address (R263), or bytes of the SQ ring memory (R396). -/
def registerOk (off len : Nat) : Bool :=
  if 0x100000 ≤ off ∧ off < 0x500000 then spanOk off len 0x500000
  else off % 4 == 0 && len % 4 == 0 && spanOk off len 0x4000000

/-- Test findings of a boot name physical tiles of a die (R18, R351). -/
def findingsOk (f : BootFindings) : Bool := f.badTiles.all fun x => decide (x.2 < 68)

/-- A loss of data names a byte of the module's own device memory (R27, R349). -/
def lossOk (l : Loss) : Bool :=
  match l with
  | .homeBlock _ a => decide (a < 2 ^ 44)
  | .otherRead _ a => decide (a < 2 ^ 44)
  | _ => true

/-- Whether a command is well formed. -/
def Instr.wellFormed (c : Instr) : Bool :=
  match c with
  | .dataFlit _ flit _ => flitSized flit
  | .ackFlit _ flit _ => flitSized flit
  | .nackFlit _ flit _ => flitSized flit
  | .idleFlit _ flit _ => flitSized flit
  | .sqRingWrite _ off data => spanOk off.toNat data.length 0x400000
  | .registerWrite _ off data => registerOk off.toNat data.length
  | .apertureAccess _ off acc => accessOk off.toNat acc
  | .windowVisit _ tile => decide (tile < 256)
  | .streamFetch _ tile _ => decide (tile < 256)
  | .sampleRound raw => raw.length == 128
  | .partnerArrival _ _ _ mode => decide (1 ≤ mode.toNat) && decide (mode.toNat ≤ 4)
  | .linkStateChange _ mode => decide (mode.toNat ≤ 4)
  | .partnerDeparture _ cause => decide (1 ≤ cause.toNat) && decide (cause.toNat ≤ 5)
  | .dieLinkDown a b => a != b
  | .dieLinkRetry a b => a != b
  | .rowRepair _ _ spares => decide (spares < 256)
  | .uncorrectableRead l _ => lossOk l
  | .resetRelease f => findingsOk f
  | .recoveryBoot _ f => findingsOk f
  | _ => true

end Sys2Proof
end

