-- ==== Sys2Proof/Tests/Slice0.lean ====
section
/-!
SUPPORT. Tests of the model: the checks of WellFormed refuse an ill-formed command, a few steps on small states give what the
spec's tables say, and the hypotheses of every statement are met together by some state and operands (`wit_<statement>`).
-/
namespace Sys2Proof.Tests
open Sys2Proof Sys2Proof.Machine

-- One theorem at a time: elaborated side by side, the witnesses below start more threads than a memory limit of 22 GiB allows.
set_option Elab.async false

/-! ## Small states -/

/-- A state with its desk changed. -/
def onD (s : State) (f : Desk → Desk) : State := { s with desk := f s.desk }

/-- A running module with a partner bound on UP0, a DMA window from 0, and SQ0 and CQ0 enabled. -/
def live : State := onD State.reset fun d => { d with
  ports := d.ports.put 0 { guest := { state := .bound }, busMaster := true, dw := Tab.all 64 ⟨0, 0x7FFFF, true, true, true⟩ }
  sqs := d.sqs.put 0 { enable := true, log2 := 4 }
  cqs := d.cqs.put 0 { enable := true, log2 := 4, base := 0x10000, phase := true } }

/-- The module out of power, in reset, in recovery, and asleep. -/
def dark : State := { live with elec := { life := .off } }
def heldReset : State := { live with elec := { life := .held, resetN := false } }
def rescued : State := { live with elec := { life := .recovery } }
def asleep : State := { live with np := { live.np with state := .nap } }

/-- A module with this fabric; with this on SL0; with the link to module 1 up on SL0 and that module its peer. -/
def fabOf (f : Fabric) : State := { live with fab := f }
def linked (q : FabPort) : State := fabOf { ports := (Tab.all 16 {}).put 0 q }
def upPort : FabPort := { link := .up, accepted := true, greeted := true, peerId := 1, peerPort := 6, given := Tab.all 5 17 }
def upLink : State := fabOf { ports := (Tab.all 16 {}).put 0 upPort, peers := [⟨1, 0, 0, 0, none, true⟩] }

/-- A packet with some bytes set (Table 9.7). -/
def packet (op : Nat) (parts : List (Nat × Bytes)) : Bytes :=
  parts.foldl (fun b x => spliceBytes b x.1 x.2) (leBytes 1 op ++ List.replicate 127 0)

/-- A command as its dispatch leaves it. -/
def cmd (p : Bytes) : Cmd := freshCmd live.desk (live.desk.sqs.at 0) p 0 none 0

/-- The live module with a command under way in SQ0. -/
def running (c : Cmd) : State := onD live fun d => withCur d 0 c

/-- The live module with a full mailbox, and with a message in it. -/
def boxed (b : BoxId) (x : Box) : State := { live with mbx := updBox live.mbx b fun _ => x }
def message (type : Nat) (words : List Word) : Box :=
  { full := true, msg := Tab.gen 16 fun i => (BitVec.ofNat 32 type :: words).getD i 0 }

/-! ## WellFormed refuses an ill-formed command -/

theorem test_flit_size : (Instr.dataFlit 0 (List.replicate 255 0) true).wellFormed = false ∧
    (Instr.ackFlit 0 [] true).wellFormed = false ∧ (Instr.nackFlit 0 [] true).wellFormed = false ∧
    (Instr.idleFlit 0 [] true).wellFormed = false ∧
    (Instr.dataFlit 0 (List.replicate 256 0) true).wellFormed = true := by decide +kernel

theorem test_ring_span : (Instr.sqRingWrite 0 0x3FFFFF [0, 0]).wellFormed = false ∧
    (Instr.sqRingWrite 0 0 []).wellFormed = false ∧ (Instr.sqRingWrite 0 0x3FFFFF [0]).wellFormed = true := by decide +kernel

theorem test_register_words : (Instr.registerWrite 0 0x1002 [0, 0, 0, 0]).wellFormed = false ∧
    (Instr.registerWrite 0 0x1000 [0, 0]).wellFormed = false ∧ (Instr.registerWrite 0 0x4FFFFF [0, 0]).wellFormed = false ∧
    (Instr.registerWrite 0 0x1000 [0, 0, 0, 0]).wellFormed = true := by decide +kernel

theorem test_access_span : (Instr.apertureAccess 0 0 (.read 0)).wellFormed = false ∧
    (Instr.apertureAccess 0 4095 (.read 2)).wellFormed = false ∧ (Instr.apertureAccess 0 0 (.write [])).wellFormed = false ∧
    (Instr.apertureAccess 0 4095 (.write [0])).wellFormed = true := by decide +kernel

theorem test_tile_range : (Instr.windowVisit 0 256).wellFormed = false ∧ (Instr.streamFetch 0 256 0).wellFormed = false ∧
    (Instr.windowVisit 0 255).wellFormed = true := by decide

theorem test_round_length : (Instr.sampleRound []).wellFormed = false ∧
    (Instr.sampleRound (List.replicate 128 0)).wellFormed = true := by decide +kernel

theorem test_port_codes : (Instr.partnerArrival 0 0 0 0).wellFormed = false ∧ (Instr.partnerArrival 0 0 0 5).wellFormed = false ∧
    (Instr.linkStateChange 0 5).wellFormed = false ∧ (Instr.partnerDeparture 0 0).wellFormed = false ∧
    (Instr.partnerDeparture 0 6).wellFormed = false ∧ (Instr.partnerDeparture 0 5).wellFormed = true := by decide

theorem test_links_and_spares : (Instr.dieLinkDown 1 1).wellFormed = false ∧ (Instr.dieLinkRetry 4 4).wellFormed = false ∧
    (Instr.rowRepair 0 0 256).wellFormed = false ∧ (Instr.dieLinkDown 0 4).wellFormed = true := by decide

theorem test_loss_and_findings : (Instr.uncorrectableRead (.otherRead 0 (2 ^ 44)) 0).wellFormed = false ∧
    (Instr.uncorrectableRead (.homeBlock 0 (2 ^ 44)) 0).wellFormed = false ∧
    (Instr.resetRelease ⟨0, 0, [], [(0, 68)]⟩).wellFormed = false ∧
    (Instr.recoveryBoot 0 ⟨0, 0, [], [(3, 68)]⟩).wellFormed = false ∧
    (Instr.resetRelease ⟨0, 0, [], [(0, 67)]⟩).wellFormed = true := by decide +kernel

/-- The table gives its rows no bits (log entry 21). -/
theorem test_no_word_spells_a_command : decodeTableWord 0 0 = none := by decide

/-! ## Witnesses: the block as a whole -/

theorem wit_FrontCommandRuns : ({ live with pending := [.powerOn] } : State).pending = .powerOn :: [] := rfl

theorem wit_EmptyQueuePassesTime : live.pending = [] ∧ Awake live ∧ PortsQuiet live.desk ∧ live.elec.life ≠ .off ∧ live.elec.life ≠ .held ∧
    dark.pending = [] ∧ dark.elec.life = .off ∧ heldReset.pending = [] ∧ heldReset.elec.life = .held ∧ asleep.pending = [] ∧ ¬ Awake asleep := by
  unfold Awake PortsQuiet PortQuiet; decide +kernel

theorem wit_StepKeepsInvariant : Inv live ∧ ∃ t, step live = .next t := by
  refine ⟨⟨by unfold TrngInv; decide +kernel, by decide +kernel, by decide +kernel, fun f g a c h e => (nomatch e), ?_⟩, _, rfl⟩
  have h : ∀ n, live.locks.owner.at n = none := by decide +kernel
  intro n w e
  rw [h n] at e
  cases e

theorem wit_WhatFollowsAnEvent : fixedLive live.desk = false ∧ live.np.fixedHold = false ∧ live.elec.life = .running ∧ live.np.state = .idle ∧ asleep.elec.life = .running ∧
    asleep.np.state ≠ .active ∧ asleep.np.state ≠ .idle ∧ dark.elec.life ≠ .running := by decide +kernel

/-! ## Locks, mailboxes and doorbells -/

def lockedBy (w : Requester) : State := { live with locks := { owner := Tab.all 64 (some w) } }

theorem wit_LockReadTakesAFreeLock : lockReach live 2 = true ∧ live.locks.owner.at 63 = none ∧ lockReach (lockedBy 2) 0 = true ∧
    (lockedBy 2).locks.owner.at 0 = some 2 ∧ lockReach live 3 = false ∧ (0 : Requester).val = 0 ∧ Awake upLink ∧
    (∃ x ∈ upLink.fab.peers, x.id.toNat = (1 : Fin 64).val) ∧ (2 : Requester).val ≠ 0 ∧
    ∀ x ∈ upLink.fab.peers, x.id.toNat ≠ (2 : Fin 64).val := by unfold Awake; decide +kernel

theorem wit_LockReleaseByItsOwner : lockReach (lockedBy 2) 2 = true ∧ (lockedBy 2).locks.owner.at 0 = some 2 ∧
    (2#32).toNat % 32 = (2 : Requester).val ∧ (lockedBy 2).locks.owner.at 0 ≠ some 1 ∧ lockReach (lockedBy 2) 1 = true ∧
    (1#32).toNat % 32 ≠ (2 : Requester).val ∧ lockReach live 3 = false ∧ Awake upLink ∧
    (∃ x ∈ upLink.fab.peers, x.id.toNat = (1 : Fin 64).val) ∧ ∀ x ∈ upLink.fab.peers, x.id.toNat ≠ (2 : Fin 64).val := by
  unfold Awake; decide +kernel

/-- The read that meets the release takes the lock (R255). -/
theorem test_release_then_read :
    (match exec (.lockRelease 2 ⟨5, none⟩ 2) (lockedBy 2) with
      | .next t => (match exec (.lockRead 0 ⟨5, none⟩) t with
        | .next u => decide (u.reply = .reg 0 ∧ u.locks.owner.at 5 = some 0)
        | _ => false)
      | _ => false) = true := by decide +kernel

/-- The example of R254: Night Porter (ID 1) and the partner on UP1 (ID 3) read LOCK5. -/
theorem test_lowest_reader_first :
    (match exec (.lockRead 1 ⟨5, none⟩) { live with desk := { live.desk with ports := live.desk.ports.put 1 { guest := { state := .bound } } } } with
      | .next t => (match exec (.lockRead 3 ⟨5, none⟩) t with
        | .next u => decide (t.reply = .reg 0 ∧ u.reply = .reg 2)
        | _ => false)
      | _ => false) = true := by decide +kernel

theorem wit_MessagesAreWrittenAndSent : senderUp live (.h2f 0) = true ∧ (boxAt live.mbx (.h2f 0)).full = false ∧
    senderUp live (.h2f 1) = false := by decide +kernel

theorem wit_WritesToAFullMailboxCollide : senderUp (boxed (.h2f 0) (message 1 [])) (.h2f 0) = true ∧
    (boxAt (boxed (.h2f 0) (message 1 [])).mbx (.h2f 0)).full = true ∧
    (∃ t, exec (.mailboxGo (.h2f 0)) (boxed (.h2f 0) (message 1 [])) = .next t ∧ receiverUp t (.h2f 0) = true ∧
      (0#32).extractLsb' 16 8 = (boxAt (boxed (.h2f 0) (message 1 [])).mbx (.h2f 0)).seq) :=
  ⟨by decide +kernel, by decide +kernel, _, rfl, by decide +kernel, by decide +kernel⟩

def late (s : State) (t : Nat) : State := onD s fun d => { d with now := t }

theorem wit_MessageIsTakenOrWithdrawn :
    (receiverUp (boxed (.h2f 0) (message 1 [])) (.h2f 0) = true ∧ (0x80000000#32).getLsbD 31 = true ∧
      (boxAt (boxed (.h2f 0) (message 1 [])).mbx (.h2f 0)).full = true ∧
      (0x80000000#32).extractLsb' 16 8 = (boxAt (boxed (.h2f 0) (message 1 [])).mbx (.h2f 0)).seq) ∧
    (receiverUp live (.f2h 0) = true ∧ (boxAt live.mbx (.f2h 0)).full = false) ∧
    (Running (late (boxed (.f2h 0) (message 0x82 [])) 10000000) ∧
      (boxAt (boxed (.f2h 0) (message 0x82 [])).mbx (.f2h 0)).goAt + 1000 * (boxAt (boxed (.f2h 0) (message 0x82 [])).mbx (.f2h 0)).inForce ≤ 10000000) ∧
    (9999999 < (boxAt (boxed (.f2h 0) (message 0x82 [])).mbx (.f2h 0)).goAt + 1000 * (boxAt (boxed (.f2h 0) (message 0x82 [])).mbx (.f2h 0)).inForce) := by
  unfold Running; decide +kernel

def queued (b : BoxId) (m : Mail) (s : State) : State := { s with mbx := setQueue s.mbx b [m] }

theorem wit_HostMessagesAreServedAndSent :
    (senderUp (queued (.f2h 0) ⟨0x82, 0, [4, 1]⟩ live) (.f2h 0) = true ∧
      queueAt (queued (.f2h 0) ⟨0x82, 0, [4, 1]⟩ live).mbx (.f2h 0) = ⟨0x82, 0, [4, 1]⟩ :: [] ∧
      (boxAt (queued (.f2h 0) ⟨0x82, 0, [4, 1]⟩ live).mbx (.f2h 0)).full = false ∧
      waitsForLock live.locks (.f2h 0) ⟨0x82, 0, [4, 1]⟩ = false) ∧
    (senderUp live (.f2h 0) = true ∧ queueAt live.mbx (.f2h 0) = []) ∧
    (∀ m ∈ [message 1 [], message 1 [1], message 2 [0], message 2 [127]],
      Awake (boxed (.h2f 0) m) ∧ portPresent live.fuses.grade 0 = true ∧ ((boxed (.h2f 0) m).mbx.h2f.at 0).full = true ∧
      lenOf ((boxed (.h2f 0) m).mbx.h2f.at 0).len = 8 ∧ bits (((boxed (.h2f 0) m).mbx.h2f.at 0).msg.at 0).toNat 8 8 = 0) ∧
    (mailType (message 1 []) = 1 ∧ mailType (message 2 [127]) = 2 ∧ ((message 2 [127]).msg.at 1).toNat < 128) ∧
    repliesDue live.mbx 0 < 8 ∧ 8 ≤ repliesDue { live.mbx with f2hQueue := Tab.all 4 (List.replicate 8 ⟨0x81, 0, []⟩) } 0 := by
  unfold Awake; decide +kernel

theorem wit_DoorbellsSetAndMasked :
    (∀ b ∈ [BellId.fdHost 0, .fdPorter, .porter, .fdPeer 0, .host 0], (bellAt live.mbx b).isSome = true) ∧
    ownReach live 0 = true ∧ peerReach upLink 0 = true ∧ Running live ∧ Awake live ∧ ownerUp live (.host 0) = true ∧
    ownReach asleep 0 = true ∧ asleep.np.state ≠ .active ∧ asleep.np.state ≠ .idle ∧
    (∃ x, bellAt (setBell live.mbx (.host 0) { pend := 1, irq := true }) (.host 0) = some x ∧ x.irq = true ∧
      x.pend &&& x.mask &&& ~~~ (0xFFFFFFFE#32) ≠ 0) := by
  refine ⟨by decide +kernel, by decide +kernel, by decide +kernel, by unfold Running; decide +kernel, by unfold Awake; decide +kernel,
    by decide +kernel, by decide +kernel, by decide +kernel, by decide +kernel, _, rfl, by decide +kernel, by decide +kernel⟩

/-! ## Witnesses: registers -/

def sq0 (s : State) (q : Sq) : State := onD s fun d => withSq d 0 q
def cq0 (s : State) (q : Cq) : State := onD s fun d => withCq d 0 q

theorem wit_TailWriteMakesPacketsVisible : OwnsQueue live 0 0 ∧ (live.desk.sqs.at 0).enable = true ∧
    TailFits (live.desk.sqs.at 0) ((15#32).toNat % 4096) ∧ ¬ TailFits (live.desk.sqs.at 0) ((16#32).toNat % 4096) ∧
    OwnsQueue live 0 4 ∧ (live.desk.sqs.at 4).enable = false ∧ ¬ OwnsQueue live 0 1 := by
  unfold OwnsQueue Bound Attached TailFits; decide +kernel

/-- A tail that passes the head sets TAIL_ERR and makes nothing visible (R206). -/
theorem test_tail_beyond_ring :
    (match exec (.sqTailWrite 0 0 16) live with
      | .next t => decide ((t.desk.sqs.at 0).tailErr = true ∧ (t.desk.sqs.at 0).tail = 0)
      | _ => false) = true := by decide +kernel

theorem wit_RingWriteLandsInOwnRings : Bound live 0 ∧ 1 ≤ ([7] : Bytes).length ∧
    (0 : Fin 64).val % 4 = (0 : Fin 4).val ∧ (live.desk.sqs.at 0).enable = true ∧
    (live.desk.sqs.at 0).base.toNat ≤ (2047#22).toNat ∧
    (2047#22).toNat + ([7] : Bytes).length ≤ (live.desk.sqs.at 0).base.toNat + 128 * 2 ^ (live.desk.sqs.at 0).log2.toNat ∧
    ¬ ∃ n : Fin 64, n.val % 4 = (0 : Fin 4).val ∧ (live.desk.sqs.at n).enable = true ∧
      (live.desk.sqs.at n).base.toNat ≤ (2048#22).toNat ∧
      (2048#22).toNat + ([7] : Bytes).length ≤ (live.desk.sqs.at n).base.toNat + 128 * 2 ^ (live.desk.sqs.at n).log2.toNat := by
  unfold Bound Attached; decide +kernel

theorem wit_SubmissionQueueEnables : OwnsQueue live 0 4 ∧ (live.desk.sqs.at 4).enable = false ∧
    SqMayEnable (withSq live.desk 4 { base := 2048 }) 4 ((0x9#32).extractLsb' 1 4) ((0x9#32).extractLsb' 5 6) ∧
    ¬ SqMayEnable live.desk 4 ((0x7#32).extractLsb' 1 4) ((0x7#32).extractLsb' 5 6) ∧
    OwnsQueue live 0 0 ∧ (live.desk.sqs.at 0).enable = true ∧ uncompleted (live.desk.sqs.at 0) = 0 ∧
    uncompleted ((sq0 live { enable := true, log2 := 4, tail := 1 }).desk.sqs.at 0) ≠ 0 := by
  unfold OwnsQueue Bound Attached SqMayEnable; decide +kernel

theorem wit_CompletionQueueRegisters :
    (OwnsQueue live 0 4 ∧ (live.desk.cqs.at 4).enable = false ∧ 4 ≤ ((0x9#32).extractLsb' 1 4).toNat ∧
      ((0x19#32).extractLsb' 1 4).toNat ≤ 12 ∧ ((0x7#32).extractLsb' 1 4).toNat < 4 ∧ 12 < ((0x1B#32).extractLsb' 1 4).toNat ∧
      (live.desk.cqs.at 0).enable = true) ∧
    ((live.desk.cqs.at 0).waiting = [] ∧ (live.desk.ports.at 0).leaves = false ∧
      ({ guest := { state := .bound }, events := [.departure 1] } : Port).leaves = true ∧ ∀ x ∈ [cq0 live { enable := true, log2 := 4, tail := 15, waiting := [⟨[], none⟩] }], Awake x ∧
        (x.desk.cqs.at 0).waiting = ⟨[], none⟩ :: [] ∧
        ((x.desk.cqs.at 0).tail.toNat + 1) % 2 ^ (x.desk.cqs.at 0).log2.toNat ≠ (1#32).toNat % 4096 ∧
        ((x.desk.cqs.at 0).tail.toNat + 1) % 2 ^ (x.desk.cqs.at 0).log2.toNat = (0#32).toNat % 4096) := by
  unfold OwnsQueue Bound Attached Awake; decide +kernel

theorem wit_ModuleWideRegisters : Attached live 0 ∧ (255 : Fin 256).val / 64 < gradeUp live.fuses.grade ∧ ¬ Attached live 1 := by
  unfold Attached; decide +kernel

/-- A record of a mode write, and one not yet mirrored. -/
def logged (l : Ledger) : State := onD live fun d => { d with ledger := l }

theorem wit_LedgerIsMirrored :
    (Attached live 0 ∧ (0#32).getLsbD 0 = false ∧ (1#32).getLsbD 0 = true ∧ (logged { enable := true }).desk.ledger.enable = true ∧
      live.desk.ledger.enable = false ∧ (logged { head := 256 }).desk.ledger.head ≤ (logged { head := 256 }).desk.ledger.mirrored + 256 ∧
      (logged { head := 257 }).desk.ledger.mirrored + 256 < (logged { head := 257 }).desk.ledger.head) ∧
    (∀ x ∈ [logged { enable := true, head := 65, mirrored := 64 }, logged { enable := true, head := 64, mirrored := 63 },
        onD (logged { enable := true, head := 64, mirrored := 63 }) fun d => { d with ports := d.ports.put 0 { guest := { state := .bound }, busMaster := true } }],
      Awake x ∧ x.desk.ledger.enable = true ∧ x.desk.ledger.mirrored < x.desk.ledger.head ∧
      (x.desk.ports.at x.desk.ledger.port).leaves = false) ∧
    mirrorLen (logged { head := 65, mirrored := 64 }).desk.ledger ≤ 64 - 0 ∧
    63 - 0 < mirrorLen (logged { head := 64, mirrored := 63 }).desk.ledger ∧
    transferOk (live.desk.ports.at 0) true (0 + 128 * (63 % 64)) 128 = true ∧
    transferOk { guest := { state := .bound }, busMaster := true } true (0 + 128 * (63 % 64)) 128 = false := by
  unfold Attached Awake; decide +kernel

theorem wit_RegisterWritesTakeEffect : Attached live 0 ∧ Bound live 0 ∧ asleep.np.state ≠ .idle ∧ Attached asleep 0 ∧
    (({ guest := { state := .bound } } : Port).dw.at 63).en = false ∧ (1 : Fin 4) ≠ 0 ∧ (0xFFF : Nat) < 0x1000 ∧
    ¬ Attached live 1 ∧ (0x1001#26).toNat < 0x100000 ∧ (0x1001#26).toNat % 4 ≠ 0 := by
  unfold Bound Attached; decide +kernel

def windowed (ue : List Nat) : State := onD live fun d => { d with
  ports := d.ports.put 0 { guest := { state := .bound }, apw := (Tab.all 64 ⟨false, 0⟩).put 1 ⟨true, 0⟩ }
  mem := { ue := ue } }

theorem wit_ApertureAndInterrupts :
    (Attached (windowed []) 0 ∧ (windowed []).np.state ≠ .doze ∧ (windowed []).np.state ≠ .night ∧
      apertureTarget (windowed []).fuses.grade (windowed []).desk 0 (0x40000FFF#36).toNat = some 0xFFF ∧
      (0x40000FFF#36).toNat % 4096 + 1 ≤ 4096 ∧ badSector (windowed []).desk.mem 0xFFF 1 = none ∧
      badSector (windowed [127]).desk.mem 0xFFF 1 ≠ none ∧ narrowHits (windowed []).desk.mem 0xFFF 1 = [] ∧
      apertureTarget (windowed []).fuses.grade (windowed []).desk 0 (0x3FFFFFFF#36).toNat = none) ∧
    (Attached live 0 ∧ ({ msixEnable := true, pba := (Tab.all 64 false).put 63 true } : Port).msixEnable = true ∧
      ({ msixEnable := true, pba := (Tab.all 64 false).put 63 true } : Port).pba.at 63 = true ∧
      ({ msixEnable := true } : Port).msixMask = false ∧ ({ msixEnable := true, busMaster := true } : Port).busMaster = true ∧
      (live.desk.ports.at 0).msixEnable = false ∧ (live.desk.ports.at 0).guest.state = .bound ∧
      ∀ w, (live.desk.ports.at 0).pba.at w = false) := by
  unfold Attached; decide +kernel

/-- A read of a lost sector is answered Completer Abort (R418). -/
theorem test_aperture_abort :
    (match exec (.apertureAccess 0 0x40000000 (.read 4)) (windowed [0]) with
      | .next t => decide (t.reply = .completerAbort ∧ (t.desk.ports.at 0).aerAbort = true)
      | _ => false) = true := by decide +kernel

/-! ## Witnesses: the random source -/

def rng (x : Trng) : State := { live with trng := x }
def ready (pool : List Word) (waiting : List Reader) : State := rng { state := .ready, pool := pool, waiting := waiting }

theorem wit_RandomWordsGoToReadersInOrder :
    (trngReach (rng { state := .off }) 2 = true ∧ trngReach (ready [9] []) 2 = true ∧ (ready [9] []).trng.state ≠ .off ∧
      (ready [9] []).trng.pool = 9 :: [] ∧ (ready [] []).trng.pool = [] ∧ (ready [9] [.seed 0]).trng.waiting ≠ [] ∧
      trngReach live 3 = false) ∧
    ((late (ready [] [.seed 0, .word 2 0]) 15000).trng.waiting = [.seed 0] ++ .word 2 0 :: [] ∧
      (∀ t, Reader.word 2 t ∉ [Reader.seed 0]) ∧ live.elec.life ≠ .off ∧ live.elec.life ≠ .held ∧
      0 + (if (2 : Requester).val < 2 then 50000 else 15000) ≤ (late (ready [] [.word 2 0]) 15000).desk.now) ∧
    (∀ since, Reader.word 2 since ∈ (late (ready [] [.word 2 0]) 14999).trng.waiting →
      (late (ready [] [.word 2 0]) 14999).desk.now < since + (if (2 : Requester).val < 2 then 50000 else 15000)) ∧
    (∀ x ∈ [Reader.word 2 0, .keys], staleReader live.desk x = false) ∧
    ((ready [] [.word 2 0]).trng.pool.length < 1 ∧ (ready (List.replicate 23 0) [.keys]).trng.pool.length < 24 ∧
      24 ≤ (ready (List.replicate 24 0) [.keys]).trng.pool.length) := by
  refine ⟨by decide +kernel, ⟨rfl, by simp, by decide, by decide, by decide⟩, ?_, by decide +kernel, by decide +kernel⟩
  intro since h
  have h : Reader.word 2 since ∈ [Reader.word 2 0] := h
  simp at h
  subst h
  decide

/-- A source that has just shown 40 equal samples, and one whose window holds 799 equal ones. -/
def stuck (run ap : Nat) (st : TrngState) (attempt : Nat) : State :=
  rng { state := st, attempt := attempt, src := Tab.all 11 ⟨true, run, true, ap, 0, 0, 0, 0⟩, pos := 800, statPos := 800,
        waiting := [.word 2 0] }

theorem wit_SamplesAreTestedAndPooled :
    (∀ s ∈ [stuck 39 798 .ready 0, stuck 40 0 .ready 0, stuck 0 799 .requal 2, stuck 40 0 .requal 3, stuck 40 0 .startup 0],
      s.elec.life ≠ .off ∧ s.elec.life ≠ .held ∧ s.trng.state ≠ .off ∧ s.trng.pos < 1024 ∧ s.trng.statPos < 65536) ∧
    (∀ i : Fin 11, (sampleSource 800 800 ((0x7FF#11).getLsbD i.val) ((stuck 39 798 .ready 0).trng.src.at i)).run < 41 ∧
      (sampleSource 800 800 ((0x7FF#11).getLsbD i.val) ((stuck 39 798 .ready 0).trng.src.at i)).apCount < 800) ∧
    41 ≤ (sampleSource 800 800 ((1#11).getLsbD 0) ((stuck 40 0 .ready 0).trng.src.at 0)).run ∧
    800 ≤ (sampleSource 800 800 ((1#11).getLsbD 0) ((stuck 0 799 .ready 0).trng.src.at 0)).apCount ∧
    (rng { state := .ready, raw := List.replicate 511 true }).trng.raw.length + 1 = 512 ∧
    (∀ s ∈ [rng { state := .ready, pos := 1024 }, rng { pos := 1024 }, rng { statPos := 65536 }],
      s.elec.life ≠ .off ∧ s.elec.life ≠ .held) ∧ (rng { pos := 1024 }).trng.state = .startup ∧ live.trng.pos ≠ 1024 ∧
    live.trng.statPos ≠ 65536 := by decide +kernel

/-- 41 equal samples of one source start a re-qualification; 40 do not (R387). -/
theorem test_repetition_cutoff :
    (match exec (.trngSample 0x7FF) (stuck 40 0 .ready 0), exec (.trngSample 0x7FF) (stuck 39 0 .ready 0) with
      | .next t, .next u => decide (t.trng.state = .requal ∧ t.trng.fails = 1 ∧ u.trng.state = .ready)
      | _, _ => false) = true := by decide +kernel

/-! ## Witnesses: ports and service -/

def ported (g : GuestState) : State := onD live fun d => withPort d 0 { d.ports.at 0 with guest := { state := g } }

/-- The port as a departure finds it with a command of SQ0 uncompleted. -/
def leaving : State := onD (running (cmd (packet 0x30 []))) fun d => withPort d 0 { guest := { state := .departing }, events := [.departure 1] }

theorem wit_PartnersComeAndGo :
    (Awake (ported .empty) ∧ portPresent live.fuses.grade 0 = true ∧ ((ported .empty).desk.ports.at 0).guest.state = .empty ∧
      ((ported .empty).desk.ports.at 0).events = [] ∧ tunnelUp ((ported .empty).desk.ports.at 0) = false ∧
      tunnelUp (live.desk.ports.at 0) = true ∧ ¬ Awake asleep ∧ (leaving.desk.ports.at 0).guest.state = .departing ∧
      tunnelUp (leaving.desk.ports.at 0) = false ∧ ∃ n : Fin 64, n.val % 4 = (0 : Fin 4).val ∧ queueBusy leaving.desk n = true) ∧
    (Awake (ported .arriving) ∧ (ported .arriving).pending = [] ∧ ((ported .arriving).desk.ports.at 0).guest.state = .arriving ∧
      ∀ q, q ≠ 0 → PortQuiet (ported .arriving).desk q) ∧
    (1 ≤ (5#4).toNat ∧ (5#4).toNat ≤ 5 ∧ 1 ≤ (3#4).toNat ∧ (3#4).toNat ≤ 5 ∧ Awake live ∧
      (live.desk.ports.at 0).guest.state = .bound ∧ (live.desk.ports.at 0).events = [] ∧
      (∀ n : Fin 64, n.val % 4 = (0 : Fin 4).val → queueBusy live.desk n = false ∧ openIndices (live.desk.sqs.at n) = []) ∧
      (∀ w ∈ live.desk.aborts, queuePort w.sq ≠ 0) ∧ Running asleep ∧ tunnelUp (asleep.desk.ports.at 0) = true) := by
  unfold Awake Running PortQuiet; decide +kernel

/-- A departure leaves the port's fences all ones with ERR, and others at 0 (R236). -/
theorem test_departure_fences :
    (match exec (.partnerDeparture 0 1) live with
      | .next t => decide ((t.desk.fences.at 63).value = 0xFFFFFFFFFFFFFFFF ∧ (t.desk.fences.at 63).err = true ∧
          (t.desk.fences.at 64).value = 0 ∧ (t.desk.ports.at 0).guest.departs = 1)
      | _ => false) = true := by decide +kernel

theorem wit_PortsAndServiceReads : Running live ∧ portPresent live.fuses.grade 3 = true ∧ (4#3).toNat ≤ 4 ∧ (4#3) ≠ 0 ∧
    ((ported .empty).desk.ports.at 0).guest.state = .empty ∧ (live.desk.ports.at 0).guest.state ≠ .empty ∧
    live.elec.life ≠ .off ∧ live.elec.life ≠ .held ∧ isUp live = true ∧ live.elec.life ≠ .retired ∧ isUp dark = false ∧
    (∀ r ∈ [0, 4, 0xF, 0x13, (255 : Nat)], r = 0 ∨ (0x03 < r ∧ r < 0x10) ∨ 0x12 < r) := by
  unfold Running; decide +kernel

theorem wit_TrayManagerWritesTakeEffect : isUp live = true ∧
    ({ latches := 1 } : Smbus).latches &&& ~~~ (({ latches := 1 } : Smbus).mask.truncate 8) ≠ 0 ∧
    live.smb.latches &&& ~~~ (live.smb.mask.truncate 8) = 0 := by decide +kernel

/-- The sustained power of the grade caps a TRAY_CAP, and 400 W is its floor (R409). -/
theorem test_tray_cap :
    (match exec (.trayCap (some 5000)) live, exec (.trayCap (some 1)) live with
      | .next t, .next u => decide (t.np.trayCap = 2000 ∧ u.np.trayCap = 400)
      | _, _ => false) = true := by decide +kernel

theorem wit_RecoveryTakesAnImage : portPresent live.fuses.grade 0 = true ∧ rescued.elec.life = .recovery ∧ live.elec.life ≠ .recovery ∧
    (⟨1, 16777216, []⟩ : Recovery).state = 1 ∧ (⟨1, 16777216, []⟩ : Recovery).data.length + ([1] : Bytes).length ≤ 16777216 := by decide +kernel

/-! ## Witnesses: Night Porter, power and memory -/

def npOf (s : State) (p : Porter) : State := { s with np := p }

theorem wit_SamplesDriveTheClock : Running (late live 1000000) ∧
    1000000 * ((late live 1000000).np.rounds + 1) ≤ (late live 1000000).desk.now ∧
    999999 < 1000000 * ((late live 999999).np.rounds + 1) ∧ fixedLive live.desk = false ∧ timedLive live.desk = false ∧
    stepAsked live.np = false ∧ live.np.pendSteps = none ∧ plannedClock { f := 2000, steps := 1 } < 2000 ∧ live.np.f ≤ plannedClock live.np := by
  unfold Running; decide +kernel

/-- A power far above the cap takes the clock down by one step of 25 MHz at the tick (R334). -/
theorem test_clock_steps_down :
    (match exec (.sampleRound ((List.replicate 128 (0 : Word)).set 101 90000000)) (late live 1000000) with
      | .next t => decide (t.np.f = 1975 ∧ t.np.gate = 0)
      | _ => false) = true := by decide +kernel

def askedStep : State := npOf (boxed .npToFd (message 3 [])) { state := .idle, asked := some (.clockStop 1975 0 0 true false) }

def timedCmd : Cmd := { cmd (packet 0x20 []) with fixed := true, began := true, stage := .working }

theorem wit_LimiterAndClockStops : Running live ∧ live.np.limiter = false ∧
    (npOf live { limiter := true }).np.limiter = true ∧
    (npOf live { limiter := true }).np.limiterAt + 1000000 ≤ (late (npOf live { limiter := true }) 1000000).desk.now ∧
    (late (npOf live { limiter := true }) 999999).desk.now < (npOf live { limiter := true }).np.limiterAt + 1000000 ∧
    askedStep.np.asked = some (.clockStop 1975 0 0 true false) ∧ askedStep.np.fixedHold = fixedLive askedStep.desk ∧
    { askedStep.np with fixedHold := true }.fixedHold = fixedLive (running timedCmd).desk ∧ inTimed timedCmd = true ∧ Awake askedStep ∧ askedStep.mbx.npToFd.full = true ∧
    mailType askedStep.mbx.npToFd = 3 ∧ timedLive askedStep.desk = false ∧ timedLive (running timedCmd).desk = true ∧
    0 + 2000000 ≤ (late askedStep 2000000).desk.now ∧ (late askedStep 1999999).desk.now < 0 + 2000000 ∧
    ((running timedCmd).desk.sqs.at 0).cur = some timedCmd := by
  unfold Running Awake; decide +kernel

def tripped : State := npOf live { tripHold := true, coolSince := some 0 }

theorem wit_TripsHoldTheDies :
    (Running live ∧ live.np.tripHold = false ∧ tripped.np.tripHold = true ∧ tripped.np.tripLatched = false ∧
      tripped.np.coolSince = some 0 ∧ 0 + 1000000000 ≤ (late tripped 1000000000).desk.now) ∧
    (Awake (boxed .npToFd (message 5 [2])) ∧ (boxed .npToFd (message 5 [2])).mbx.npToFd.full = true ∧
      mailType (boxed .npToFd (message 5 [2])).mbx.npToFd = 5 ∧
      ((boxed .npToFd (message 5 [0])).mbx.npToFd.msg.at 1).toNat = 0 ∧
      ((boxed .npToFd (message 5 [1])).mbx.npToFd.msg.at 1).toNat = 1 ∧
      ((boxed .npToFd (message 5 [2])).mbx.npToFd.msg.at 1).toNat = 2) ∧
    ((running (cmd (packet 0x30 []))).desk.sqs.at 0).cur = some (cmd (packet 0x30 [])) ∧
    pktOp (packet 0x30 []) = some .copy ∧ opTile .copy = true ∧ (cmd (packet 0x30 [])).stage = .dispatched ∧
    ((running { cmd (packet 0x30 []) with stage := .held }).desk.sqs.at 0).cur = some { cmd (packet 0x30 []) with stage := .held } := by
  unfold Running Awake; decide +kernel

def asksFor (k : Nat) (st : PState) : State :=
  npOf (boxed .npToFd (message 2 [BitVec.ofNat 32 k])) { state := st, dozeNight := 1, asked := some (.descend k) }

theorem wit_DescentsAndWakes :
    (Running (late live 50000) ∧ (late live 50000).np.asked = none ∧ (late live 50000).np.waking = false ∧
      descentDue (late live 50000) = some 2 ∧ descentDue (late live 49999) = none) ∧
    (∀ x ∈ [(2, PState.idle), (3, .nap), (4, .doze)], 2 ≤ x.1 ∧ x.1 ≤ 4 ∧ (asksFor x.1 x.2).mbx.npToFd.full = true ∧
      mailType (asksFor x.1 x.2).mbx.npToFd = 2 ∧ ((asksFor x.1 x.2).mbx.npToFd.msg.at 1).toNat = x.1 ∧
      (asksFor x.1 x.2).np.asked = some (.descend x.1) ∧ descentHolds (takePorter (asksFor x.1 x.2) 0) x.1 = true) ∧
    (descentHolds (takePorter (onD (asksFor 2 .idle) fun d => withCur d 0 timedCmd) 0) 2 = false) ∧
    (npOf live { waking := true }).np.waking = true ∧
    (npOf live { waking := true }).np.tripHold = false ∧ live.np.waking = false ∧
    (npOf live { waking := true, tripHold := true, left := 4 }).np.tripLatched = false := by
  unfold Running; decide +kernel

theorem wit_ReplanNeverRelaxes : Running (npOf live { planDue := true, voff := 30, steps := 20 }) ∧
    (npOf live { planDue := true, voff := 30, steps := 20 }).np.planDue = true ∧
    diesUp (npOf live { planDue := true, voff := 30, steps := 20 }).np = true ∧ (30 : Nat) ≤ 30 ∧ (30 : Nat) % 5 = 0 ∧
    live.np.fixedHold = fixedLive live.desk ∧ live.np.pendSteps = none ∧ live.np.steps ≤ 20 ∧ live.np.planDue = false ∧ diesUp { live.np with state := .night } = false := by
  unfold Running; decide +kernel

theorem wit_PorterMessagesAreServed :
    (Running (boxed .fdToNp (message 1 [127])) ∧ (boxed .fdToNp (message 1 [127])).mbx.fdToNp.full = true ∧
      mailType (message 1 [127]) = 1) ∧
    (∀ k ∈ [0x81, 4, 6, 7], Awake (boxed .npToFd (message k [])) ∧ (boxed .npToFd (message k [])).mbx.npToFd.full = true ∧
      mailType (message k []) = k) ∧
    ([((0 : Nat), (0 : Fin 4), (5 : Nat))].find? (fun a => a.1 == bits ((message 0x81 []).msg.at 0).toNat 16 16) =
      some (bits ((message 0x81 []).msg.at 0).toNat 16 16, 0, 5)) ∧
    (live.mbx.f2hQueue.at 0).length < 8 ∧ (live.desk.ports.at 0).guest.state = .bound ∧
    (live.desk.ports.at 1).guest.state ≠ .bound := by
  unfold Running Awake; decide +kernel

theorem wit_PowerAndResetPin : dark.elec.life = .off ∧ live.elec.life ≠ .off ∧ isUp live = true ∧ live.elec.pg = true := by
  decide +kernel

/-- RESET_N low keeps device memory outside the private areas (Table 15.4). -/
theorem test_warm_reset_keeps_memory :
    (match exec .resetAssert (onD live fun d => { d with mem := { cells := [⟨5, 7⟩] } }) with
      | .next t => decide (cellRead t.desk.mem.cells 5 = 7 ∧ t.elec.life = .held ∧ t.desk.bootId = 1)
      | _ => false) = true := by decide +kernel

theorem wit_ModuleResetsItself : isUp live = true ∧ Awake live ∧ Attached live 0 ∧ (0 : Fin 5) ≠ 4 ∧
    ({ live with sec := { armed := true } } : State).sec.armed = true ∧ queuesEmpty live.desk = true ∧
    live.sec.armed = false := by
  unfold Awake Attached; decide +kernel

theorem wit_ReleaseBoots : heldReset.elec.life = .held ∧ live.elec.life ≠ .held ∧
    ({ heldReset with sec := { lifecycle := .retired } } : State).sec.lifecycle = .retired := by decide +kernel

def keyed (pool : Nat) : State := { live with
  sec := { idKey := some [], genWanted := true }, trng := { state := .ready, pool := List.replicate pool 0 } }

theorem wit_SecureRegionKeepsItsRules : live.elec.life ≠ .off ∧
    (Running (late live 1000000000) ∧ live.sec.idleSince = some 0 ∧ 0 + 1000000000 ≤ (late live 1000000000).desk.now ∧
      ({ pending := some 1, running := some 1 } : FwType).pending = some 1 ∧
      ({ pending := some 1, running := some 1 } : FwType).running = some 1 ∧ (late live 999999999).desk.now < 0 + 1000000000) ∧
    (∀ x ∈ [keyed 24, keyed 23], Running x ∧ x.sec.idKey = some [] ∧ x.sec.idLeaf < 1024 ∧ x.sec.genWanted = true ∧
      x.sec.drawn = [] ∧ x.trng.state = .ready ∧ x.trng.waiting = []) ∧
    24 ≤ (keyed 24).trng.pool.length ∧ (keyed 23).trng.pool.length < 24 := by
  unfold Running; decide +kernel

def dueRow : State := onD live fun d => { d with mem := { dueRows := [(0, 3)] } }

theorem wit_HousekeepingKeepsTheBytes : Running live ∧ unitIn live.fuses.grade live.desk (.hbm 0) = true ∧ dramAwake live.np = true ∧
    (npOf live { state := .doze }).np.state = .doze ∧ unitServes live (.hbm 11) = true ∧ unitServes live (.lp 31) = true ∧
    live.desk.mem.ue.contains (unitAddr (.hbm 11) (scrubAt live.desk.mem (.hbm 11)) / 32) = false ∧
    live.desk.mem.ue.contains (unitAddr (.hbm 11) (32 * 5 % unitSize (.hbm 11)) / 32) = false ∧
    scrubAt live.desk.mem (.hbm 11) < unitSize (.hbm 11) ∧ (∀ a, live.desk.mem.ueFound.contains a = false) ∧
    ({ ueFound := [7] } : Memory).ueFound.contains 7 = true ∧ sramUp live .secure = true ∧ 32767 < sramWords .secure ∧
    sramUp live (.spare 0 64) = true ∧ (4194303 : Nat) < 4194304 ∧
    unitServes dueRow (.hbm 0) = true ∧ (0, 3) ∈ dueRow.desk.mem.dueRows ∧ (0, 3) ∉ live.desk.mem.dueRows ∧
    sramUp live (.staging 3) = true := by
  refine ⟨by unfold Running; decide +kernel, by decide +kernel, by decide +kernel, by decide +kernel, by decide +kernel, by decide +kernel,
    by decide +kernel, by decide +kernel, by decide +kernel, fun _ => rfl, by decide +kernel⟩

def suspended : State := onD live fun d => withSlot d 5 { susp := some ⟨{}, [], 0, none, 0, []⟩ }

/-- A fixed-timing MATMUL at work on tile 5. -/
def tiledCmd : Cmd := { timedCmd with tiles := [5] }

theorem wit_LossesAreContained : Awake (running (cmd (packet 0x30 []))) ∧
    ((running (cmd (packet 0x30 []))).desk.sqs.at 0).cur = some (cmd (packet 0x30 [])) ∧
    (cmd (packet 0x30 [])).stage = .dispatched ∧ (cmd (packet 0x30 [])).stop = none ∧ unitOf 0 ≠ none ∧
    (suspended.desk.slots.at 5).susp ≠ none ∧ Awake suspended ∧ tileServed live.fuses.grade live.desk 255 = true ∧
    live.desk.tiles.serves.at 255 = some 63 ∧ live.desk.tiles.spares.at 3 = 64 :: [65, 66, 67] ∧
    (∀ h, tileHolder live.desk 255 = some h → inTimed h.2 = false) ∧
    (onD live fun d => { d with tiles := { spares := Tab.all 4 [] } }).desk.tiles.spares.at 3 = [] ∧
    tileServed live.fuses.grade (running tiledCmd).desk 5 = true ∧ tileHolder (running tiledCmd).desk 5 = some (0, tiledCmd) ∧
    inTimed tiledCmd = true ∧ tiledCmd.stop = none ∧ linkThere live.fuses.grade 0 4 = true ∧ linkThere live.fuses.grade 4 4 = false ∧
    linkThere .ktk9440 0 3 = false := by
  have h : tileHolder live.desk 255 = none := by decide +kernel
  simp only [h, reduceCtorEq, false_implies, implies_true, true_and]
  unfold Awake; decide +kernel

/-! ## Witnesses: the fabric -/

/-- A flit of each type (Table 12.2) without its CRC, with it, and with another. -/
def flitBody (ftype cls : Nat) : Bytes := (flitBytes ftype cls true true 0 0 cls 1 []).take 252
def flitOf (ftype cls : Nat) : Bytes := flitBody ftype cls ++ leBytes 4 (crc32 (flitBody ftype cls)).toNat
def spoiltFlit : Bytes := flitBody 1 0 ++ leBytes 4 (crc32 (flitBody 1 0) + 1).toNat

theorem flitBody_length (k c : Nat) : (flitBody k c).length = 252 := by
  simp only [flitBody, List.length_take, flit_length]; rfl

theorem flitOf_good (k c : Nat) : flitGood (flitOf k c) = true := by
  rw [flitOf, crc_tells _ _ (flitBody_length k c)]
  exact decide_eq_true rfl

theorem wit_FlitsCrossInOrder :
    (LinkUp upLink 0 ∧ ¬ LinkUp live 0 ∧ (upLink.fab.ports.at 0).nacked = false ∧ upLink.desk.tx = [] ∧
      (upLink.fab.ports.at 0).queue = []) ∧
    (flitGood (flitOf 1 4) = true ∧ flitType (flitOf 1 4) = 1 ∧ flitClass (flitOf 1 4) < 5 ∧
      flitSeq (flitOf 1 4) = (upLink.fab.ports.at 0).rxSeq ∧ 0 < (upLink.fab.ports.at 0).given.at (fin 5 (flitClass (flitOf 1 4))) ∧
      ((linked { link := .up }).fab.ports.at 0).given.at (fin 5 (flitClass (flitOf 1 4))) = 0 ∧ 5 ≤ flitClass (flitOf 1 5) ∧
      flitSeq (flitOf 1 4) ≠ ((linked { link := .up, rxSeq := 1 }).fab.ports.at 0).rxSeq) ∧
    flitGood spoiltFlit = false ∧
    (∀ k, flitGood (flitOf k 0) = true) ∧ flitType (flitOf 0 0) = 0 ∧ flitType (flitOf 2 0) = 2 ∧ flitType (flitOf 3 0) = 3 := by
  refine ⟨by unfold LinkUp; decide +kernel, ⟨flitOf_good 1 4, by decide +kernel, by decide +kernel, by decide +kernel,
    by decide +kernel, by decide +kernel, by decide +kernel, by decide +kernel⟩, ?_, fun k => flitOf_good k 0, by decide +kernel, by decide +kernel, by decide +kernel⟩
  have h (x : Word) : x + 1 ≠ x := by bv_omega
  rw [spoiltFlit, crc_tells _ _ (flitBody_length 1 0)]
  exact decide_eq_false (h _)

theorem wit_LinksTrainAndFall : Running upLink ∧ slPresent (envOf upLink) upLink.desk 0 = true ∧ upLink.desk.tx = [] ∧
    (live.fab.ports.at 0).link ≠ .up ∧ (upLink.fab.ports.at 0).link = .up ∧ (upLink.fab.ports.at 0).accepted = true ∧
    (live.fab.ports.at 0).link ≠ .up ∧ inRetrain (live.fab.ports.at 0) = false ∧
    (∀ k ∈ [1, 2], inRetrain { link := .training, failedTrains := k } = true ∧ mayRetrain { link := .training, failedTrains := k } = true) ∧
    mayRetrain upPort = true ∧ upPort.queue = [] ∧ mayRetrain (live.fab.ports.at 0) = false ∧
    (1 : Fin 64).val < (2 : Fin 64).val ∧ cabledPair (1 : Fin 64).val (2 : Fin 64).val = true ∧ 1 ≠ live.elec.moduleId.toNat ∧
    2 ≠ live.elec.moduleId.toNat := by
  unfold Running; decide +kernel

/-- A link trained for the third time without success is DOWN (R286). -/
theorem test_third_retrain_fails :
    (match exec (.linkRetrain 0 false) (linked { link := .training, failedTrains := 2 }),
        exec (.linkRetrain 0 false) (linked { link := .training, failedTrains := 1 }) with
      | .next t, .next u => decide ((t.fab.ports.at 0).link = .down ∧ (u.fab.ports.at 0).link = .training)
      | _, _ => false) = true := by decide +kernel

/-- A hello of module `id` from its port `port`. -/
def helloOf (id port : Nat) : Msg := ⟨4, 0, BitVec.ofNat 6 id, 0, false, 0, leBytes 1 id ++ leBytes 1 port ++ List.replicate 22 0, 0⟩
def mailed (f : Fabric) (m : Msg) : State := fabOf { f with inbox := [(0, m)] }

theorem wit_PeersComeAndGo :
    (Awake (mailed upLink.fab (helloOf 1 6)) ∧ ((mailed upLink.fab (helloOf 1 6)).fab.ports.at 0).refused = false ∧
      ({ upPort with refused := true } : FabPort).refused = true ∧
      (mailed upLink.fab (helloOf 1 6)).fab.inbox.find? (fun x => x.2.cls == 4 && x.2.rtype == 0) = some (0, helloOf 1 6) ∧
      field (helloOf 1 6).body 0 1 = 1 ∧ field (helloOf 1 6).body 1 1 = 6 ∧ (1, 6) ∈ cabled live.elec.moduleId.toNat 0 ∧
      1 ≠ live.elec.moduleId.toNat) ∧
    ((2, 6) ∉ cabled live.elec.moduleId.toNat 0 ∧ field (helloOf 0 6).body 0 1 = live.elec.moduleId.toNat ∧ upLink.desk.tx = []) ∧
    (Running live ∧ live.fab.unsent = []) ∧
    ((⟨1, 0, 0, 0, some 0, true⟩ : Peer) ∈ (fabOf { peers := [⟨1, 0, 0, 0, some 0, true⟩] }).fab.peers ∧
      0 + 1000000 * max 1 (min 10000 live.fab.timeout.toNat) ≤ (late live 100000000).desk.now ∧
      ∀ x ∈ (fabOf { peers := [⟨1, 0, 0, 0, none, true⟩] }).fab.peers, x.id.toNat = 1 → x.lostAt = none) := by
  unfold Awake Running; decide +kernel

/-- An image of two modules, and a run on it. -/
def pairImage (rank : Nat) : Image :=
  ⟨512, 1, 2, rank, false, 7, [0, 1], [], [], List.replicate 256 0, 0, List.replicate 16 0, [[some 0, some 1]], 0, none, List.replicate 256 0, [0], []⟩
def pairSlot (rank : Nat) (f : Slot → Slot) : Slot :=
  f { state := .committed, m := 2, jobKey := 7, image := some (pairImage rank), visited := [⟨1, 0, [], 0, 0⟩] }
def begun (p : Bytes) : Cmd := { cmd p with stage := .working, began := true }
def paired (rank : Nat) (m : Msg) : State :=
  onD (mailed upLink.fab m) fun d => withCur (withSlot d 0 (pairSlot rank id)) 0 (begun (packet 0x10 []))

/-- A record of a job with key 7. -/
def recordOf (cls rtype : Nat) (body : Bytes) : Msg := ⟨cls, rtype, 1, 0, false, 7, body, 0⟩
def blank (n : Nat) : Bytes := List.replicate n 0

theorem wit_RecordsReachTheirRun :
    (∀ x ∈ [(Instr.flipNoticeReceive, 0, 0), (.boundarySpinReceive, 1, 0), (.sweepEndRecord, 0, 1), (.exchangeRecord, 0, 2),
        (.stopRecord, 0, 3), (.replayRecord, 0, 4)], RecordRow x.1 (recordOf x.2.1 x.2.2 (blank 528)) ∧
      (mailed upLink.fab (recordOf x.2.1 x.2.2 (blank 528))).fab.inbox.find?
        (fun y => y.2.cls == x.2.1 && y.2.rtype == x.2.2) = some (0, recordOf x.2.1 x.2.2 (blank 528))) ∧
    (Awake (mailed upLink.fab (recordOf 0 0 (blank 528))) ∧ jobSlot live.desk 7 = none ∧
      heldBytes (live.desk.held ++ [recordOf 0 0 (blank 528)]) ≤ 1048576) ∧
    (Awake (paired 1 (recordOf 0 0 (blank 528))) ∧ jobSlot (paired 1 (recordOf 0 0 (blank 528))).desk 7 = some 0 ∧
      slotRun (paired 1 (recordOf 0 0 (blank 528))).desk 0 = some (0, begun (packet 0x10 [])) ∧
      cmdSlot (begun (packet 0x10 [])) = 0 ∧ ((paired 1 (recordOf 0 0 (blank 528))).desk.slots.at 0).image = some (pairImage 1) ∧
      (begun (packet 0x10 [])).stop = none ∧ windowCount (pairImage 1).n = 2 ∧ 0 ∉ (pairImage 1).home ∧
      fieldBits (blank 528) 0 4 0 20 = 0 ∧ fieldBits (blank 528) 4 4 10 1 = 0 ∧ fieldBits (spliceBytes (blank 528) 5 [4]) 4 4 10 1 = 1 ∧
      0 ∈ (pairSlot 1 fun s => { s with overflow := [0] }).overflow ∧ barrierNo (pairImage 1) (pairSlot 1 id).ann ≤ 0 ∧
      (pairSlot 1 id).spinRecs = [] ∧ (pairSlot 1 id).ann.opcode ≠ 0x18 ∧ midPhase (pairImage 1) (pairSlot 1 id) = true ∧
      midPhase (pairImage 1) (pairSlot 1 fun s => { s with visited := [] }) = false ∧
      (pairSlot 1 id).ann.sweep ≤ fieldBits (blank 136) 0 8 0 48 ∧ (pairSlot 1 id).rankSums = [] ∧ (pairImage 1).rank ≠ 0 ∧
      (pairSlot 1 id).winPhase = 0xFFFF ∧
      (pairSlot 1 id).replayId < field (blank 8 ++ leBytes 4 1) 8 4) := by
  unfold RecordRow Awake; decide +kernel

def served (cls rtype addr len : Nat) : State :=
  mailed upLink.fab ⟨cls, rtype, 1, 0, false, 3, leBytes 8 addr ++ (if rtype = 0 then leBytes 4 len else blank len), 0⟩
def waiting (w : Bool) : State := onD (mailed upLink.fab ⟨2, if w then 3 else 1, 1, 0, false, 3, [5], 0⟩) fun d =>
  withCur d 0 { begun (packet 0x30 []) with remote := [⟨3, 1, 0, 1, w⟩] }
def regMsg (rtype off v : Nat) : State :=
  { mailed upLink.fab ⟨4, rtype, 1, 0, false, 0, leBytes 4 off ++ leBytes 4 v, 0⟩ with locks := { owner := Tab.all 64 (some 16) } }

theorem wit_RemoteAccessesAreServed :
    (Running (served 2 0 0 4096) ∧ ((served 2 0 0 4096).fab.inbox.find? (fun x => isRemote 0 x.2)).isSome = true ∧
      servesPeer (served 2 0 0 4096) 0 4096 = true ∧ badSector (served 2 0 0 4096).desk.mem 0 4096 = none ∧
      badSector (onD (served 2 0 0 4096) fun d => { d with mem := { ue := [127] } }).desk.mem 0 4096 = some 127 ∧
      servesPeer (served 2 0 0 4097) 0 4097 = false) ∧
    (((served 3 2 0 4096).fab.inbox.find? (fun x => isRemote 2 x.2)).isSome = true ∧
      narrowHits (served 3 2 0 4096).desk.mem 0 4096 = [] ∧ servesPeer (served 3 2 0 0) 0 0 = false) ∧
    (∀ w ∈ [true, false], Awake (waiting w) ∧ ((waiting w).desk.sqs.at 0).cur.isSome = true ∧
      ((waiting w).fab.inbox.find? (fun x => isRemote (if w then 3 else 1) x.2 ||
        (!w && x.2.cls == 4 && x.2.rtype == 3))).isSome = true ∧
      asked w ⟨2, if w then 3 else 1, 1, 0, false, 3, [5], 0⟩ [⟨3, 1, 0, 1, w⟩] = some ⟨3, 1, 0, 1, w⟩) ∧
    (∀ x ∈ [(2, 0x38000 + 8 * 63), (1, 0x38004 + 8 * 63)],
      ((regMsg x.1 x.2 16).fab.inbox.find? (fun y => y.2.cls == 4 && y.2.rtype == x.1)).isSome = true ∧
      (regMsg x.1 x.2 16).locks.owner.at 63 = some (fin 32 (16 + (0 : Fin 16).val))) ∧
    field (leBytes 4 0x38004 ++ leBytes 4 16) 4 4 % 32 = 16 + (0 : Fin 16).val ∧ live.locks.owner.at 63 ≠ some 16 ∧
    field (leBytes 4 0x200 ++ leBytes 4 1) 0 4 = 0x200 ∧
    ((mailed upLink.fab ⟨4, 3, 1, 0, false, 0, [5, 0, 0, 0], 0⟩).fab.inbox.find?
      (fun x => isRemote 1 x.2 || (x.2.cls == 4 && x.2.rtype == 3))).isSome = true := by
  unfold Running Awake; decide +kernel

/-! ## Witnesses: transfers and slots -/

/-- The live module with this command under way in SQ0 on slot 0, and lost sectors. -/
def working (c : Cmd) (x : Slot) (ue : List Nat) : State :=
  onD live fun d => { withCur (withSlot d 0 x) 0 c with mem := { ue := ue } }

/-- A packet of `op` with its three 8-byte operands (Tables 9.9 and 9.15). -/
def transfer (op at_ a b len : Nat) : Bytes := packet op [(at_, leBytes 8 a ++ leBytes 8 b ++ leBytes 8 len)]
def loadPacket (op : Nat) : Bytes := packet op [(24, leBytes 8 0 ++ leBytes 8 4096 ++ leBytes 8 0 ++ leBytes 8 1048576)]

theorem wit_TransfersMoveBytes : live.desk.tclkOff = false ∧
    (Untouched (cmd (transfer 0x30 16 0 4096 4096)) ∧ AtHand (working (cmd (transfer 0x30 16 0 4096 4096)) {} []) 0 .copy (cmd (transfer 0x30 16 0 4096 4096)) ∧
      field (transfer 0x30 16 0 4096 4096) 16 8 = 0 ∧ field (transfer 0x30 16 0 4096 4096) 24 8 = 4096 ∧
      field (transfer 0x30 16 0 4096 4096) 32 8 = 4096 ∧ PlainSpan live 0 4096 ∧ PlainSpan live 4096 4096 ∧
      (addrDevice 0 + 4096 ≤ addrDevice 4096 ∨ addrDevice 4096 + 4096 ≤ addrDevice 0) ∧ 4096 ≤ 1048576 * 1) ∧
    (addrOwn (envOf live) hostBase = true ∧ hostBase ≤ addrDevice hostBase ∧ 0 < 513 ∧ 513 ≤ 1048576 ∧
      (∀ r ∈ requests (live.desk.ports.at (queuePort 0)).readMax 513, windowTarget (live.desk.ports.at (queuePort 0)) false (addrDevice hostBase + r.1) r.2 = some (0 + r.1)) ∧
      (∀ r ∈ requests (live.desk.ports.at (queuePort 0)).writeMax 513, windowTarget (live.desk.ports.at (queuePort 0)) true (addrDevice hostBase + r.1) r.2 = some (0 + r.1))) ∧
    (addrDevice 0 + 1 ≤ tableBase ∧ badSector (working (cmd (transfer 0x30 16 0 4096 1)) {} [0]).desk.mem (addrDevice 0) 1 = some 0) ∧
    (AtHand (working (cmd (transfer 0x31 16 0 5 7)) {} []) 0 .fill (cmd (transfer 0x31 16 0 5 7)) ∧ PlainSpan live 0 5) ∧
    (AtHand (working (cmd (loadPacket 1)) {} []) 0 .loadCouplings (cmd (loadPacket 1)) ∧
      AtHand (working (cmd (loadPacket 2)) {} []) 0 .loadBiases (cmd (loadPacket 2)) ∧
      AtHand (working (cmd (loadPacket 3)) {} []) 0 .loadGroups (cmd (loadPacket 3)) ∧ field (loadPacket 1) 24 8 = 0 ∧
      field (loadPacket 1) 32 8 + field (loadPacket 1) 40 8 = 4096 ∧ field (loadPacket 1) 48 8 = 1048576) := by
  unfold Untouched AtHand PlainSpan; decide +kernel

/-- A FILL of 3 bytes writes the pattern's bytes and no more (Table 9.15). -/
theorem test_fill :
    (match exec (.fill 0 1) (working (cmd (transfer 0x31 16 8 3 0x0504030201)) {} []) with
      | .next t => decide ((List.range 6).map (fun i => cellRead t.desk.mem.cells (7 + i)) = [0, 1, 2, 3, 0, 0])
      | _ => false) = true := by decide +kernel

/-- A COMMIT_PROBLEM packet for `n` variables on one tile, with `ext` block records in extent 0. -/
def commitPacket (n ext : Nat) : Bytes :=
  packet 4 [(18, [1]), (20, leBytes 2 1), (24, leBytes 4 n), (32, leBytes 4 ext)]

/-- A commit with TWIN of one record at 0, to an address off a sector's edge; its slot; and the desk when that sector is lost. -/
def twinPacket : Bytes := spliceBytes (spliceBytes (commitPacket 1 1) 17 [2]) 72 [1, 0, 16]
def twinSlot : Slot := { biasBase := some 0, extents := some 0 :: List.replicate 7 none }
def twinDesk : Desk := { live.desk with mem := { ue := [32768] } }
def twinRecords : List (Nat × Nat) := listRecords twinDesk twinSlot twinPacket

theorem wit_SlotsAreWritten : live.desk.tclkOff = false ∧
    (walkVerdict (envOf live) twinDesk twinRecords (commitParams twinPacket).twin = .ok ∧
      firstBad twinDesk (twinRecords ++ partRanges twinDesk twinSlot (commitParams twinPacket)) = none ∧
      (storeAll twinDesk (commitStores twinDesk 0 (commitParams twinPacket)
        (readParts twinDesk twinSlot (commitParams twinPacket) twinRecords) (1 :: List.replicate 7 0) [])).2 = some 32768) ∧
    AtHand (working (cmd (packet 5 [])) {} []) 0 .setSchedule (cmd (packet 5 [])) ∧
    AtHand (working (cmd (packet 6 [])) {} []) 0 .setPhaseMap (cmd (packet 6 [])) ∧
    (AtHand (working (cmd (commitPacket 0 0)) {} []) 0 .commitProblem (cmd (commitPacket 0 0)) ∧ (commitParams (commitPacket 0 0)).n = 0) ∧
    (AtHand (working (cmd (commitPacket 1 0)) { biasBase := some 0 } []) 0 .commitProblem (cmd (commitPacket 1 0)) ∧
      (commitParams (commitPacket 1 0)).n ≠ 0 ∧ (commitParams (commitPacket 1 0)).m = 1 ∧ (commitParams (commitPacket 1 0)).twin = none ∧
      walkVerdict (envOf live) live.desk (listRecords live.desk { biasBase := some 0 } (commitPacket 1 0)) none = .ok ∧
      (storeAll live.desk (commitStores live.desk 0 (commitParams (commitPacket 1 0))
        (readParts live.desk { biasBase := some 0 } (commitParams (commitPacket 1 0)) []) (List.replicate 8 0) [])).2 = none ∧
      firstBad live.desk (partRanges live.desk { biasBase := some 0 } (commitParams (commitPacket 1 0))) = none ∧
      firstBad (working (cmd (commitPacket 1 0)) {} [0]).desk
        (partRanges live.desk { biasBase := some 0 } (commitParams (commitPacket 1 0))) = some 0) ∧
    walkVerdict (envOf live) live.desk
      (listRecords live.desk { extents := some 0xE0000000000 :: List.replicate 7 none } (commitPacket 1 1)) none = .unmapped ∧
    walkVerdict (envOf { live with fuses := { grade := .ktk9440 } }) live.desk [(3 * dieSpan, 16400)] none = .absent := by
  unfold AtHand
  exact ⟨by decide +kernel, by decide +kernel, by decide +kernel, by decide +kernel, by decide +kernel, by decide +kernel, by decide +kernel,
    by decide +kernel⟩

/-- A COUPLE_OUT packet and its parameter block for `n` variables on one tile, with no block pairs. -/
def couplePacket (n : Nat) : Bytes := packet 0x25 [(18, [1]), (20, leBytes 2 1), (24, leBytes 4 n)]
def coupleCmd (n : Nat) : Cmd := { cmd (couplePacket n) with descs := [List.replicate 64 0, [], [], [], []] }

theorem wit_NetworksBecomeProblems : live.desk.tclkOff = false ∧
    (AtHand (working (coupleCmd 0) {} []) 0 .coupleOut (coupleCmd 0) ∧ Untouched (coupleCmd 0) ∧
      (coupleParams (couplePacket 0) (List.replicate 64 0)).n = 0) ∧
    (AtHand (working (coupleCmd 1) {} []) 0 .coupleOut (coupleCmd 1) ∧ Untouched (coupleCmd 1) ∧
      (coupleParams (couplePacket 1) (List.replicate 64 0)).n ≠ 0 ∧ (coupleParams (couplePacket 1) (List.replicate 64 0)).twin = none) ∧
    (coupleRecords 1 1 1 0 false (pairList []) = [] ∧ coupleNeeds (coupleCmd 1) [] = [(1, [])]) ∧
    (∀ (e : Env) (d : Desk) (c : Cmd), ∃ l, readOperands e d 0 c [(1, [])] = (d, l, none)) ∧
    (PlainSpan live 0 0 ∧ optTensor (coupleCmd 1).descs 2 = none) ∧
    (∀ d : Desk, d.mem.ue = [] → firstBad d (partRanges d {} (coupleParams (couplePacket 1) (List.replicate 64 0))) = none) := by
  refine ⟨rfl, by unfold AtHand Untouched; decide +kernel, by unfold AtHand Untouched; decide +kernel, by decide +kernel,
    fun e d c => ⟨_, rfl⟩, by unfold PlainSpan; decide +kernel, fun d h => ?_⟩
  have h2 : (coupleParams (couplePacket 1) (List.replicate 64 0)).initAddr = none := by decide +kernel
  have h3 : (coupleParams (couplePacket 1) (List.replicate 64 0)).m = 1 := by decide +kernel
  simp only [partRanges, h2, h3]
  split <;> rfl

/-- An image on one tile of one window, of two phases, and a slot that holds it. -/
def soloImage (blocks : List Block) : Image :=
  ⟨256, 1, 1, 0, false, 0, [0], blocks, [], List.replicate 256 0, 0, List.replicate 16 0, [[some 0], [some 0]], 0, none, List.replicate 256 0, [0], []⟩
def soloAnn : Ann := { spins := List.replicate 16 [0], bestSpins := List.replicate 16 [0], esum := [List.replicate 16 0] }
def soloSlot (f : Slot → Slot) : Slot :=
  f { state := .committed, gen := 1, n := 256, t := 1, m := 1, image := some (soloImage []), ann := soloAnn
      fields := List.replicate 16 (List.replicate 256 0), biases := List.replicate 256 0, mirror := List.replicate 16 [0]
      betas := List.replicate 16 0, betasPrev := List.replicate 16 0 }

theorem wit_SlotStateIsReadAndLoaded : live.desk.tclkOff = false ∧
    (Untouched (cmd (packet 0x13 [(17, [1])])) ∧ (soloSlot id).image = some (soloImage []) ∧
      TilesHold (working (cmd (packet 0x13 [(17, [1])])) (soloSlot id) []).desk (cmd (packet 0x13 [(17, [1])])) ∧
      AtHand (working (cmd (packet 0x13 [(17, [1])])) (soloSlot id) []) 0 .readState (cmd (packet 0x13 [(17, [1])])) ∧
      PlainSpan live 0 (((soloSlot id).ann.spins.getD 0 []).flatMap fun w => leBytes 32 w.toNat).length) ∧
    (AtHand (working (cmd (packet 0x33 [(22, [1, 0])])) (soloSlot id) []) 0 .tileStore (cmd (packet 0x33 [(22, [1, 0])])) ∧
      AtHand (working (cmd (packet 0x32 [(22, [1, 0])])) (soloSlot id) []) 0 .tileLoad (cmd (packet 0x32 [(22, [1, 0])])) ∧
      field (packet 0x33 [(22, [1, 0])]) 22 2 = 1 ∧ PlainSpan live 0 2048) := by
  unfold Untouched TilesHold AtHand PlainSpan; decide +kernel

/-! ## Witnesses: runs -/

def annealPacket (op : Nat) (parts : List (Nat × Bytes)) : Bytes := packet op parts

/-- A suspended CORRELATE of one window, and a CORRELATE with ADD that has read its moments. -/
def suspSlot (s : Slot) : Slot := { s with susp := some ⟨{ soloAnn with opcode := 0x18 }, [], 1, some [0], 1, [7]⟩ }
def addCmd : Cmd := { cmd (packet 0x18 [(17, [2])]) with stats := [List.replicate 2048 1] }

theorem wit_RunsBegin : live.desk.tclkOff = false ∧
    ((soloSlot suspSlot).susp ≠ none ∧ field (packet 0x15 []) 24 8 = 0 ∧
      loadsStats (soloImage []) (soloSlot suspSlot) (cmd (packet 0x15 [])) = true ∧
      statRanges (soloImage []) (startParams (soloImage []) (soloSlot suspSlot) (cmd (packet 0x15 []))) (cmdPairs (cmd (packet 0x15 []))) =
        [(0, 2048)] ∧ PlainSpan live 0 2048 ∧ addCmd.stats ≠ [] ∧ pktOp addCmd.pkt = some .correlate ∧ Untouched addCmd) ∧
    (∀ x ∈ [(0x10, Op.anneal), (0x11, .sample), (0x18, .correlate), (0x15, .resume)],
      Untouched (cmd (packet x.1 [])) ∧ TilesHold (working (cmd (packet x.1 [])) (soloSlot id) []).desk (cmd (packet x.1 [])) ∧
      AtHand (working (cmd (packet x.1 [])) (soloSlot id) []) 0 x.2 (cmd (packet x.1 [])) ∧
      loadsStats (soloImage []) (soloSlot id) (cmd (packet x.1 [])) = false) ∧
    ((soloSlot id).image = some (soloImage []) ∧ (soloSlot id).m = 1 ∧ (soloImage []).m = 1 ∧ (soloImage []).rank = 0) ∧
    (AtHand (working (cmd (packet 0x14 [])) (soloSlot id) []) 0 .suspend (cmd (packet 0x14 [])) ∧
      suspendTarget (working (cmd (packet 0x14 [])) (soloSlot id) []).desk 0 = none ∧
      suspendTarget (withCur (working (cmd (packet 0x14 [])) (soloSlot id) []).desk 4 (begun (packet 0x10 []))) 0 =
        some (4, begun (packet 0x10 []))) ∧
    (((working { begun (packet 0x14 []) with done := 1 } (soloSlot id) []).desk.sqs.at 0).cur = some { begun (packet 0x14 []) with done := 1 } ∧
      (liveCmds (working { begun (packet 0x14 []) with done := 1 } (soloSlot id) []).desk).any
        (fun x => x.2.stop == some (.suspend 0)) = false) := by
  unfold Untouched TilesHold AtHand PlainSpan; decide +kernel

def seen0 (s : Slot) : Slot := { s with visited := [⟨0, 0, [], 0, 0⟩] }
def anneals (f : Slot → Slot) (ue : List Nat) : State := working (begun (packet 0x10 [])) (soloSlot f) ue

/-- The blocks of a streaming tile, with more than 2 MiB of payloads: 96 C2 blocks are resident, the next is streamed (R111, R112). -/
def many : List Block := List.replicate 129 ⟨0, 0, 0, 0, [], 0, 0⟩

/-- The parameters of an asynchronous exchange (RX_MODE 2, RX_INTERVAL 1), and of a target of 0. -/
def rxParams : Bytes := spliceBytes (spliceBytes (List.replicate 112 0) 1 [4]) 2 [1, 0]
def winParams : Bytes := spliceBytes (List.replicate 112 0) 1 [8]
def targetParams : Bytes := spliceBytes (List.replicate 112 0) 1 [16]

theorem wit_VisitsAndBoundaries :
    (RunOn (anneals id []) 0 (begun (packet 0x10 [])) (soloImage []) (soloSlot id) ∧
      RunOn (anneals (fun s => { s with sweepDue := true }) []) 0 (begun (packet 0x10 [])) (soloImage [])
        (soloSlot fun s => { s with sweepDue := true }) ∧
      RunOn (anneals (fun s => { s with image := some (soloImage many) }) [512]) 0 (begun (packet 0x10 [])) (soloImage many)
        (soloSlot fun s => { s with image := some (soloImage many) })) ∧
    (0 < (soloImage []).t ∧ phaseEntry (soloImage []) 0 0 = some 0 ∧ mayVisit (soloImage []) (soloSlot id) = true ∧
      (∀ z ∈ (soloSlot id).visited, z.window ≠ 0) ∧
      (∀ k, k < 16 → (soloImage []).pos 0 < ((soloSlot id).ann.spins.getD k []).length) ∧ phaseEntry (soloImage []) 0 1 = none) ∧
    (phaseHeld (soloImage []) (soloSlot id) = false ∧ (soloSlot id).winPhase = 0xFFFF ∧ (soloSlot seen0).sweepDue = false ∧
      phaseHeld (soloImage []) (soloSlot seen0) = true ∧ fillsHeld (soloSlot seen0) = true ∧
      fillsHeld (soloSlot fun s => { s with due := [1] }) = false ∧ (soloSlot seen0).overflow = [] ∧ streamCount (soloImage []) = 0 ∧
      (slotParams (soloSlot seen0)).firstWin = false ∧ 0 + 1 < (soloImage []).phases.length ∧
      (runParams 0x10 winParams).firstWin = true ∧ (begun (packet 0x10 [])).strict = false ∧
      (soloImage []).phases.length ≤ ({ soloAnn with phase := 1 } : Ann).phase + 1) ∧
    ((phaseFetches (soloImage many) (soloSlot id) 0)[(tileBufs (soloSlot id) 0).done]? = some 96 ∧
      (soloImage many).blocks[96]? = some ⟨0, 0, 0, 0, [], 0, 0⟩ ∧
      rereadBlock live.desk (soloImage many) ⟨0, 0, 0, 0, [], 0, 0⟩ = ⟨0, 0, 0, 0, [], 0, 0⟩ ∧
      (List.range 4).any (dirLost (soloImage many) (soloSlot id) (begun (packet 0x10 [])).tiles) = false ∧
      badSector live.desk.mem 0 (recordLen 0) = none ∧
      badSector (anneals (fun s => { s with image := some (soloImage many) }) [512]).desk.mem 0 (recordLen 0) = some 512 ∧
      (soloImage many).twin = none ∧ (begun (packet 0x10 [])).stop = none ∧
      (phaseFetches (soloImage []) (soloSlot id) 0)[(tileBufs (soloSlot id) 0).done]? ≠ some 0) ∧
    ((runParams 0x10 rxParams).rxMode = 2 ∧ (begun (packet 0x10 [])).strict = false ∧
      rxDue (runParams 0x10 rxParams) 0 ≤ ({ soloAnn with sweep := 1 } : Ann).sweep ∧
      soloAnn.sweep < rxDue (runParams 0x10 rxParams) 0 ∧ (soloSlot id).betasPrev ≠ [] ∧
      curOf (anneals id []).desk 0 [.anneal, .sample, .resume] = some (begun (packet 0x10 []))) ∧
    ((runParams 0x10 targetParams).targetValid = true ∧ geti (List.replicate 16 (0 : Int)) 15 ≤ (runParams 0x10 targetParams).target ∧
      (runParams 0x10 targetParams).target < geti (List.replicate 16 (1 : Int)) 15 ∧
      (15 : Fin 16).val ∈ (⟨0, 0, List.replicate 16 0, [], List.range 16⟩ : Boundary).untested ∧
      terminal (begun (packet 0x10 [])).stop = false ∧ blocksEnd (begun (packet 0x10 [])).stop = false ∧ soloAnn.opcode ≠ 0x18 ∧
      midPhase (soloImage []) (soloSlot id) = false ∧ midPhase (soloImage []) (soloSlot seen0) = true) := by
  refine ⟨⟨?_, ?_, ?_⟩, ⟨by decide +kernel, by decide +kernel, by decide +kernel, by decide +kernel, ?_, by decide +kernel⟩,
    by decide +kernel, by decide +kernel, by decide +kernel, by decide +kernel⟩
  · unfold RunOn; decide +kernel
  · unfold RunOn; decide +kernel
  · unfold RunOn; decide +kernel
  · intro k hk
    have h : ∀ k : Fin 16, (soloImage []).pos 0 < ((soloSlot id).ann.spins.getD k.val []).length := by decide +kernel
    exact h ⟨k, hk⟩

/-- The last sweep of one: SWEEPS = 1. -/
def oneSweep : Bytes := spliceBytes (List.replicate 112 0) 4 [1]
def due (ps : Bytes) (f : Ann → Ann) (s : Slot) : Slot := { s with sweepDue := true, ann := f { s.ann with opcode := 0x10, params := ps } }

theorem wit_SweepsEnd :
    (RunOn (anneals (due oneSweep id) []) 0 (begun (packet 0x10 [])) (soloImage []) (soloSlot (due oneSweep id)) ∧
      (soloSlot (due oneSweep id)).winPhase = 0xFFFF ∧ (soloSlot (due oneSweep id)).boundaries = [] ∧
      (soloSlot (due oneSweep id)).sweepDue = true ∧
      (sampleWrites (soloImage []) (slotParams (soloSlot (due oneSweep id))) { soloAnn with e := energiesNow (soloImage []) (soloSlot (due oneSweep id)) }).1 = [] ∧
      (stopTest (slotParams (soloSlot (due oneSweep id)))
        (sweepTrack (soloImage []) (slotParams (soloSlot (due oneSweep id))) (begun (packet 0x10 [])) (soloSlot (due oneSweep id)))).isSome = true ∧
      blocksEnd (begun (packet 0x10 [])).stop = false ∧ (begun (packet 0x10 [])).stop ≠ some .windowFault) ∧
    (∀ ck ∈ [0, 1],
      RunOn (anneals (due (List.replicate 112 0) fun a => { a with ckpt := ck }) []) 0 (begun (packet 0x10 [])) (soloImage [])
        (soloSlot (due (List.replicate 112 0) fun a => { a with ckpt := ck })) ∧
      stopTest (slotParams (soloSlot (due (List.replicate 112 0) fun a => { a with ckpt := ck })))
        (sweepTrack (soloImage []) (slotParams (soloSlot (due (List.replicate 112 0) fun a => { a with ckpt := ck })))
          (begun (packet 0x10 [])) (soloSlot (due (List.replicate 112 0) fun a => { a with ckpt := ck }))) = none) ∧
    (exchangeAtBarrier (runParams 0x10 (List.replicate 112 0)) [] { soloAnn with ckpt := 1 }).ckpt = 1 ∧
    (runParams 0x10 (List.replicate 112 0)).wpAddr = 0 ∧
    ((soloSlot id).sweepDue = false ∧ (anneals id []).desk.mem.ue = [] ∧ (soloSlot id).visited = [] ∧
      mayVisit (soloImage []) (soloSlot id) = true ∧ (slotParams (soloSlot id)).firstWin = false ∧
      (∀ w ∈ phaseWindows (soloImage []) (soloSlot id).ann.phase, w ∈ ownPhase (soloImage []) (soloSlot id).ann) ∧
      (soloSlot id).ann.phase + 1 < (soloImage []).phases.length ∧ (soloSlot id).overflow = [] ∧ streamCount (soloImage []) = 0 ∧
      (begun (packet 0x10 [])).stop = none) ∧
    (∀ x ∈ [(0x10, Op.anneal), (0x11, .sample), (0x18, .correlate), (0x15, .resume)],
      curOf (working (begun (packet x.1 [])) (soloSlot id) []).desk 0 [x.2] = some (begun (packet x.1 []))) := by
  unfold RunOn; decide +kernel

/-- R161's example: with one home window the fields and biases take rows 0 to 16, and under a CORRELATE with four pairs the
last pair ends at row 1,041. -/
theorem test_accumulation_groups :
    (fieldGroup (soloImage []) 0).cfg = 0x1808800#32 ∧
      (let g := statGroup (soloImage []) 0 [(0, 0), (0, 1), (0, 2), (0, 3)] false 0
       (g.firstRow, g.firstRow + g.rows - 1, g.terms) = (17, 1041, 0)) := by decide +kernel

/-! ## Witnesses: tensor, flow and management commands -/

/-- A packed FP32 tensor of `d1` rows of one element at `addr` (Table 6.3). -/
def tensorAt (addr d1 : Nat) : Bytes :=
  leBytes 8 addr ++ leBytes 8 0 ++ leBytes 4 8 ++ leBytes 4 0x3F800000 ++ leBytes 4 1 ++ leBytes 4 d1 ++ leBytes 4 1 ++
  leBytes 4 1 ++ leBytes 8 32 ++ leBytes 8 0 ++ leBytes 8 0
/-- VECTOR_OP CONVERT of one tile, of `d1` rows from 0 to 2^20. -/
def convertCmd (d1 : Nat) : Cmd :=
  { cmd (packet 0x23 [(48, leBytes 2 1)]) with descs := [tensorAt 0 d1, [], [], tensorAt 1048576 d1] }
def convertWork (d1 : Nat) : Cmd :=
  { beginWork live.desk (convertCmd d1) with out := List.replicate (keptLen .vectorOp (convertCmd d1)) 0, asked := 1 }

theorem wit_TensorCommandsFillTheirOutput :
    (AtHand (working (convertCmd 1) {} []) 0 .vectorOp (convertCmd 1) ∧ Untouched (convertCmd 1) ∧
      (∀ r ∈ remoteOperands .vectorOp (convertCmd 1), addrOwn (envOf live) r.1 = true) ∧
      live.desk.tclkOff = false ∧ takeTiles live.desk (convertCmd 1).tiles none = live.desk ∧
      (fetchKept (envOf live) live.desk 0 .vectorOp (convertWork 1)).2.2 = none ∧
      (convertCmd 1).done < unitCount (groupBlocks .vectorOp (convertCmd 1)) ∧ unitCount (groupBlocks .vectorOp (convertCmd 1)) = 1) ∧
    (((working (convertWork 1) {} []).desk.sqs.at 0).cur = some (convertWork 1) ∧ (convertWork 1).stage = .working ∧
      (convertWork 1).stop = none ∧ (convertWork 1).asked ≠ 0 ∧ (convertWork 1).remote = [] ∧ opTensor .vectorOp = true) ∧
    (∃ l, readOperands (envOf (working (convertCmd 1) {} [])) (working (convertCmd 1) {} []).desk 0 (convertWork 1)
        (unitNeeds .vectorOp (convertWork 1) (groupBlocks .vectorOp (convertCmd 1)) (nextBlocks (groupBlocks .vectorOp (convertCmd 1)) 0)) =
        ((working (convertCmd 1) {} []).desk, l, none) ∧
      ∀ b ∈ nextBlocks (groupBlocks .vectorOp (convertCmd 1)) 0, ∀ r ∈ b.2.rows,
        ∀ w ∈ rowWrites .vectorOp (convertCmd 1) l r b.2.c0 (rowVals .vectorOp (convertCmd 1) l r b.2.c0 b.2.c1).1,
          w.1 = 1048576 ∧ w.2.length = 4) ∧
    PlainSpan live 1048576 4 ∧
    (∃ f, (readOperands (envOf (working (convertCmd 1) {} [0])) (working (convertCmd 1) {} [0]).desk 0 (convertWork 1)
        (unitNeeds .vectorOp (convertWork 1) (groupBlocks .vectorOp (convertCmd 1))
          (nextBlocks (groupBlocks .vectorOp (convertCmd 1)) 0))).2.2 = some f) ∧
    (∀ x ∈ [(0x20, Op.matmul), (0x21, .conv2d), (0x22, .attend), (0x24, .reduce)], pktOp (packet x.1 []) = some x.2) := by
  refine ⟨⟨by unfold AtHand; decide +kernel, by unfold Untouched; decide +kernel, by decide +kernel, rfl, rfl, by decide +kernel, by decide +kernel⟩,
    ⟨rfl, by decide +kernel⟩, ⟨_, rfl, by decide +kernel⟩, by unfold PlainSpan; decide +kernel,
    Option.isSome_iff_exists.mp (by decide +kernel), by decide +kernel⟩

/-- An ITINERARY_STORE of one packet of memory, with one reference entry at 128. -/
def storePacket : Bytes := packet 0x48 [(18, leBytes 2 1), (20, leBytes 2 1), (32, leBytes 8 128)]
/-- A FENCE_SIGNAL packet that takes patches, and a reference to its byte 16. -/
def storedCells : List Host.Cell := [⟨0, 0x40⟩, ⟨1, 8⟩, ⟨130, 16⟩, ⟨131, 1⟩]

theorem wit_FencesAndItineraries :
    (AtHand (working (cmd (packet 0x40 [(16, [255]), (24, leBytes 8 (2 ^ 64 - 1))])) {} []) 0 .fenceSignal
        (cmd (packet 0x40 [(16, [255]), (24, leBytes 8 (2 ^ 64 - 1))])) ∧
      field (packet 0x40 [(16, [255]), (24, leBytes 8 (2 ^ 64 - 1))]) 24 8 = 2 ^ 64 - 1 ∧ field (packet 0x40 []) 24 8 = 0) ∧
    AtHand (working (cmd (packet 0x41 [])) {} []) 0 .fenceWait (cmd (packet 0x41 [])) ∧
    AtHand (working (cmd (packet 0x4A [])) {} []) 0 .patch (cmd (packet 0x4A [])) ∧
    (AtHand (working (cmd storePacket) {} []) 0 .itineraryStore (cmd storePacket) ∧ Untouched (cmd storePacket) ∧
      PlainSpan live (field storePacket 24 8) (128 * field storePacket 18 2) ∧
      PlainSpan live (field storePacket 32 8) (8 * field storePacket 20 2) ∧
      (piecesOf 128 1 (cellReads storedCells 0 128)).all storable = true ∧
      (piecesOf 8 1 (cellReads storedCells 128 8)).all (refOk (piecesOf 128 1 (cellReads storedCells 0 128))) = true ∧
      (piecesOf 8 1 (cellReads [] 128 8)).all (refOk (piecesOf 128 1 (cellReads [] 0 128))) = false) ∧
    (AtHand (working { cmd (packet 0x49 []) with itin := some 0 } {} []) 0 .itineraryLaunch { cmd (packet 0x49 []) with itin := some 0 } ∧
      ({ packets := [[]] } : Itin).packets ≠ []) := by
  unfold AtHand Untouched PlainSpan; decide +kernel

/-- The example of R236 in small: a fence at its largest value holds there. -/
theorem test_fence_holds :
    (match exec (.fenceSignal 0) (onD (working (cmd (packet 0x40 [])) {} []) fun d => withFence d 0 { value := 0xFFFFFFFFFFFFFFFF }) with
      | .next t => decide ((t.desk.fences.at 0).value = 0xFFFFFFFFFFFFFFFF)
      | _ => false) = true := by decide +kernel

/-- The live module with one packet, of this opcode and bytes, in the ring of SQ0. -/
def rung (op : Nat) (parts : List (Nat × Bytes)) : State := onD live fun d => { d with
  ring := cellWrites [] 0 (packet op parts)
  sqs := d.sqs.put 0 { enable := true, log2 := 4, tail := 1, visible := [(0, 0)] } }
def head0 (op : Nat) (parts : List (Nat × Bytes)) : Cand := ⟨packet op parts, 0, none, 0⟩

theorem wit_QueriesMarksAbortsAndSeeds :
    (AtHand (working (cmd (packet 0x50 [])) {} []) 0 .query (cmd (packet 0x50 [])) ∧
      AtHand (working (cmd (packet 0x51 [])) {} []) 0 .ledgerMark (cmd (packet 0x51 []))) ∧
    (Awake (rung 0x60 [(16, [4])]) ∧ ((rung 0x60 [(16, [4])]).desk.sqs.at 0).enable = true ∧
      (0#12) ∈ freshIndices (rung 0x60 [(16, [4])]).desk 0 ∧
      ringPacket (rung 0x60 [(16, [4])]).desk ((rung 0x60 [(16, [4])]).desk.sqs.at 0) 0 = packet 0x60 [(16, [4])] ∧
      pktOp (packet 0x60 [(16, [4])]) = some .abort ∧ isReady (rung 0x60 [(16, [4])]).desk 0 (head0 0x60 [(16, [4])]) = true ∧
      visibleAt ((rung 0x60 [(16, [4])]).desk.sqs.at 0) 0 0 = 0 ∧
      earlyChecks (rung 0x60 [(16, [4])]).desk (head0 0x60 [(16, [4])]) = none ∧
      lateChecks (envOf (rung 0x60 [(16, [4])])) (rung 0x60 [(16, [4])]).desk 0 .abort (packet 0x60 [(16, [4])]) [] = none ∧
      pktSlot (packet 0x60 [(16, [4])]) = 4 ∧ (rung 0x60 [(16, [4])]).desk.aborts = [] ∧
      (abortTargets (rung 0x60 [(16, [4])]).desk (packet 0x60 [(16, [4])])).filter (fun j => !((4 : Fin 64) == 0 && j == (0 : BitVec 12))) = []) ∧
    ((abortTargets (withSq (rung 0x60 [(16, [4])]).desk 4 { enable := true, log2 := 4, tail := 1, cur := some (begun (packet 0x30 [])) })
        (packet 0x60 [(16, [4])])).filter (fun j => !((4 : Fin 64) == 0 && j == (0 : BitVec 12))) = [0] ∧
      (begun (packet 0x30 [])).index = 0 ∧ (begun (packet 0x30 [])).stage = .working ∧ (begun (packet 0x30 [])).stop = none) ∧
    (∀ pool ∈ [[1, 2, 3, 4], [1, 2, (3 : Word)]], ∀ b ∈ [0, (1 : Byte)],
      AtHand { working (cmd (packet 0x38 [(16, [b])])) {} [] with trng := { state := .ready, pool := pool } } 0 .seedDraw
        (cmd (packet 0x38 [(16, [b])])) ∧
      ((field (packet 0x38 [(16, [b])]) 16 1).testBit 0 = true ↔ b = 1)) ∧
    (PlainSpan live 0 16 ∧ ({ state := .requal } : Trng).state = .requal) := by
  unfold AtHand Awake PlainSpan
  exact ⟨by decide +kernel, by decide +kernel, by decide +kernel, by decide +kernel, by decide +kernel⟩

def attKey0 : AttKey := ⟨[], 0, [], List.replicate 32 0, List.replicate 32 0, List.replicate 32 0⟩

theorem wit_ManagementCommands :
    (Untouched (cmd (packet 0x70 [(32, leBytes 8 4), (40, leBytes 8 1)])) ∧
      AtHand (working (cmd (packet 0x70 [(32, leBytes 8 4), (40, leBytes 8 1)])) {} []) 0 .imageStage
        (cmd (packet 0x70 [(32, leBytes 8 4), (40, leBytes 8 1)])) ∧ PlainSpan live 0 1 ∧
      field (packet 0x70 [(32, leBytes 8 4), (40, leBytes 8 1)]) 40 8 = 1 ∧ stageSlotOf live.sec 4 [2] = some 1) ∧
    (∀ k ∈ [0, (1 : Byte)], AtHand (working (cmd (packet 0x71 [(16, [k])])) {} []) 0 .imageInstall (cmd (packet 0x71 [(16, [k])])) ∧
      field (packet 0x71 [(16, [k])]) 16 1 ≤ 1) ∧
    (AtHand (working (cmd (packet 0x72 [])) {} []) 0 .attest (cmd (packet 0x72 [])) ∧
      aliasServes { live.sec with attKey := some attKey0 } = true ∧ live.sec.genWanted = false ∧ live.sec.attKey = none ∧
      certifiable live.sec = false ∧ PlainSpan live 0 320) ∧
    ((({ begun (packet 0x72 []) with done := 2 } : Cmd).done = 2) ∧ PlainSpan live 0 5704) ∧
    (AtHand (working (cmd (packet 0x73 [(16, [1])])) {} []) 0 .lifecycle (cmd (packet 0x73 [(16, [1])])) ∧ PlainSpan live 0 2884 ∧
      lcOf (field (packet 0x73 [(16, [1])]) 16 1) = .provisioned ∧ live.sec.lifecycle = .blank ∧ live.sec.drawn = [] ∧
      (keyed 24).trng.state = .ready ∧ (keyed 24).trng.waiting = [] ∧ 24 ≤ (keyed 24).trng.pool.length ∧
      tokenOk live.fuses live.sec 1 [] = false) := by
  unfold Untouched AtHand PlainSpan
  exact ⟨by decide +kernel, by decide +kernel, by decide +kernel, by decide +kernel, by decide +kernel⟩

/-- The report of a module without a key has 320 bytes (R377). -/
theorem test_report_length : (attBody live 1 (List.replicate 32 0)).length = 320 := by
  decide +kernel

/-! ## Witnesses: Front Desk's own events -/

/-- Whether an examination comes to a start. -/
def starting (x : Examined) : Bool := match x with
  | .starts _ => true
  | _ => false

theorem starting_some (x : Examined) (h : starting x = true) : ∃ d, x = .starts d := by
  cases x <;> simp [starting] at h ⊢

theorem first_of_round (e : Env) (n : Fin 64) (ns : List (Fin 64)) (d : Desk) (h : starting (examine e d n) = true) :
    firstStart e (n :: ns) d = (d, some n) := by
  obtain ⟨x, hx⟩ := starting_some _ h
  simp [firstStart, hx]

/-- From RR = 63 the round begins at queue 0. -/
theorem round_from_reset (d : Desk) (h : d.rr = 63) :
    roundRobin d = 0 :: (List.range 63).map fun k => fin 64 (k + 1) := by
  simp only [roundRobin, h]
  decide +kernel

theorem wit_HeadsAreDispatched :
    (∀ s ∈ [rung 0x40 [], rung 0x31 [(24, [1])]], (s.desk.sqs.at 0).fetch = [] ∧ (s.desk.sqs.at 0).fetchErr = false ∧
      tilesBarred s.desk = false) ∧ pktOp (packet 0x99 []) = none ∧
    (∀ x ∈ [(0x40, Op.fenceSignal), (0x05, .setSchedule)], Awake (rung x.1 []) ∧
      ((rung x.1 []).desk.sqs.at 0).cur = none ∧ nextCand (rung x.1 []).desk 0 = some (head0 x.1 []) ∧
      isReady (rung x.1 []).desk 0 (head0 x.1 []) = true ∧ pktOp (packet x.1 []) = some x.2 ∧
      earlyChecks (rung x.1 []).desk (head0 x.1 []) = none ∧ opTile x.2 = false ∧ opMgmt x.2 = false ∧
      dispatchReads (rung x.1 []).desk x.2 (packet x.1 []) 0 [] = [] ∧ dispatchReads (rung x.1 []).desk x.2 (packet x.1 []) 1 [] = [] ∧
      packetVerdict (envOf (rung x.1 [])) (rung x.1 []).desk 0 x.2 (packet x.1 []) = .ok ∧
      lateChecks (envOf (rung x.1 [])) (rung x.1 []).desk 0 x.2 (packet x.1 []) [] = none) ∧
    (firstStart (envOf (rung 0x40 [])) (roundRobin (rung 0x40 []).desk) (rung 0x40 []).desk = ((rung 0x40 []).desk, some 0) ∧
      firstStart (envOf (rung 0x05 [])) (roundRobin (rung 0x05 []).desk) (rung 0x05 []).desk = ((rung 0x05 []).desk, some 0) ∧
      (firstStart (envOf live) (roundRobin live.desk) live.desk).2 = none) ∧
    (∃ d, examine (envOf (rung 0x40 [])) (rung 0x40 []).desk 0 = .starts d) ∧
    (packetVerdict (envOf (rung 0x31 [(24, [1])])) (rung 0x31 [(24, [1])]).desk 0 .fill (packet 0x31 [(24, [1])]) = .ok ∧
      lateChecks (envOf (rung 0x31 [(24, [1])])) (rung 0x31 [(24, [1])]).desk 0 .fill (packet 0x31 [(24, [1])]) [] = none ∧
      allotFor live.fuses.grade (rung 0x31 [(24, [1])]).desk 0 none (max 1 ((rung 0x31 [(24, [1])]).desk.sqs.at 0).allot.length) = some [0]) ∧
    (earlyChecks live.desk (head0 0x40 [(1, [0x80])]) = some stBad) ∧
    (slotClash .fenceSignal (packet 0x40 []) .copy (packet 0x30 []) = false ∧ (begun (packet 0x30 [])).launch = none ∧
      nextCand (onD (rung 0x40 []) fun d => withSq d 0 { d.sqs.at 0 with tail := 1, head := 0, cur := some { begun (packet 0x30 []) with index := 15 } }).desk 0 =
        some (head0 0x40 []) ∧
      isReady (onD (rung 0x40 []) fun d => withSq d 0 { d.sqs.at 0 with cur := some { begun (packet 0x30 []) with index := 15 } }).desk 0 (head0 0x40 []) = true) := by
  exact ⟨by decide +kernel, by decide +kernel, by unfold Awake; decide +kernel,
    ⟨by rw [round_from_reset _ (by decide +kernel)]; exact first_of_round _ _ _ _ (by decide +kernel),
    by rw [round_from_reset _ (by decide +kernel)]; exact first_of_round _ _ _ _ (by decide +kernel), by decide +kernel⟩,
    starting_some _ (by decide +kernel), by decide +kernel, by decide +kernel, by decide +kernel⟩

def finished (op : Nat) : Cmd := { begun (packet op []) with stage := .ended }

theorem wit_CommitPointsComplete :
    (∀ op ∈ [0x40, 0x51], Awake (running (finished op)) ∧ ((running (finished op)).desk.sqs.at 0).cur = some (finished op) ∧
      (finished op).stage = .ended ∧ (finished op).remote = [] ∧ (finished op).launch = none ∧
      ((running (finished op)).desk.sqs.at 0).early = [] ∧ ((running (finished op)).desk.sqs.at 0).head = (finished op).index ∧
      ((running (finished op)).desk.sqs.at 0).pre = none ∧ ((running (finished op)).desk.sqs.at 0).launch = none) ∧
    (pktOp (finished 0x40).pkt = some .fenceSignal ∧ opNamesSlot .fenceSignal = false ∧ pktOp (finished 0x51).pkt = some .ledgerMark ∧
      live.desk.aborts = [] ∧ PortsQuiet live.desk ∧ (live.desk.cqs.at 0).enable = true ∧
      cqFull (live.desk.cqs.at 0) = false ∧ (live.desk.cqs.at 0).waiting = [] ∧ (live.desk.cqs.at 0).report = false ∧
      (live.desk.cqs.at 0).irq = false ∧ (live.desk.ports.at 0).guest.state = .bound ∧
      transferOk (live.desk.ports.at 0) true (0x10000 + 64 * 15) 64 = true ∧ (finished 0x40).status ≠ stTiming) ∧
    ((begun (packet 0x40 [])).stage ≠ .ended ∧ pktOp (finished 0x10).pkt = some .anneal ∧ opRun .anneal = true) := by
  unfold Awake PortsQuiet PortQuiet; decide +kernel

/-- The entry's PHASE toggles as the ring wraps (R208). -/
theorem test_phase_wraps :
    (match exec (.commitPoint 0) (onD (running (finished 0x40)) fun d => withCq d 0 { d.cqs.at 0 with tail := 15, head := 5 }) with
      | .next t => decide ((t.desk.cqs.at 0).tail = 0 ∧ (t.desk.cqs.at 0).phase = false ∧ (t.desk.sqs.at 0).head = 1)
      | _ => false) = true := by decide +kernel

/-- A run at work in SQ0 on all the tiles but one, with a head in SQ4 that needs two. -/
def crowded : State := onD (late (anneals id []) 2000000) fun d => { d with
  sqs := (d.sqs.upd 0 fun q => { q with allot := List.range 256 }).put 4 { enable := true, log2 := 4, base := 2048, tail := 1, visible := [(0, 0)] }
  ring := cellWrites [] 2048 (packet 0x31 [(24, [1])]) }
def slicedCmd : Cmd := { begun (packet 0x30 []) with stage := .sliced }

theorem wit_StopsAndSlices :
    (Awake crowded ∧ (crowded.desk.sqs.at 0).cur = some (begun (packet 0x10 [])) ∧ opSliced .anneal = true ∧
      0 + 100000 * max 1 (min 1000 crowded.desk.slice.toNat) ≤ crowded.desk.now ∧ crowded.desk.tripHold = false ∧
      tilesNeeded (envOf crowded) crowded.desk 0 = true ∧ inTimed (begun (packet 0x10 [])) = false ∧ inTimed timedCmd = true ∧
      (late (anneals id []) 1999999).desk.now < 0 + 100000 * max 1 (min 1000 live.desk.slice.toNat)) ∧
    (firstStart (envOf (running slicedCmd)) (roundRobin (running slicedCmd).desk) (running slicedCmd).desk =
        ((running slicedCmd).desk, some 0) ∧
      slicedCmd.stage = .sliced ∧ slicedCmd.began = true ∧
      resumeTiles (envOf (running slicedCmd)) (running slicedCmd).desk 0 slicedCmd = some []) ∧
    (live.desk.tiles.due = [] ∧ stillOf live.desk (begun (packet 0x30 [])) = false ∧ stillOf live.desk (begun (packet 0x10 [])) = false ∧
      atPoint live.desk { begun (packet 0x30 []) with stop := some .slice } = true) ∧
    (∀ k ∈ [Stop.slice, .abort], ({ begun (packet 0x30 []) with stop := some k } : Cmd).stop = some k ∧
      (begun (packet 0x30 [])).stage = .working ∧ opRun .copy = false) ∧
    ((soloSlot id).image = some (soloImage []) ∧ opRun .anneal = true ∧ (begun (packet 0x10 [])).began = true ∧
      (begun (packet 0x10 [])).fault = false ∧ midPhase (soloImage []) (soloSlot id) = false ∧ (soloSlot id).sweepDue = false ∧
      soloAnn.opcode ≠ 0x18 ∧ (runParams soloAnn.opcode soloAnn.params).wpAddr = 0) := by
  exact ⟨by unfold Awake; decide +kernel, ⟨by rw [round_from_reset _ (by decide +kernel)]; exact first_of_round _ _ _ _ (by decide +kernel), by decide, by decide,
    by decide +kernel⟩, by decide +kernel, by decide +kernel, by decide +kernel⟩

/-- A head that waits for fence 0 to reach 1, with a deadline of 5 ns. -/
def waitsFence : State := rung 0x40 [(1, [0x30]), (10, [1]), (120, [5])]

theorem wit_LimitsExpire :
    (Awake (late waitsFence 6) ∧ ((late waitsFence 6).desk.sqs.at 0).cur = none ∧
      nextCand (late waitsFence 6).desk 0 = some (head0 0x40 [(1, [0x30]), (10, [1]), (120, [5])]) ∧
      pktDeadlineValid (packet 0x40 [(1, [0x30]), (10, [1]), (120, [5])]) = true ∧
      pktDeadline (packet 0x40 [(1, [0x30]), (10, [1]), (120, [5])]) < (late waitsFence 6).desk.now ∧
      fenceBlocked (late waitsFence 6).desk 0 = true ∧
      (late waitsFence 5).desk.now ≤ pktDeadline (packet 0x40 [(1, [0x30]), (10, [1]), (120, [5])])) ∧
    (pktOp (packet 0x30 []) = some .copy ∧ opTile .copy = true ∧ (begun (packet 0x30 [])).stage = .working ∧ (live.desk.sqs.at 0).hang = 500 ∧
      0 + 1000000 * (500#16).toNat ≤ (late live 500000000).desk.now ∧ (late live 499999999).desk.now < 0 + 1000000 * (500#16).toNat ∧
      ({ begun (packet 0x30 []) with stop := some .hang } : Cmd).stop = some .hang ∧ 0 + 10000000 ≤ (late live 10000000).desk.now) ∧
    (deadlockDue (late (onD waitsFence fun d => { d with deadlockSince := some 0 }) 655360).desk = true ∧
      deadlockDue (late (onD waitsFence fun d => { d with deadlockSince := some 0 }) 655359).desk = false ∧
      firstBlocked waitsFence.desk = some 0) ∧
    (live.desk.tiles.due = [] ∧ asleep.elec.life = .running ∧ asleep.np.state ≠ .active ∧ asleep.np.state ≠ .idle ∧
      asleep.np.waking = false) := by
  unfold Awake; decide +kernel

/-! ## Check values of the spec -/

/-- The test vectors of the sweep generator (R98, Tables 4.6 and 4.7). -/
theorem test_sweep_generator :
    sweepDraw 0 0 0 0 0 = 0x5D325969 ∧
    sweepDraw 0xFEDCBA98765432100123456789ABCDEF#128 5 700 785 2 = 0xF30D2ABD := by decide +kernel

/-- The check values of beta_of (Table 4.1). -/
theorem test_beta :
    [0x00000000, 0x00000100, 0x00000101, 0x00010000, 0x00030000, 0x00640000, 0xFFFFFFFF].map betaOf =
      [0xFFFFFFFF, 0xFFFFFFFF, 0xFF00FF01, 0x01000000, 0x00555555, 0x00028F5C, 0x00000100] := by decide +kernel

/-- The check values of the acceptance tables (Table 3.2). -/
theorem test_acceptance_tables :
    tableA 0 = 0xFFFFFFFF ∧ tableH 0 = 0x80000000 ∧ tableA 2927 = 1 ∧ tableH 2927 = 1 ∧ tableA 2928 = 0 ∧ tableH 2928 = 0 := by
  decide +kernel

/-- The check value of the digest (R189). -/
theorem test_crc : crc64 ("123456789".toList.map fun c => BitVec.ofNat 8 c.toNat) = 0x6C40DF5F0B497347 := by decide +kernel

/-- SHAKE256 of the empty message, as FIPS 202's examples give it (log entry 9). -/
theorem test_shake_empty :
    shake256 [] = (leBytes 32 0x46b9dd2b0ba88d13233b3feb743eeb243fcd52ea62b81b82b50c27646ed5762f).reverse := by decide +kernel

/-- A KTK-9460 with a partner on UP1, as in the worked example of spec/18_register_blocks.md. -/
def cell : State :=
  onD { State.reset with fuses := { grade := .ktk9460 } } fun d => { d with
    ports := d.ports.put 1 { guest := { state := .bound } }, sqs := d.sqs.put 4 { enable := true, log2 := 4 }
    ledger := { d.ledger with head := 1052, ring := d.ledger.ring.put 27 ([7] ++ List.replicate 127 0) } }

/-- Identity, another port's queue, the Ledger ring, and blocks of absent units (R394, R395, R397). -/
theorem test_register_reads :
    wordRead cell 1 0x0 = 0x94601E6B ∧ wordRead cell 1 0x10 = 0x0C080F39 ∧ wordRead cell 1 0x14 = 0xD ∧
      wordRead cell 1 0x20110 = 0 ∧ wordRead cell 1 0x10100 = 0 ∧ wordRead cell 1 0x90010 = 1052 ∧
      wordRead cell 1 0x98D80 = 7 ∧ wordRead cell 1 0xC0900 = 0 ∧ wordRead cell 1 0xC0004 = 256 ∧
      wordRead cell 1 0x48040 = 2 ∧ barRead cell 1 0x12 2 = [0x08, 0x0C] ∧ barRead cell 1 0x12 4 = [0, 0, 0, 0] := by decide +kernel

/-- Registers at their reset values (Tables 8.2, 8.12, 9.1, 9.6, 10.2, 14.9, 14.10). -/
theorem test_registers_at_reset :
    wordRead cell 1 0x1000 = 1 ∧ wordRead cell 1 0x1004 = 64 ∧ wordRead cell 1 0x9000C = 6 ∧ wordRead cell 1 0x10054 = 500 ∧
      wordRead cell 1 0x11000 = 20 ∧ wordRead cell 1 0x30840 = 8 ∧ wordRead cell 1 0x30850 = 10000 ∧
      wordRead cell 1 0x30A14 = 0xFFFFFFFF ∧ wordRead cell 1 0xB0000 = 1 ∧ wordRead cell 1 0xB0004 = 50 ∧
      wordRead cell 1 0xB0100 = 3 ∧ wordRead cell 1 0xE0000 = 100 := by decide +kernel

end Sys2Proof.Tests
end

section
/-!
SUPPORT. The registers of submission queues as a partner writes them (R203, R205, R263): who reaches them, what the conditions of
R205 come to, and what a write to SQn_CFG or SQn_BASE leaves in a queue of each kind.
-/
namespace Sys2Proof.Machine

/-! ## Tables and sums -/

/-- To write back what a table holds changes nothing. -/
@[simp] theorem Tab.put_at_self {n : Nat} {α : Type} (t : Tab n α) (i : Fin n) : t.put i (t.at i) = t := by
  simp [Tab.put, Tab.at]

theorem sumNat_eq_sum (l : List Nat) : sumNat l = l.sum := List.sum_eq_foldl.symm

theorem range_map_fin (n : Nat) [NeZero n] : (List.range n).map (fin n) = List.finRange n := by
  refine List.ext_getElem (by simp) fun i h _ => ?_
  have hi : i < n := by simpa using h
  simp [fin, Fin.ext_iff, Nat.mod_eq_of_lt hi]

/-- A sum over the entries that a test keeps: each other entry counts 0. -/
theorem sum_map_filter {α : Type} (l : List α) (c : α → Bool) (f : α → Nat) :
    ((l.filter c).map f).sum = (l.map fun i => if c i = true then f i else 0).sum := by
  induction l with
  | nil => rfl
  | cons i l ih =>
    cases h : c i with
    | true => simp only [List.filter_cons_of_pos h, List.map_cons, List.sum_cons, h, if_true, ih]
    | false =>
      simp only [List.filter_cons_of_neg (Bool.eq_false_iff.mp h), List.map_cons, List.sum_cons, h, Bool.false_eq_true,
        if_false, Nat.zero_add, ih]

/-! ## Who reaches a queue -/

theorem modReach_of_attached {s : State} {p : Fin 4} (h : Attached s p) : modReach s p = true := by
  obtain ⟨hlife, hport, hguest, hd3⟩ := h
  simp [modReach, hlife, hport, hguest, hd3]

theorem ownReach_of_bound {s : State} {p : Fin 4} (h : Bound s p) : ownReach s p = true := by
  simp [ownReach, modReach_of_attached h.1, h.2]

theorem queuePort_val (n : Fin 64) : (queuePort n).val = n.val % 4 := rfl

theorem OwnsQueue.port {s : State} {p : Fin 4} {n : Fin 64} (h : OwnsQueue s p n) : queuePort n = p := Fin.ext h.2

theorem OwnsQueue.reach {s : State} {p : Fin 4} {n : Fin 64} (h : OwnsQueue s p n) : queueReach s p n = true := by
  simp [queueReach, ownReach_of_bound h.1, h.port]

/-! ## The conditions of R205 -/

/-- Ranges stay apart when one ends before the other begins. -/
theorem meets_eq_false {a n lo hi : Nat} : meets a n lo hi = false ↔ hi ≤ a ∨ a + n ≤ lo := by
  simp only [meets, Bool.and_eq_false_iff, decide_eq_false_iff_not, Nat.not_lt]

/-- The other enabled queues, as the model's check lists them. -/
def otherQueues (d : Desk) (n : Fin 64) : List (Fin 64) :=
  ((List.range 64).map (fin 64)).filter fun i => i != n && (d.sqs.at i).enable

theorem mem_otherQueues {d : Desk} {n i : Fin 64} : i ∈ otherQueues d n ↔ i ≠ n ∧ (d.sqs.at i).enable = true := by
  simp [otherQueues, range_map_fin, List.mem_finRange]

theorem sumNat_otherQueues (d : Desk) (n : Fin 64) :
    sumNat ((otherQueues d n).map fun i => 2 ^ (d.sqs.at i).log2.toNat) = otherPackets d n := by
  simp only [sumNat_eq_sum, otherQueues, range_map_fin, sum_map_filter, otherPackets, Bool.and_eq_true, bne_iff_ne]

theorem queuePort_fin_eq_iff (cq : BitVec 6) (n : Fin 64) : queuePort (fin 64 cq.toNat) = queuePort n ↔ cq.toNat % 4 = n.val % 4 := by
  have : (fin 64 cq.toNat).val = cq.toNat := Nat.mod_eq_of_lt cq.isLt
  rw [Fin.ext_iff, queuePort_val, queuePort_val, this]

/-- No ring of another enabled queue is met (R205). -/
theorem otherQueues_apart (d : Desk) (n : Fin 64) (base len : Nat) :
    ((otherQueues d n).all fun i => !meets base len (ringRange (d.sqs.at i)).1 (ringRange (d.sqs.at i)).2) = true ↔
      ∀ i, i ≠ n → (d.sqs.at i).enable = true →
        base + len ≤ (d.sqs.at i).base.toNat ∨ (d.sqs.at i).base.toNat + 128 * 2 ^ (d.sqs.at i).log2.toNat ≤ base := by
  simp only [List.all_eq_true, Bool.not_eq_true', meets_eq_false, mem_otherQueues, and_imp, ringRange, Sq.len]
  simp only [or_comm]

/-- The check of the model is the five conditions of R205. -/
theorem sqValid_iff {d : Desk} {n : Fin 64} {q : Sq} (hbase : q.base = (d.sqs.at n).base) :
    sqValid d n q = true ↔ SqMayEnable d n q.log2 q.cq := by
  have h : sqValid d n q =
      (decide (4 ≤ q.log2.toNat) && decide (q.log2.toNat ≤ 12) && decide (q.base.toNat % (128 * 2 ^ q.log2.toNat) = 0) &&
        ((otherQueues d n).all fun i =>
          !meets q.base.toNat (128 * 2 ^ q.log2.toNat) (ringRange (d.sqs.at i)).1 (ringRange (d.sqs.at i)).2) &&
        decide (2 ^ q.log2.toNat + sumNat ((otherQueues d n).map fun i => 2 ^ (d.sqs.at i).log2.toNat) ≤ 32768) &&
        queuePort (fin 64 q.cq.toNat) == queuePort n && (d.cqs.at (fin 64 q.cq.toNat)).enable) := rfl
  simp only [h, Bool.and_eq_true, decide_eq_true_eq, beq_iff_eq, otherQueues_apart, sumNat_otherQueues, queuePort_fin_eq_iff,
    SqMayEnable, hbase, and_assoc]

/-! ## SQn_CFG -/

/-- With bit 0 forced to 1, the fields above it read as written. -/
theorem extractLsb'_or_one (v : Word) {lo w : Nat} (h : 0 < lo) : (v ||| 1).extractLsb' lo w = v.extractLsb' lo w := by
  ext i hi
  have hne : lo + i ≠ 0 := by omega
  simp only [BitVec.ofNat_eq_ofNat, BitVec.getElem_extractLsb', BitVec.getLsbD_or, BitVec.getLsbD_one, hne, decide_false,
    Bool.and_false, Bool.or_false]

/-- With bit 0 forced to 0, the fields above it read as written. -/
theorem extractLsb'_and_not_one (v : Word) {lo w : Nat} (h : 0 < lo) :
    (v &&& ~~~ 1#32).extractLsb' lo w = v.extractLsb' lo w := by
  ext i hi
  have hne : lo + i ≠ 0 := by omega
  simp only [BitVec.getElem_extractLsb', BitVec.getLsbD_and, BitVec.getLsbD_not, BitVec.getLsbD_one, hne, decide_false,
    Bool.and_false, Bool.not_false, Bool.and_true]
  by_cases hlt : lo + i < 32
  · simp [hlt]
  · simp [BitVec.getLsbD_of_ge v (lo + i) (by omega)]

/-- A queue with the other fields of a written SQn_CFG (Table 9.2). -/
def sqFields (q : Sq) (v : Word) : Sq := { q with log2 := v.extractLsb' 1 4, cq := v.extractLsb' 5 6 }

theorem sqFields_or_one (q : Sq) (v : Word) : sqFields q (v ||| 1) = sqFields q v := by
  simp (disch := decide) only [sqFields, extractLsb'_or_one]

theorem sqFields_and_not_one (q : Sq) (v : Word) : sqFields q (v &&& ~~~ 1#32) = sqFields q v := by
  simp (disch := decide) only [sqFields, extractLsb'_and_not_one]

/-- A queue that is enabled anew: an empty ring (R205). -/
def sqOpened (q : Sq) : Sq := { q with enable := true, head := 0, tail := 0, early := [], visible := [], allot := [] }

/-- What a write of ENABLE = 1 leaves. -/
theorem sqCfgWritten_of_set (d : Desk) (n : Fin 64) {w : Word} (h : w.getLsbD 0 = true) :
    sqCfgWritten d n w =
      if (d.sqs.at n).enable then d.sqs.at n
      else if sqValid d n (sqFields (d.sqs.at n) w) then sqOpened (sqFields (d.sqs.at n) w)
      else { sqFields (d.sqs.at n) w with cfgErr := true } := if_pos h

/-- What a write of ENABLE = 0 leaves. -/
theorem sqCfgWritten_of_clear (d : Desk) (n : Fin 64) {w : Word} (h : w.getLsbD 0 = false) :
    sqCfgWritten d n w =
      if (d.sqs.at n).enable then
        if uncompleted (d.sqs.at n) = 0 then { d.sqs.at n with enable := false } else { d.sqs.at n with cfgErr := true }
      else sqFields (d.sqs.at n) w := if_neg (Bool.eq_false_iff.mp h)

/-- The conditions of R205 are those of the model's check on the queue with its written fields. -/
theorem sqValid_sqFields {d : Desk} {n : Fin 64} {v : Word} :
    sqValid d n (sqFields (d.sqs.at n) v) = true ↔ SqMayEnable d n (v.extractLsb' 1 4) (v.extractLsb' 5 6) :=
  sqValid_iff rfl

/-! ## Words through BAR0 (R263) -/

theorem barWrite_word (s : State) (p : Fin 4) (off : Nat) (v : Word) (hoff : off < 0x100000) (hal : off % 4 = 0) :
    barWrite s p off (leBytes 4 v.toNat) = wordWrite p s off v := by
  have hrings : inRings off = false := by
    simp only [inRings, Bool.and_eq_false_iff, decide_eq_false_iff_not]; omega
  have htake : (leBytes 4 v.toNat).take 4 = leBytes 4 v.toNat := List.take_of_length_le (by simp [le_length])
  have hval : leNat (leBytes 4 v.toNat) = v.toNat := le_value _ _ (by have := v.isLt; omega)
  simp [barWrite, hrings, hal, le_length, wordsWrite, htake, hval]

/-- A word of SQn's registers reaches them from the queue's own port (R264). -/
theorem wordWrite_sq {s : State} {p : Fin 4} {n : Fin 64} (h : OwnsQueue s p n) (r : Nat) (hr : r < 64) (v : Word) :
    wordWrite p s (0x10000 + 64 * n.val + r) v = sqWrite s n r v := by
  have hn := n.isLt
  have hblock : portBlock (0x10000 + 64 * n.val + r) = true := by
    simp only [portBlock, Bool.or_eq_true, Bool.and_eq_true, decide_eq_true_eq]; omega
  have hlow : 0x10000 ≤ 0x10000 + 64 * n.val + r ∧ 0x10000 + 64 * n.val + r < 0x11000 := by omega
  have hdiv : (0x10000 + 64 * n.val + r - 0x10000) / 64 = n.val := by omega
  have hmod : (0x10000 + 64 * n.val + r) % 64 = r := by omega
  have hfin : fin 64 n.val = n := Fin.ext (Nat.mod_eq_of_lt hn)
  simp only [wordWrite, hblock, ownReach_of_bound h.1, portWrite, if_pos hlow, hdiv, hmod, hfin, h.port, if_true]

/-! ## What the commands leave -/

theorem exec_sqEnable {s : State} {p : Fin 4} {n : Fin 64} (h : OwnsQueue s p n) (v : Word) :
    exec (.sqEnable p n v) s = .next (settle { s with desk := withSq s.desk n (
      if (s.desk.sqs.at n).enable then s.desk.sqs.at n
      else if sqValid s.desk n (sqFields (s.desk.sqs.at n) v) then sqOpened (sqFields (s.desk.sqs.at n) v)
      else { sqFields (s.desk.sqs.at n) v with cfgErr := true }) }) := by
  simp only [exec, execSqEnable, h.reach, if_true, sqCfg, withSq, sqCfgWritten_of_set s.desk n (w := v ||| 1) (by simp),
    sqFields_or_one]

theorem exec_sqDisable {s : State} {p : Fin 4} {n : Fin 64} (h : OwnsQueue s p n) (v : Word) :
    exec (.sqDisable p n v) s = .next (settle { s with desk := withSq s.desk n (
      if (s.desk.sqs.at n).enable then
        if uncompleted (s.desk.sqs.at n) = 0 then { s.desk.sqs.at n with enable := false }
        else { s.desk.sqs.at n with cfgErr := true }
      else sqFields (s.desk.sqs.at n) v) }) := by
  simp only [exec, execSqDisable, h.reach, if_true, sqCfg, withSq,
    sqCfgWritten_of_clear s.desk n (w := v &&& ~~~ 1#32) (by simp), sqFields_and_not_one]

/-- A queue after a write to SQn_BASE. -/
def sqBaseWritten (q : Sq) (v : Word) : Sq := if q.enable then q else { q with base := v.extractLsb' 0 22 }

theorem exec_registerWrite_sqBase {s : State} {p : Fin 4} {n : Fin 64} (h : OwnsQueue s p n) (v : Word) :
    exec (.registerWrite p (BitVec.ofNat 26 (0x10004 + 64 * n.val)) (leBytes 4 v.toNat)) s =
      .next (settle { s with desk := withSq s.desk n (sqBaseWritten (s.desk.sqs.at n) v) }) := by
  have hn := n.isLt
  have hoff : (BitVec.ofNat 26 (0x10004 + 64 * n.val)).toNat = 0x10000 + 64 * n.val + 4 := by
    rw [BitVec.toNat_ofNat, Nat.mod_eq_of_lt (by omega)]; omega
  have hword : barWrite s p (0x10000 + 64 * n.val + 4) (leBytes 4 v.toNat) = sqWrite s n 4 v := by
    rw [barWrite_word s p _ v (by omega) (by omega), wordWrite_sq h 4 (by omega)]
  simp only [exec, execRegisterWrite, hoff, hword, sqWrite, sqBaseWritten, Tab.upd, withSq]

/-- A queue written back as it stands changes nothing. -/
theorem withSq_self (s : State) (n : Fin 64) : { s with desk := withSq s.desk n (s.desk.sqs.at n) } = s := by
  simp only [withSq, Tab.put_at_self]

/-- Settles O17: each clause is one branch of the written SQn_CFG or SQn_BASE (R205, log entry 44). -/
theorem submissionQueueEnables : Obligations.SubmissionQueueEnables := by
  unfold Obligations.SubmissionQueueEnables
  intro s p n v own
  rw [exec_sqEnable own, exec_sqDisable own, exec_registerWrite_sqBase own, sqBaseWritten]
  refine ⟨fun may off => ?granted, fun may off => ?refused, fun on => ?ignored, fun on idle => ?disabled, fun on busy => ?busy,
    fun off => ?fields, fun off => ?base, fun on => ?baseKept⟩
  case granted => rw [if_neg (Bool.eq_false_iff.mp off), if_pos (sqValid_sqFields.mpr may)]; rfl
  case refused => rw [if_neg (Bool.eq_false_iff.mp off), if_neg (mt sqValid_sqFields.mp may)]; rfl
  case ignored => rw [if_pos on, withSq_self]
  case disabled => rw [if_pos on, if_pos idle]
  case busy => rw [if_pos on, if_neg busy]
  case fields => rw [if_neg (Bool.eq_false_iff.mp off)]; rfl
  case base => rw [if_neg (Bool.eq_false_iff.mp off)]
  case baseKept => rw [if_pos on, withSq_self]

end Sys2Proof.Machine
end

section
/-!
SUPPORT. The lock registers (R254, R255): what a release write and a read of a free lock leave, and who reaches the locks of a peer
(R300).
-/
namespace Sys2Proof.Machine

/-! ## The locks after an access -/

/-- The owner's write of its own ID frees the lock. -/
theorem lockReleased_by_owner {l : Locks} {who : Requester} {n : Fin 64} {v : Word} (owner : l.owner.at n = some who)
    (own : v.toNat % 32 = who.val) : lockReleased l who n v = { l with owner := l.owner.put n none } :=
  if_pos ⟨owner, by simpa [bits] using own⟩

/-- Any other write is ignored and counted. -/
theorem lockReleased_ignored {l : Locks} {who : Requester} {n : Fin 64} {v : Word}
    (other : l.owner.at n ≠ some who ∨ v.toNat % 32 ≠ who.val) :
    lockReleased l who n v = { l with badRelease := min 0xFFFFFFFF (l.badRelease + 1) } := by
  refine if_neg fun ⟨owner, own⟩ => ?_
  have own' : v.toNat % 32 = who.val := by simpa [bits] using own
  exact other.elim (fun h => h owner) fun h => h own'

theorem lockValue_of_free {l : Locks} {n : Fin 64} (free : l.owner.at n = none) : lockValue l n = 0 := by
  rw [lockValue, free]

theorem lockTaken_of_free {l : Locks} {n : Fin 64} (who : Requester) (free : l.owner.at n = none) :
    lockTaken l who n = { l with owner := l.owner.put n (some who) } := by
  rw [lockTaken, free]

/-! ## Locks of this module -/

/-- Who reaches the locks does not depend on what they hold. -/
theorem lockReach_with_locks (s : State) (l : Locks) (who : Requester) :
    lockReach { s with locks := l } who = lockReach s who := rfl

theorem exec_lockRelease_reached {s : State} {who : Requester} (h : lockReach s who = true) (n : Fin 64) (v : Word) :
    exec (.lockRelease who ⟨n, none⟩ v) s = .next { s with locks := lockReleased s.locks who n v } :=
  congrArg Host.Outcome.next (if_pos h)

theorem exec_lockRelease_unreached {s : State} {who : Requester} (h : lockReach s who = false) (n : Fin 64) (v : Word) :
    exec (.lockRelease who ⟨n, none⟩ v) s = .next s :=
  congrArg Host.Outcome.next (if_neg (Bool.eq_false_iff.mp h))

/-- A read of a free lock by a requester that reaches it (R254). -/
theorem exec_lockRead_free {s : State} {who : Requester} {n : Fin 64} (h : lockReach s who = true)
    (free : s.locks.owner.at n = none) :
    exec (.lockRead who ⟨n, none⟩) s =
      .next { s with reply := .reg 0, locks := { s.locks with owner := s.locks.owner.put n (some who) } } := by
  simp only [exec, execLockRead, h, lockValue_of_free free, lockTaken_of_free who free, if_true, BitVec.ofNat_eq_ofNat]

/-- A read that meets the release takes the lock (R255). -/
theorem lockRead_after_release {s : State} {who r : Requester} {n : Fin 64} {v : Word} (reach : lockReach s who = true)
    (reader : lockReach s r = true) (owner : s.locks.owner.at n = some who) (own : v.toNat % 32 = who.val) :
    ∃ t u, exec (.lockRelease who ⟨n, none⟩ v) s = .next t ∧ exec (.lockRead r ⟨n, none⟩) t = .next u ∧ u.reply = .reg 0 ∧
      u.locks.owner.at n = some r := by
  have released := exec_lockRelease_reached reach n v
  rw [lockReleased_by_owner owner own] at released
  exact ⟨_, _, released, exec_lockRead_free ((lockReach_with_locks s _ r).trans reader) (Tab.at_put_same _ n none), rfl,
    Tab.at_put_same _ n (some r)⟩

/-! ## Locks of a peer (R300) -/

theorem deskAwake_iff {s : State} : deskAwake s = true ↔ Awake s := by
  simp only [deskAwake, Awake, Bool.and_eq_true, Bool.or_eq_true, beq_iff_eq]

/-- Front Desk reaches the locks of a peer, and no other requester does. -/
theorem lockPeer_iff {s : State} {who : Requester} {id : Fin 64} :
    lockPeer s who id = true ↔ who.val = 0 ∧ Awake s ∧ ∃ x ∈ s.fab.peers, x.id.toNat = id.val := by
  simp only [lockPeer, Bool.and_eq_true, beq_iff_eq, deskAwake_iff, List.any_eq_true, and_assoc]

theorem exec_lockRelease_peer (s : State) (who : Requester) (n id : Fin 64) (v : Word) :
    exec (.lockRelease who ⟨n, some id⟩ v) s = .next (if lockPeer s who id = true then
      settle (lockMsg s id 1 (leBytes 4 (0x38004 + 8 * n.val) ++ leBytes 4 v.toNat)) else s) := rfl

/-- Settles O9: an access of this module's locks leaves what `lockReleased` leaves (R255); one of a peer's sends its message where
`lockPeer` holds (R300, log entry 28). -/
theorem lockReleaseByItsOwner : Obligations.LockReleaseByItsOwner := by
  unfold Obligations.LockReleaseByItsOwner
  intro s who n v
  refine ⟨fun reach => ⟨fun owner own => ?freed, fun other => ?counted⟩, fun apart => exec_lockRelease_unreached apart n v,
    fun r reach reader owner own => lockRead_after_release reach reader owner own,
    fun id => ⟨fun desk awake peer => ?sent, fun noPeer => ?notServed⟩⟩
  case freed => rw [exec_lockRelease_reached reach, lockReleased_by_owner owner own]
  case counted => rw [exec_lockRelease_reached reach, lockReleased_ignored other]
  case sent => rw [exec_lockRelease_peer, if_pos (lockPeer_iff.mpr ⟨desk, awake, peer⟩), lockMsg]
  case notServed =>
    have no : ¬ lockPeer s who id = true := fun h => by
      obtain ⟨desk, -, x, mem, same⟩ := lockPeer_iff.mp h
      exact noPeer.elim (fun k => k desk) fun k => k x mem same
    rw [exec_lockRelease_peer, if_neg no]

end Sys2Proof.Machine
end

section
/-!
SUPPORT. Writes to a FULL mailbox (R242): what a word, the length and GO leave in it, and the acknowledge that is then stale (R241).
-/
namespace Sys2Proof.Machine

/-! ## A FULL mailbox -/

/-- A write collides: COLLISION is set in both copies. -/
def collided (x : Box) : Box := { x with collSend := true, collRecv := true }

/-- A word or the length written to a FULL mailbox takes effect and collides. -/
theorem writeBox_of_full {x : Box} (full : x.full = true) (j : Fin 17) (v : Word) :
    writeBox j v x =
      if h : j.val < 16 then { collided x with msg := x.msg.set j.val v } else { collided x with len := v.extractLsb' 0 5 } := by
  by_cases h : j.val < 16
  · have word : (fin 16 j.val).val = j.val := Nat.mod_eq_of_lt h
    simp only [writeBox, full, h, if_true, dif_pos, collided, Tab.put, word]
  · simp only [writeBox, full, h, if_true, if_false, dif_neg, not_false_eq_true, collided]

/-- GO on a FULL mailbox advances SEQ, restarts the timer and collides; FULL stays. -/
theorem goBox_of_full {x : Box} (full : x.full = true) (now : Nat) :
    goBox now x = { collided x with seq := x.seq + 1, goAt := now, inForce := max 1 (min 1000000 x.limit.toNat) } := by
  simp only [goBox, full, if_true, collided, timeoutOf]

theorem goBox_seq (now : Nat) (x : Box) : (goBox now x).seq = x.seq + 1 := by
  unfold goBox
  split <;> rfl

/-- An acknowledge with another SEQ is stale (R241). -/
theorem ackBox_of_seq_ne {v : Word} {x : Box} (h : v.extractLsb' 16 8 ≠ x.seq) : ackBox v x = { x with staleAck := true } := by
  have no : takes v x = false := by simp only [takes, beq_false_of_ne h, Bool.and_false]
  rw [ackBox, no, if_neg Bool.false_ne_true]

/-- GO makes the SEQ before it an old one: modulo 256 the two differ. -/
theorem seq_ne_succ (q : BitVec 8) : q ≠ q + 1 := by bv_omega

/-! ## The events -/

theorem writeMail_mbx (s : State) (b : BoxId) (j : Fin 17) (v : Word) :
    (writeMail s b j v).mbx = updBox s.mbx b (writeBox j v) := by
  rw [writeMail, carry_mbx]

theorem exec_mailboxGo_up {s : State} {b : BoxId} (up : senderUp s b = true) :
    exec (.mailboxGo b) s = .next (settle (goMail s b)) := congrArg Host.Outcome.next (if_pos up)

theorem exec_mailboxMsgWrite_word_up {s : State} {b : BoxId} (up : senderUp s b = true) (j : Fin 17) (v : Word) :
    exec (.mailboxMsgWrite b (.word j) v) s = .next (settle (writeMail s b j v)) := congrArg Host.Outcome.next (if_pos up)

theorem exec_mailboxAck_up {s : State} {b : BoxId} (up : receiverUp s b = true) (v : Word) :
    exec (.mailboxAck b v) s = .next (settle (ackMail s b v)) := congrArg Host.Outcome.next (if_pos up)

/-- An acknowledge with the SEQ before a GO is stale after it. -/
theorem staleAck_after_go {s t : State} {b : BoxId} {v : Word} (went : boxAt t.mbx b = goBox s.desk.now (boxAt s.mbx b))
    (up : receiverUp t b = true) (old : v.extractLsb' 16 8 = (boxAt s.mbx b).seq) :
    ∃ u, exec (.mailboxAck b v) t = .next u ∧ boxAt u.mbx b = { boxAt t.mbx b with staleAck := true } := by
  have differs : v.extractLsb' 16 8 ≠ (boxAt t.mbx b).seq := by
    rw [old, went, goBox_seq]
    exact seq_ne_succ _
  refine ⟨_, exec_mailboxAck_up up v, ?_⟩
  rw [settle_mbx, boxAt_ackMail, boxAt_updBox_same, ackBox_of_seq_ne differs]

/-- Settles O11: the box a write or a GO finds FULL is left as `writeBox_of_full` and `goBox_of_full` say, and the SEQ that GO
advances makes the old acknowledge stale. -/
theorem writesToAFullMailboxCollide : Obligations.WritesToAFullMailboxCollide := by
  unfold Obligations.WritesToAFullMailboxCollide
  intro s b up full
  refine ⟨fun j v => ⟨_, exec_mailboxMsgWrite_word_up up j v, ?written, fun x other => ?others⟩,
    _, exec_mailboxGo_up up, ?went, fun x bell => ?mail, fun v reach old => staleAck_after_go ?stale reach old⟩
  case written => rw [settle_mbx, writeMail_mbx, boxAt_updBox_same, writeBox_of_full full]; rfl
  case others => rw [settle_mbx, writeMail_mbx, boxAt_updBox_ne _ _ _ _ other]
  case went => rw [settle_mbx, boxAt_goMail_same, goBox_of_full full]; rfl
  case mail => rw [settle_mbx, bellAt_goMail_same _ _ _ bell]; rfl
  case stale => rw [settle_mbx, boxAt_goMail_same]

end Sys2Proof.Machine
end
section
/-!
SUPPORT. What every step keeps. `Keeps s t` says that the fuses and the queue of commands stay and that the invariant goes over from `s`
to `t`; it holds of no change and of two changes in a row, so each operation of the model has one lemma of its own, and every command is
composed of them.
-/
namespace Sys2Proof.Machine

/-- The fuses and the queue of waiting commands stay, and the invariant goes on holding. -/
structure Keeps (s t : State) : Prop where
  pending : t.pending = s.pending
  fuses : t.fuses = s.fuses
  inv : Inv s → Inv t

set_option Elab.async false in
theorem Keeps.refl (s : State) : Keeps s s := ⟨rfl, rfl, id⟩

theorem Keeps.trans {s t u : State} (h : Keeps s t) (k : Keeps t u) : Keeps s u :=
  ⟨k.pending.trans h.pending, k.fuses.trans h.fuses, fun x => k.inv (h.inv x)⟩

/-- A change that leaves the parts of which the invariant speaks. -/
theorem Keeps.of_parts {s t : State} (pending : t.pending = s.pending := by rfl) (fuses : t.fuses = s.fuses := by rfl)
    (trng : t.trng = s.trng := by rfl) (queue : t.mbx.f2hQueue = s.mbx.f2hQueue := by rfl)
    (gate : t.np.gate = s.np.gate := by rfl) (asked : t.np.asked = s.np.asked := by rfl)
    (owner : t.locks.owner = s.locks.owner := by rfl) : Keeps s t :=
  ⟨pending, fuses, fun h => by rw [Inv, trng, queue, gate, asked, owner]; exact h⟩

/-- Either branch keeps. -/
theorem Keeps.ite {s a b : State} {c : Prop} [Decidable c] (ha : c → Keeps s a) (hb : ¬ c → Keeps s b) :
    Keeps s (if c then a else b) := by
  split
  · exact ha ‹_›
  · exact hb ‹_›

/-- An event that happens under a condition, and otherwise nothing does. -/
theorem Keeps.iteSelf {s a : State} {c : Prop} [Decidable c] (ha : c → Keeps s a) : Keeps s (if c then a else s) :=
  Keeps.ite ha fun _ => Keeps.refl s

/-- Several changes in a row. -/
theorem Keeps.foldl {α : Type} {f : State → α → State} (h : ∀ s a, Keeps s (f s a)) (l : List α) (s : State) :
    Keeps s (l.foldl f s) := by
  induction l generalizing s with
  | nil => exact Keeps.refl s
  | cons a l ih => exact (h s a).trans (ih (f s a))

/-! ## Front Desk's own part -/

theorem desk_keeps (s : State) (d : Desk) : Keeps s { s with desk := d } := Keeps.of_parts

theorem settle_keeps (s : State) : Keeps s (settle s) :=
  Keeps.of_parts (settle_pending s) (settle_fuses s) (settle_trng s) (by rw [settle_mbx]) (settle_np_gate s) (settle_np_asked s)
    (by rw [settle_locks])

/-- An event and what follows it. -/
theorem Keeps.settled {s t : State} (h : Keeps s t) : Keeps s (settle t) := h.trans (settle_keeps t)

theorem onDesk_keeps (s : State) (f : Env → Desk → Desk) : Keeps s (onDesk s f) := (desk_keeps s _).settled

theorem latchStatus_keeps (s : State) : Keeps s (latchStatus s) := Keeps.of_parts

/-- A wake ends a descent that is asked for, and asks for no clock step. -/
theorem wake_asked (code : BitVec 4) (s : State) : (wake code s).np.asked = s.np.asked ∨ (wake code s).np.asked = none := by
  unfold wake
  simp only
  split
  · exact .inl rfl
  · split
    all_goals (repeat' split)
    all_goals simp_all

theorem wake_gate (code : BitVec 4) (s : State) : (wake code s).np.gate = s.np.gate := by
  unfold wake
  simp only
  repeat' split
  all_goals rfl

/-- A change of Night Porter within the bounds of R334. -/
theorem porter_keeps {s : State} {p : Porter} (gate : Inv s → p.gate ≤ 8)
    (asked : Inv s → ∀ f g t c h, p.asked = some (.clockStop f g t c h) → g ≤ 8) : Keeps s { s with np := p } :=
  ⟨rfl, rfl, fun inv => ⟨inv.1, inv.2.1, gate inv, asked inv, inv.2.2.2.2⟩⟩

theorem Inv.gate {s : State} (h : Inv s) : s.np.gate ≤ 8 := h.2.2.1

theorem Inv.asked {s : State} (h : Inv s) (f g t : Nat) (c k : Bool) (e : s.np.asked = some (.clockStop f g t c k)) : g ≤ 8 :=
  h.2.2.2.1 f g t c k e

/-- A change of Night Porter that leaves the gating and what is asked. -/
theorem porter_keeps_same {s : State} {p : Porter} (gate : p.gate = s.np.gate := by rfl)
    (asked : p.asked = s.np.asked := by rfl) : Keeps s { s with np := p } := Keeps.of_parts (gate := gate) (asked := asked)

/-- A change of Night Porter that leaves the gating and asks for no clock step. -/
theorem porter_keeps_unasked {s : State} {p : Porter} (gate : p.gate = s.np.gate := by rfl)
    (asked : ∀ f g t c h, p.asked ≠ some (.clockStop f g t c h) := by nofun) : Keeps s { s with np := p } :=
  porter_keeps (fun inv => gate ▸ inv.gate) fun _ f g t c h e => absurd e (asked f g t c h)

theorem wake_keeps (code : BitVec 4) (s : State) : Keeps s (wake code s) := by
  rw [wake_eq]
  obtain same | none := wake_asked code s
  · exact porter_keeps_same (wake_gate code s) same
  · exact porter_keeps_unasked (wake_gate code s) fun f g t c h => by rw [none]; nofun

theorem locks_keeps {s : State} {l : Locks} (h : ∀ n w, l.owner.at n = some w →
    s.locks.owner.at n = some w ∨ w.val < 6 ∨ 16 ≤ w.val) : Keeps s { s with locks := l } :=
  ⟨rfl, rfl, fun ⟨trng, queue, gate, asked, owner⟩ => ⟨trng, queue, gate, asked, fun n w e =>
    (h n w e).elim (owner n w) id⟩⟩

theorem trng_keeps {s : State} {t : Trng} (h : TrngInv s.trng → TrngInv t) : Keeps s { s with trng := t } :=
  ⟨rfl, rfl, fun ⟨trng, queue, gate, asked, owner⟩ => ⟨h trng, queue, gate, asked, owner⟩⟩

/-- A change of the mailboxes that leaves no host queue longer than it was, or than 8. -/
theorem mbx_keeps {s : State} {m : Mailboxes}
    (h : ∀ p, (s.mbx.f2hQueue.at p).length ≤ 8 → (m.f2hQueue.at p).length ≤ 8) : Keeps s { s with mbx := m } :=
  ⟨rfl, rfl, fun ⟨trng, queue, gate, asked, owner⟩ => ⟨trng, fun p => h p (queue p), gate, asked, owner⟩⟩

theorem mbx_keeps_of_queue {s : State} {m : Mailboxes} (h : m.f2hQueue = s.mbx.f2hQueue := by rfl) :
    Keeps s { s with mbx := m } := mbx_keeps fun p k => by rw [h]; exact k

/-! ## Mailboxes and doorbells -/

@[simp] theorem updBox_f2hQueue (m : Mailboxes) (b : BoxId) (f : Box → Box) : (updBox m b f).f2hQueue = m.f2hQueue := by
  cases b <;> rfl

@[simp] theorem setBell_f2hQueue (m : Mailboxes) (b : BellId) (x : Bell) : (setBell m b x).f2hQueue = m.f2hQueue := by
  cases b <;> rfl

theorem box_keeps (s : State) (b : BoxId) (f : Box → Box) : Keeps s { s with mbx := updBox s.mbx b f } :=
  mbx_keeps_of_queue (updBox_f2hQueue _ _ _)

theorem bell_keeps (s : State) (b : BellId) (x : Bell) : Keeps s { s with mbx := setBell s.mbx b x } :=
  mbx_keeps_of_queue (setBell_f2hQueue _ _ _)

theorem notify_keeps (s : State) (id : BellId) (b : Bell) : Keeps s (notify s id b) := by
  rw [notify_eq]
  exact desk_keeps s _

theorem ring_keeps (s : State) (id : BellId) (v : Word) : Keeps s (ring s id v) := by
  unfold ring
  split
  · exact Keeps.refl s
  · exact Keeps.ite (fun _ => bell_keeps s _ _) fun _ => (bell_keeps s _ _).trans (notify_keeps _ _ _)

theorem peerWrite_keeps (s : State) (p : Fin 16) (off : Nat) (v : Word) : Keeps s (peerWrite s p off v) := by
  unfold peerWrite
  split
  · exact Keeps.refl s
  · exact desk_keeps s _

theorem carry_keeps (s : State) (b : BoxId) (off : Nat) (v : Word) : Keeps s (carry s b off v) := by
  unfold carry
  split
  · exact peerWrite_keeps s _ _ _
  · exact Keeps.refl s

theorem goMail_keeps (s : State) (b : BoxId) : Keeps s (goMail s b) := by
  have sent : Keeps s { s with mbx := updBox s.mbx b (goBox s.desk.now), desk := { s.desk with out := s.desk.out ++ [.mail b] } } :=
    Keeps.of_parts (queue := updBox_f2hQueue _ _ _)
  have rung := (sent.trans (ring_keeps _ (receiverBell b) mailBit)).trans (carry_keeps _ b 0x44 1)
  exact Keeps.ite (fun _ => rung.trans (wake_keeps _ _)) fun _ => rung

theorem writeMail_keeps (s : State) (b : BoxId) (i : Fin 17) (v : Word) : Keeps s (writeMail s b i v) :=
  (box_keeps s b _).trans (carry_keeps _ _ _ _)

theorem writeMailReg_keeps (s : State) (b : BoxId) (r : MailReg) (v : Word) : Keeps s (writeMailReg s b r v) := by
  cases r with
  | word j => exact writeMail_keeps s b j v
  | timeout => exact box_keeps s b _
  | sendStatus => exact box_keeps s b _
  | recvStatus => exact box_keeps s b _

/-- What an acknowledge does to the receiver's own bell. -/
theorem ackMail_keeps (s : State) (b : BoxId) (v : Word) : Keeps s (ackMail s b v) := by
  have taken : Keeps s { s with mbx := updBox s.mbx b (ackBox v) } := box_keeps s b _
  have ring' (u : State) (h : Keeps s u) (c : Bool) (id : BellId) : Keeps s (if c then ring u id ackedBit else u) :=
    Keeps.ite (fun _ => h.trans (ring_keeps u id ackedBit)) fun _ => h
  have bell (c : Bool) (id : BellId) (x : Bell) : Keeps s (if c then
      { s with mbx := setBell (updBox s.mbx b (ackBox v)) id x } else { s with mbx := updBox s.mbx b (ackBox v) }) :=
    Keeps.ite (fun _ => taken.trans (bell_keeps _ id x)) fun _ => taken
  cases b with
  | f2h p => exact ring' _ taken _ _
  | fdToPeer p => exact ring' _ taken _ _
  | peerToFd p => exact (ring' _ (bell _ _ _) _ _).trans (peerWrite_keeps _ _ _ _)
  | h2f p => exact ring' _ (bell _ _ _) _ _
  | npToFd => exact ring' _ (bell _ _ _) _ _
  | fdToNp => exact ring' _ (bell _ _ _) _ _

theorem takeMail_keeps (s : State) (b : BoxId) (code : Nat) : Keeps s (takeMail s b code) := ackMail_keeps s b _

@[simp] theorem dropAsk_f2hQueue (m : Mailboxes) (b : BoxId) : (dropAsk m b).f2hQueue = m.f2hQueue :=
  (apply_ite Mailboxes.f2hQueue _ _ _).trans (ite_self _)

theorem withdrawMail_keeps (s : State) (b : BoxId) : Keeps s (withdrawMail s b) := by
  have dropped : Keeps s { s with mbx := dropAsk (updBox s.mbx b withdrawBox) b } := mbx_keeps_of_queue (by simp)
  unfold withdrawMail
  refine Keeps.trans (dropped.trans ?_) (ring_keeps _ _ _)
  cases b with
  | f2h p => exact mbx_keeps_of_queue
  | _ => exact Keeps.refl _

/-- A host's queue takes no ninth message (R247). -/
theorem postMail_keeps (s : State) (b : BoxId) (m : Mail) : Keeps s (postMail s b m) := by
  cases b with
  | f2h p =>
    refine Keeps.ite (fun _ => Keeps.refl s) fun room => mbx_keeps fun q bound => ?_
    by_cases e : q = p
    · subst e
      have : (s.mbx.f2hQueue.at q).length < 8 := Nat.lt_of_not_le room
      simp only [setQueue, queueAt, Tab.at_put_same, List.length_append, List.length_singleton]
      omega
    · simpa only [setQueue, Tab.at_put_ne _ _ _ _ e] using bound
  | _ => exact mbx_keeps_of_queue rfl

theorem noticeTo_keeps (code arg : Nat) (s : State) (p : Fin 4) : Keeps s (noticeTo code arg s p) :=
  Keeps.iteSelf fun _ => postMail_keeps s _ _

theorem noticeAll_keeps (s : State) (code arg : Nat) (but : Option (Fin 4)) : Keeps s (noticeAll s code arg but) :=
  Keeps.foldl (noticeTo_keeps code arg) _ s

/-- The rest of a queue is no longer than the queue. -/
theorem setQueue_rest_keeps {s : State} {b : BoxId} {m : Mail} {rest : List Mail} (h : queueAt s.mbx b = m :: rest) :
    Keeps s { s with mbx := setQueue s.mbx b rest } := by
  cases b with
  | f2h p =>
    refine mbx_keeps fun q bound => ?_
    by_cases e : q = p
    · subst e
      have : (s.mbx.f2hQueue.at q).length = rest.length + 1 := by rw [show s.mbx.f2hQueue.at q = m :: rest from h]; rfl
      simp only [setQueue, Tab.at_put_same]
      omega
    · simpa only [setQueue, Tab.at_put_ne _ _ _ _ e] using bound
  | _ => exact mbx_keeps_of_queue rfl

theorem sendNext_keeps (s : State) (b : BoxId) : Keeps s (sendNext s b) := by
  unfold sendNext
  split
  · exact Keeps.refl s
  · next m rest h =>
    refine Keeps.ite (fun _ => Keeps.refl s) fun _ => ?_
    have loaded : Keeps s { s with mbx := updBox (setQueue s.mbx b rest) b (loadBox m) } :=
      (setQueue_rest_keeps h).trans (box_keeps _ b (loadBox m))
    exact ((loaded.trans (Keeps.foldl (fun x i => carry_keeps x b _ _) _ _)).trans (carry_keeps _ b 0x40 8)).trans (goMail_keeps _ b)

theorem setDoorbell_keeps (s : State) (bell : BellId) (v : Word) : Keeps s (setDoorbell s bell v) := by
  have woken : Keeps s (if bellBits v = 0 then s else wake 2 (ring s bell (bellBits v))) :=
    Keeps.ite (fun _ => Keeps.refl s) fun _ => (ring_keeps s _ _).trans (wake_keeps _ _)
  cases bell with
  | host p => exact Keeps.refl s
  | fdHost p => exact Keeps.iteSelf fun _ => woken
  | fdPeer p => exact Keeps.iteSelf fun _ => woken
  | fdPorter => exact Keeps.iteSelf fun _ => ring_keeps s _ _
  | porter => exact Keeps.iteSelf fun _ => ring_keeps s _ _
  | peer p => exact Keeps.iteSelf fun _ => peerWrite_keeps s _ _ _

theorem maskBell_keeps (s : State) (id : BellId) (v : Word) : Keeps s (maskBell s id v) := by
  unfold maskBell
  split
  · exact Keeps.refl s
  · exact Keeps.ite (fun _ => bell_keeps s _ _) fun _ => (bell_keeps s _ _).trans (notify_keeps _ _ _)

theorem clearPend_keeps (s : State) (id : BellId) (v : Word) : Keeps s (clearPend s id v) := by
  unfold clearPend
  split
  · exact Keeps.refl s
  · exact bell_keeps s _ _

theorem askPorter_keeps (s : State) (p : Fin 4) (tag channel : Nat) : Keeps s (askPorter s p tag channel) := by
  unfold askPorter
  refine Keeps.trans ?_ (postMail_keeps _ _ _)
  exact mbx_keeps_of_queue

theorem passValue_keeps (s : State) (b : Box) : Keeps s (passValue s b) := by
  unfold passValue
  split
  · exact Keeps.refl s
  · refine Keeps.trans ?_ (postMail_keeps _ _ _)
    exact mbx_keeps_of_queue

end Sys2Proof.Machine
end
section
/-!
SUPPORT. What the operations of the other chapters keep: locks, ports, the fabric, Night Porter, the random source, trust, resets,
housekeeping and the registers.
-/
namespace Sys2Proof.Machine

/-! ## Locks -/

set_option Elab.async false in
/-- A reader that reaches the locks is one of Table 10.10. -/
theorem lockReach_listed {s : State} {who : Requester} (h : lockReach s who = true) : who.val < 6 ∨ 16 ≤ who.val := by
  refine Decidable.byContradiction fun no => ?_
  have h0 : who.val ≠ 0 := by omega
  have h1 : who.val ≠ 1 := by omega
  have h6 : ¬ who.val < 6 := by omega
  have h16 : who.val < 16 := by omega
  simp [lockReach, h0, h1, h6, h16] at h

theorem lockTaken_owner {l : Locks} {who w : Requester} {n k : Fin 64} (h : (lockTaken l who n).owner.at k = some w) :
    l.owner.at k = some w ∨ w = who := by
  unfold lockTaken at h
  split at h
  · by_cases e : k = n
    · subst e
      rw [Tab.at_put_same] at h
      exact .inr (Option.some.inj h).symm
    · rw [Tab.at_put_ne _ _ _ _ e] at h
      exact .inl h
  · exact .inl h

theorem lockTaken_keeps (s : State) {who : Requester} (n : Fin 64) (listed : who.val < 6 ∨ 16 ≤ who.val) :
    Keeps s { s with locks := lockTaken s.locks who n } :=
  locks_keeps fun _ _ e => (lockTaken_owner e).imp id fun same => by rw [same]; exact listed

theorem lockReleased_keeps (s : State) (who : Requester) (n : Fin 64) (v : Word) :
    Keeps s { s with locks := lockReleased s.locks who n v } := by
  refine locks_keeps fun k w e => .inl ?_
  unfold lockReleased at e
  split at e
  · by_cases same : k = n
    · subst same
      rw [Tab.at_put_same] at e
      exact absurd e nofun
    · rwa [Tab.at_put_ne _ _ _ _ same] at e
  · exact e

theorem freeLocks_owner {l : Locks} {who w : Requester} {k : Fin 64} (h : (freeLocks l who).owner.at k = some w) :
    l.owner.at k = some w := by
  simp only [freeLocks, Tab.at_map] at h
  split at h
  · exact absurd h nofun
  · exact h

theorem freeAll_owner {α : Type} {f : α → Requester} {w : Requester} {k : Fin 64} (ps : List α) (l : Locks)
    (h : (ps.foldl (fun l p => freeLocks l (f p)) l).owner.at k = some w) : l.owner.at k = some w := by
  induction ps generalizing l with
  | nil => exact h
  | cons p ps ih => exact freeLocks_owner (ih _ h)

@[simp] theorem lockAnswered_owner (l : Locks) (src : BitVec 6) (v : Word) : (lockAnswered l src v).owner = l.owner := by
  unfold lockAnswered
  split <;> rfl

/-! ## Ports -/

@[simp] theorem clearPair_f2hQueue (m : Mailboxes) (p : Fin 4) : (clearPair m p).f2hQueue = m.f2hQueue.put p [] := rfl

/-- A queue that is emptied is within its bound. -/
theorem put_nil_bound {t : Tab 4 (List Mail)} (p q : Fin 4) (h : (t.at q).length ≤ 8) : ((t.put p []).at q).length ≤ 8 := by
  by_cases e : q = p
  · subst e
    rw [Tab.at_put_same]
    exact Nat.zero_le 8
  · rwa [Tab.at_put_ne _ _ _ _ e]

theorem clearPair_keeps (s : State) (p : Fin 4) : Keeps s { s with mbx := clearPair s.mbx p } :=
  mbx_keeps fun q h => put_nil_bound p q h

theorem bindPort_keeps (s : State) (p : Fin 4) : Keeps s (bindPort s p) := by
  unfold bindPort
  refine Keeps.trans (Keeps.trans (clearPair_keeps s p) ?_) (noticeAll_keeps _ _ _ _)
  exact Keeps.of_parts

theorem leavePair_keeps (s : State) (p : Fin 4) : Keeps s (leavePair s p) := by
  unfold leavePair
  exact (Keeps.iteSelf fun _ => withdrawMail_keeps s _).trans (clearPair_keeps _ p)

theorem endDeparture_keeps (s : State) (p : Fin 4) (cause : BitVec 4) : Keeps s (endDeparture s p cause) := by
  unfold endDeparture
  refine Keeps.trans ?_ (noticeAll_keeps _ _ _ _)
  refine Keeps.trans ?_ (leavePair_keeps _ p)
  exact Keeps.trans (locks_keeps fun _ _ e => .inl (freeLocks_owner e)) (desk_keeps _ _)

theorem finishDeparture_keeps (s : State) (p : Fin 4) (cause : BitVec 4) : Keeps s (finishDeparture s p cause) :=
  Keeps.ite (fun _ => Keeps.refl s) fun _ => endDeparture_keeps s p cause

theorem servePort_keeps (s : State) (p : Fin 4) : Keeps s (servePort s p) := by
  unfold servePort
  simp only
  split
  · exact desk_keeps s _
  · exact bindPort_keeps s p
  · exact (desk_keeps s _).trans (finishDeparture_keeps _ p _)
  · exact finishDeparture_keeps s p _
  · exact Keeps.refl s

theorem servePorts_keeps (s : State) : Keeps s (servePorts s) := Keeps.foldl servePort_keeps _ s

theorem portEvent_keeps (s : State) (p : Fin 4) (es : List PortEvent) : Keeps s (portEvent s p es) := by
  have woken : Keeps s (wake 4 { s with desk := { s.desk with ports := s.desk.ports.upd p fun q => { q with events := q.events ++ es } } }) :=
    (desk_keeps s _).trans (wake_keeps 4 _)
  exact (Keeps.ite (fun _ => woken.trans (servePort_keeps _ p)) fun _ => woken).settled

theorem wakeMemory_keeps (a n : Nat) (s : State) : Keeps s (wakeMemory a n s) := Keeps.iteSelf fun _ => Keeps.of_parts

theorem wakeAperture_keeps (p : Fin 4) (off n : Nat) (s : State) : Keeps s (wakeAperture p off n s) := by
  unfold wakeAperture
  split
  · exact wakeMemory_keeps _ _ s
  · exact Keeps.refl s

/-! ## The fabric -/

theorem fab_keeps (s : State) (f : Fabric) : Keeps s { s with fab := f } := Keeps.of_parts

theorem updFab_keeps (s : State) (p : Fin 16) (f : FabPort → FabPort) : Keeps s (updFab s p f) := Keeps.of_parts

theorem emit_keeps (s : State) (l : List Out) : Keeps s (emit s l) := Keeps.of_parts

theorem pumpState_keeps (s : State) (p : Fin 16) : Keeps s (pumpState s p) := Keeps.of_parts

theorem badFlit_keeps (s : State) (p : Fin 16) : Keeps s (badFlit s p) := Keeps.of_parts

theorem freeRoom_keeps (s : State) (p : Fin 16) (cls n : Nat) : Keeps s (freeRoom s p cls n) := by
  unfold freeRoom
  exact Keeps.ite (fun _ => Keeps.refl s) fun _ => (updFab_keeps s p _).trans (emit_keeps _ _)

theorem reroute_keeps (s : State) (old : Fabric) : Keeps s (reroute s old) := Keeps.of_parts

theorem withdrawFull_keeps (s : State) (b : BoxId) : Keeps s (withdrawFull s b) := Keeps.iteSelf fun _ => withdrawMail_keeps s b

theorem peerGone_keeps (s : State) (id : BitVec 6) : Keeps s (peerGone s id) := by
  unfold peerGone
  refine Keeps.trans ?_ (Keeps.foldl (fun x p => (withdrawFull_keeps x _).trans (withdrawFull_keeps _ _)) _ _)
  refine ⟨rfl, rfl, fun ⟨trng, queue, gate, asked, owner⟩ => ⟨trng, queue, gate, asked, fun n w e => owner n w ?_⟩⟩
  exact freeAll_owner (portsOf s id) { s.locks with asked := s.locks.asked.filter fun x => x.1 != id } e

theorem takeInbox_keeps (s : State) (x : Fin 16 × Msg) : Keeps s (takeInbox s x) := by
  unfold takeInbox
  refine Keeps.trans ?_ (freeRoom_keeps _ _ _ _)
  exact Keeps.of_parts

theorem popInbox_keeps {s t : State} {f : Msg → Bool} {p : Fin 16} {m : Msg} (h : popInbox s f = some (p, m, t)) : Keeps s t := by
  unfold popInbox at h
  split at h
  · obtain ⟨-, -, rfl⟩ := h
    exact takeInbox_keeps s _
  · exact absurd h nofun

theorem acceptHello_keeps (s : State) (p : Fin 16) (b : Bytes) : Keeps s (acceptHello s p b) := by
  unfold acceptHello
  refine Keeps.trans ?_ (pumpState_keeps _ p)
  refine Keeps.trans ?_ (reroute_keeps _ _)
  refine Keeps.trans ?_ (Keeps.ite (fun _ => fab_keeps _ _) fun _ => fab_keeps _ _)
  refine Keeps.trans ?_ (updFab_keeps _ p _)
  exact Keeps.iteSelf fun _ => peerGone_keeps s _

theorem takeHello_keeps (s : State) (p : Fin 16) (b : Bytes) : Keeps s (takeHello s p b) := by
  unfold takeHello
  exact Keeps.ite (fun _ => Keeps.refl s) fun _ => Keeps.ite (fun _ => acceptHello_keeps s p b) fun _ => updFab_keeps s p _

theorem arrivalWakes_keeps (cls : Nat) (s : State) : Keeps s (arrivalWakes cls s) := Keeps.iteSelf fun _ => wake_keeps 5 s

theorem arrive_keeps (s : State) (p : Fin 16) (m : Msg) : Keeps s (arrive s p m) := by
  unfold arrive
  refine (arrivalWakes_keeps m.cls s).trans ?_
  generalize arrivalWakes m.cls s = s
  refine Keeps.ite (fun _ => fab_keeps s _) fun _ => ?_
  refine Keeps.ite (fun _ => Keeps.refl s) fun _ => ?_
  refine Keeps.ite (fun _ => emit_keeps s _) fun _ => ?_
  refine Keeps.ite (fun _ => (fab_keeps s _).trans (emit_keeps _ _)) fun _ => ?_
  exact Keeps.ite (fun _ => Keeps.refl s) fun _ => fab_keeps s _

theorem landMsg_keeps (s : State) (p : Fin 16) (m : Msg) : Keeps s (landMsg s p m) := by
  unfold landMsg
  refine Keeps.ite (fun _ => arrive_keeps s p m) fun _ => Keeps.ite (fun _ => Keeps.refl s) fun _ => ?_
  split
  · exact (fab_keeps s _).trans (emit_keeps _ _)
  · exact Keeps.refl s

theorem takeFlit_keeps (s : State) (p : Fin 16) (f : Bytes) : Keeps s (takeFlit s p f) := by
  unfold takeFlit
  refine Keeps.ite (fun _ => ?_) fun _ => updFab_keeps s p _
  have landed (c : Bool) (u : State) (m : Msg) (h : Keeps s u) : Keeps s (if c then landMsg u p m else u) :=
    Keeps.ite (fun _ => h.trans (landMsg_keeps u p m)) fun _ => h
  exact Keeps.ite (fun _ => landed _ _ _ (updFab_keeps s p _)) fun _ =>
    (landed _ _ _ (updFab_keeps s p _)).trans (freeRoom_keeps _ _ _ _)

theorem dataFlit_keeps (s : State) (p : Fin 16) (f : Bytes) (fecGood : Bool) : Keeps s (dataFlit s p f fecGood) := by
  have nacked (u : State) (h : Keeps s u) (g : FabPort → FabPort) (l : List Out) : Keeps s (emit (updFab u p g) l) :=
    (h.trans (updFab_keeps u p g)).trans (emit_keeps _ l)
  unfold dataFlit
  refine Keeps.ite (fun _ => Keeps.ite (fun _ => badFlit_keeps s p) fun _ => nacked _ (badFlit_keeps s p) _ _) fun _ => ?_
  refine Keeps.ite (fun _ => Keeps.refl s) fun _ => ?_
  refine Keeps.ite (fun _ => Keeps.ite (fun _ => Keeps.refl s) fun _ => nacked s (Keeps.refl s) _ _) fun _ => ?_
  refine Keeps.ite (fun _ => ?reserved) fun _ => Keeps.ite (fun _ => Keeps.refl s) fun _ => ?taken
  case reserved => exact ((updFab_keeps s p _).trans (badFlit_keeps _ p)).trans (emit_keeps _ _)
  case taken =>
    refine Keeps.trans ?_ (pumpState_keeps _ p)
    refine Keeps.trans ?_ (takeFlit_keeps _ p f)
    exact nacked _ (updFab_keeps s p _) _ _

theorem retrain_keeps (s : State) (p : Fin 16) (trained : Bool) : Keeps s (retrain s p trained) := by
  unfold retrain
  refine Keeps.ite (fun _ => ?up) fun _ => Keeps.ite (fun _ => updFab_keeps s p _) fun _ => ?down
  case up =>
    refine Keeps.trans ?_ (pumpState_keeps _ p)
    exact (updFab_keeps s p _).trans (emit_keeps _ _)
  case down => exact (updFab_keeps s p _).trans (reroute_keeps _ _)

theorem resendOn_keeps (s : State) (p : Fin 16) : Keeps s (resendOn s p) := by
  unfold resendOn
  exact (fab_keeps s _).trans (pumpState_keeps _ p)

/-! ## Messages of other modules -/

theorem takeRecordRow_keeps (cls rtype : Nat) (s : State) : Keeps s (takeRecordRow cls rtype s) := by
  unfold takeRecordRow
  refine Keeps.iteSelf fun _ => ?_
  split
  · next m t h => exact ((popInbox_keeps h).trans (desk_keeps t _)).settled
  · exact Keeps.refl s

theorem answer_keeps (s : State) (m : Msg) (rtype : Nat) (err : Bool) (body : Bytes) : Keeps s (answer s m rtype err body) :=
  desk_keeps s _

theorem wakePeer_keeps (addr n : Nat) (s : State) : Keeps s (wakePeer addr n s) := Keeps.iteSelf fun _ => wakeMemory_keeps _ _ s

theorem serveRead_keeps (s : State) (m : Msg) : Keeps s (serveRead s m) := by
  unfold serveRead
  refine Keeps.ite (fun _ => answer_keeps s m _ _ _) fun _ => ?_
  split
  · exact (desk_keeps s _).trans (answer_keeps _ m _ _ _)
  · exact answer_keeps s m _ _ _

theorem serveWrite_keeps (s : State) (m : Msg) : Keeps s (serveWrite s m) := by
  unfold serveWrite
  refine Keeps.ite (fun _ => answer_keeps s m _ _ _) fun _ => ?_
  split
  all_goals exact (desk_keeps s _).trans (answer_keeps _ m _ _ _)

theorem takeAnswer_keeps (write : Bool) (s : State) : Keeps s (takeAnswer write s) := by
  unfold takeAnswer
  refine Keeps.iteSelf fun _ => ?_
  split
  · next m t h =>
    refine Keeps.ite (fun _ => ?lock) fun _ => ((popInbox_keeps h).trans (desk_keeps t _)).settled
    case lock => exact ((popInbox_keeps h).trans (locks_keeps fun n w e => .inl (by rwa [lockAnswered_owner] at e))).settled
  · exact Keeps.refl s

theorem pairWrite_keeps (s : State) (snd rcv : BoxId) (off : Nat) (v : Word) : Keeps s (pairWrite s snd rcv off v) := by
  unfold pairWrite
  refine Keeps.ite (fun _ => writeMail_keeps s snd _ v) fun _ => ?_
  refine Keeps.ite (fun _ => writeMail_keeps s snd _ v) fun _ => ?_
  refine Keeps.ite (fun _ => Keeps.iteSelf fun _ => goMail_keeps s snd) fun _ => ?_
  refine Keeps.ite (fun _ => box_keeps s snd _) fun _ => ?_
  refine Keeps.ite (fun _ => box_keeps s snd _) fun _ => ?_
  refine Keeps.ite (fun _ => box_keeps s rcv _) fun _ => ?_
  exact Keeps.iteSelf fun _ => ackMail_keeps s rcv v

theorem peerRegWrite_keeps (s : State) (p : Fin 16) (off : Nat) (v : Word) : Keeps s (peerRegWrite s p off v) := by
  unfold peerRegWrite
  split
  · exact lockReleased_keeps s _ _ v
  · exact Keeps.ite (fun _ => setDoorbell_keeps s _ v) fun _ => pairWrite_keeps s _ _ off v

/-- A peer is the requester 16 and its port (Table 10.10). -/
theorem peer_listed (p : Fin 16) : (fin 32 (16 + p.val)).val < 6 ∨ 16 ≤ (fin 32 (16 + p.val)).val := by
  have : (fin 32 (16 + p.val)).val = 16 + p.val := Nat.mod_eq_of_lt (by omega)
  omega

theorem peerRegRead_keeps (s : State) (p : Fin 16) (off : Nat) : Keeps s (peerRegRead s p off).2 := by
  unfold peerRegRead
  split
  · exact lockTaken_keeps s _ (peer_listed p)
  · split
    all_goals exact Keeps.refl s

/-! ## Tiles -/

theorem noteTile_keeps (l : Fin 256) (served : Bool) (s : State) : Keeps s (noteTile l served s) :=
  Keeps.ite (fun _ => Keeps.refl s) fun _ => noticeAll_keeps s _ _ _

theorem retireDue_keeps (s : State) : Keeps s (retireDue s) :=
  Keeps.foldl (fun s _ => Keeps.ite (fun _ => Keeps.refl s) fun _ => (desk_keeps s _).trans (noteTile_keeps _ _ _)) _ s

end Sys2Proof.Machine
end
section
/-!
SUPPORT. What Night Porter, the random source, trust, resets, housekeeping and the registers keep.
-/
namespace Sys2Proof.Machine

/-! ## Night Porter -/

set_option Elab.async false in
theorem sec_keeps (s : State) (x : Secure) : Keeps s { s with sec := x } := Keeps.of_parts

theorem takePorter_keeps (s : State) (code : Nat) : Keeps s (takePorter s code) := takeMail_keeps s _ code

theorem porterSays_keeps (s : State) (type : Nat) (words : List Nat) : Keeps s (porterSays s type words) := postMail_keeps s _ _

theorem descendTo_keeps (s : State) (target : Nat) : Keeps s (descendTo s target) := by
  have low : Keeps s { s with np := { s.np with state := stateOf target, timer := s.desk.now, asked := none } } := porter_keeps_unasked
  exact Keeps.ite (fun _ => low.trans (desk_keeps _ _)) fun _ => low

/-- A step down keeps what its clock and gating keep. -/
theorem stepDown_keeps {s u : State} {f gate : Nat} {cap heat : Bool} (h : Keeps s { u with np := { u.np with
    f := f, gate := gate, capThrottle := u.np.capThrottle || cap, thermalThrottle := u.np.thermalThrottle || heat } }) :
    Keeps s (stepDown u f gate cap heat) :=
  Keeps.ite (fun _ => h) fun _ => h.trans (porterSays_keeps _ _ _)

/-- The step that was asked for is within the bounds of R334, and so is the gating after it. -/
theorem makeStep_keeps (s : State) : Keeps s (makeStep s) := by
  unfold makeStep
  split
  · next f gate t cap heat e => exact stepDown_keeps (porter_keeps (fun inv => inv.asked f gate t cap heat e) fun _ => nofun)
  · exact Keeps.refl s

theorem restartPorter_keeps (s : State) : Keeps s (restartPorter s) := by
  refine Keeps.trans (t := { s with np := { s.np with npRestart := true, y := Tab.all 128 none, asked := none, timer := s.desk.now } })
    porter_keeps_unasked (sec_keeps _ _)

theorem applyPlan_keeps (s : State) : Keeps s (applyPlan s) := by
  unfold applyPlan
  split
  · exact Keeps.refl s
  · refine Keeps.ite (fun _ => Keeps.refl s) fun _ => ?_
    exact Keeps.ite (fun _ => Keeps.trans porter_keeps_same (porterSays_keeps _ _ _)) fun _ => porter_keeps_same

theorem reportThrottle_keeps (s : State) : Keeps s (reportThrottle s) := by
  unfold reportThrottle
  refine Keeps.ite (fun _ => porter_keeps_same) fun _ => Keeps.iteSelf fun _ => ?_
  exact Keeps.trans porter_keeps_same (porterSays_keeps _ _ _)

/-- The controller gates no more than 8 cycles (R334). -/
theorem controller_gate (g : Grade) {p : Porter} (f : Nat) (fixed : Bool) (h : p.gate ≤ 8) : (controller g p f fixed).gate ≤ 8 := by
  unfold controller
  simp only
  split
  · exact h
  · split
    · exact h
    · split
      · next room =>
        rw [Bool.and_eq_true, decide_eq_true_eq] at room
        exact room.2
      · split
        · exact Nat.le_trans (Nat.sub_le _ _) h
        · split
          · exact h
          · exact h

theorem tickController_keeps (s : State) : Keeps s (tickController s) := by
  have bound (inv : Inv s) := controller_gate s.fuses.grade s.np.f (fixedLive s.desk) inv.gate
  unfold tickController
  refine Keeps.ite (fun _ => reportThrottle_keeps s) fun _ => Keeps.ite (fun _ => ?level) fun _ => Keeps.ite (fun _ => ?ask) fun _ =>
    Keeps.ite (fun _ => reportThrottle_keeps s) fun _ => ?down
  case level =>
    refine Keeps.trans ?_ (reportThrottle_keeps _)
    exact porter_keeps bound Inv.asked
  case ask =>
    refine Keeps.trans ?_ (reportThrottle_keeps _)
    refine Keeps.trans (porterSays_keeps s 3 _) (porter_keeps Inv.gate fun inv f g t c h e => ?_)
    cases e
    exact controller_gate s.fuses.grade s.np.f (fixedLive s.desk) (show s.np.gate ≤ 8 from inv.gate)
  case down =>
    exact Keeps.trans (stepDown_keeps (porter_keeps bound fun inv => inv.asked)) (reportThrottle_keeps _)

theorem coolDown_keeps (s : State) : Keeps s (coolDown s) := porter_keeps_same

theorem tripDies_keeps (s : State) : Keeps s (tripDies s) := by
  have held : Keeps s (porterSays { s with
      desk := { s.desk with tclkOff := true }
      np := { s.np with
        tripHold := true, tripLatched := decide (3 ≤ (tripsNow s.np s.desk.now).length), trips := satAdd 8 s.np.trips 1
        tripTimes := tripsNow s.np s.desk.now, coolSince := none, asked := none } } 5 [0]) := by
    refine Keeps.trans ?_ (porterSays_keeps _ 5 [0])
    exact (desk_keeps s { s.desk with tclkOff := true }).trans porter_keeps_unasked
  exact Keeps.ite (fun _ => held.trans (porterSays_keeps _ 5 [2])) fun _ => held

/-! ## The random source -/

theorem enterPool_length {pool : List Word} (blocks : List (List Word)) (h : pool.length ≤ 512) :
    (enterPool pool blocks).length ≤ 512 := by
  unfold enterPool
  induction blocks generalizing pool with
  | nil => exact h
  | cons b bs ih =>
    refine ih ?_
    by_cases room : pool.length + b.length ≤ 512
    · simp only [room, if_true, List.length_append]
    · simpa only [room, if_false] using h

theorem closeWindow_inv {t : Trng} (h : TrngInv t) : TrngInv (closeWindow t) := by
  obtain ⟨pool, pos, stat, raw, attempt⟩ := h
  unfold closeWindow
  split
  · exact ⟨enterPool_length _ pool, Nat.zero_le _, stat, by simp, attempt⟩
  · exact ⟨pool, Nat.zero_le _, stat, by simp, Nat.zero_le _⟩
  · exact ⟨pool, Nat.zero_le _, stat, by simp, Nat.zero_le _⟩
  · exact ⟨pool, pos, stat, raw, attempt⟩

theorem closeStats_inv {t : Trng} (h : TrngInv t) : TrngInv (closeStats t) := by
  obtain ⟨pool, pos, stat, raw, attempt⟩ := h
  exact ⟨pool, pos, Nat.zero_le _, raw, attempt⟩

theorem failTrng_inv {t : Trng} (src test : Nat) (h : TrngInv t) : TrngInv (failTrng t src test) := by
  obtain ⟨pool, pos, stat, raw, attempt⟩ := h
  unfold failTrng TrngInv
  simp only
  split
  · split
    · next again => exact ⟨Nat.zero_le _, Nat.zero_le _, stat, Nat.zero_lt_succ 511, again⟩
    · exact ⟨Nat.zero_le _, Nat.zero_le _, stat, Nat.zero_lt_succ 511, attempt⟩
  · exact ⟨Nat.zero_le _, Nat.zero_le _, stat, Nat.zero_lt_succ 511, by show 1 ≤ 3; decide⟩

theorem condition_inv {t : Trng} (b : Bool) (h : TrngInv t) : TrngInv (condition t b) := by
  obtain ⟨pool, pos, stat, raw, attempt⟩ := h
  unfold condition
  simp only
  split
  · exact ⟨pool, pos, stat, ‹_›, attempt⟩
  · exact ⟨pool, pos, stat, by simp, attempt⟩

/-- A window that has closed is empty, unless the source is off. -/
theorem closeWindow_pos {t : Trng} (h : (closeWindow t).state ≠ .off) : (closeWindow t).pos = 0 := by
  unfold closeWindow at *
  split at h
  · rfl
  · rfl
  · rfl
  · exact absurd ‹_› h

/-- A full window of the health tests closes before a sample, and so does a full window of the statistics. -/
def windowOpened (t : Trng) : Trng := if t.pos = propWindow then closeWindow t else t
def statsOpened (t : Trng) : Trng := if t.statPos = statWindow then closeStats t else t

theorem windowOpened_inv {t : Trng} (h : TrngInv t) : TrngInv (windowOpened t) := by
  unfold windowOpened
  split
  · exact closeWindow_inv h
  · exact h

theorem statsOpened_inv {t : Trng} (h : TrngInv t) : TrngInv (statsOpened t) := by
  unfold statsOpened
  split
  · exact closeStats_inv h
  · exact h

theorem windowOpened_pos {t : Trng} (h : TrngInv t) (on : (windowOpened t).state ≠ .off) : (windowOpened t).pos < 1024 := by
  obtain ⟨-, pos, -, -, -⟩ := h
  unfold windowOpened at *
  split at on
  · next full => rw [if_pos full, closeWindow_pos on]; omega
  · next free => rw [if_neg free]; simp only [propWindow] at free; omega

theorem statsOpened_statPos {t : Trng} (h : TrngInv t) : (statsOpened t).statPos < 65536 := by
  obtain ⟨-, -, stat, -, -⟩ := h
  unfold statsOpened
  split
  · simp [closeStats]
  · next free => simp only [statWindow] at free; omega

theorem statsOpened_pos (t : Trng) : (statsOpened t).pos = t.pos := (apply_ite Trng.pos _ _ _).trans (ite_self _)

theorem statsOpened_state (t : Trng) : (statsOpened t).state = t.state := (apply_ite Trng.state _ _ _).trans (ite_self _)

/-- A sample once its windows are open: every source takes its bit and is tested, and a source in service makes a raw bit. -/
def sampleOpen (v : BitVec 11) (t : Trng) : Trng :=
  if t.state = .off then t
  else
    let src := Tab.gen 11 fun i => sampleSource t.pos t.statPos (v.getLsbD i) (t.src.at (fin 11 i))
    let t2 := { t with src := src, pos := t.pos + 1, statPos := t.statPos + 1 }
    match healthFailure t2 with
    | some (s, k) => failTrng t2 s k
    | none =>
      if t.state = .ready then condition t2 ((List.range 11).foldl (fun a i => a != v.getLsbD i) false)
      else t2

theorem sampleTrng_eq (v : BitVec 11) (t : Trng) : sampleTrng v t = sampleOpen v (statsOpened (windowOpened t)) := rfl

theorem sampleOpen_inv (v : BitVec 11) {t : Trng} (inv : TrngInv t) (pos : t.state ≠ .off → t.pos < 1024) (stat : t.statPos < 65536) :
    TrngInv (sampleOpen v t) := by
  unfold sampleOpen
  by_cases off : t.state = .off
  · rw [if_pos off]
    exact inv
  · rw [if_neg off]
    obtain ⟨pool, -, -, raw, attempt⟩ := inv
    have sampled (src : Tab 11 Source) : TrngInv { t with src := src, pos := t.pos + 1, statPos := t.statPos + 1 } :=
      ⟨pool, pos off, stat, raw, attempt⟩
    simp only
    split
    · exact failTrng_inv _ _ (sampled _)
    · split
      · exact condition_inv _ (sampled _)
      · exact sampled _

theorem sampleTrng_inv (v : BitVec 11) {t : Trng} (h : TrngInv t) : TrngInv (sampleTrng v t) := by
  rw [sampleTrng_eq]
  refine sampleOpen_inv v (statsOpened_inv (windowOpened_inv h)) (fun on => ?_) (statsOpened_statPos (windowOpened_inv h))
  rw [statsOpened_state] at on
  rw [statsOpened_pos]
  exact windowOpened_pos h on

/-- Words leave the pool and readers come and go: what else the invariant speaks of stays. -/
theorem Keeps.of_readers {s t : State} (pool : t.trng.pool.length ≤ s.trng.pool.length) (pending : t.pending = s.pending := by rfl)
    (fuses : t.fuses = s.fuses := by rfl) (pos : t.trng.pos = s.trng.pos := by rfl)
    (stat : t.trng.statPos = s.trng.statPos := by rfl) (raw : t.trng.raw = s.trng.raw := by rfl)
    (attempt : t.trng.attempt = s.trng.attempt := by rfl) (mbx : t.mbx = s.mbx := by rfl) (np : t.np = s.np := by rfl)
    (locks : t.locks = s.locks := by rfl) : Keeps s t :=
  ⟨pending, fuses, fun ⟨⟨bound, inv⟩, rest⟩ => by
    rw [Inv, TrngInv, pos, stat, raw, attempt, mbx, np, locks]
    exact ⟨⟨Nat.le_trans pool bound, inv⟩, rest⟩⟩

theorem drop_length_le {α : Type} (k : Nat) (l : List α) : (l.drop k).length ≤ l.length := by
  rw [List.length_drop]
  omega

theorem seedDraw_keeps (s : State) (n : Fin 64) : Keeps s (seedDraw s n) := by
  unfold seedDraw
  split
  · exact Keeps.refl s
  · exact Keeps.ite (fun _ => desk_keeps s _) fun _ => Keeps.ite (fun _ => Keeps.refl s) fun _ =>
      Keeps.ite (fun _ => Keeps.of_readers (drop_length_le 4 _)) fun _ => Keeps.of_readers (Nat.le_refl _)

theorem reply_keeps (s : State) (r : Reply) : Keeps s { s with reply := r } := Keeps.of_parts

theorem trngRead_keeps (s : State) (who : Requester) : Keeps s (trngRead s who) := by
  unfold trngRead
  refine Keeps.ite (fun _ => Keeps.of_readers (Nat.le_refl _)) fun _ => ?_
  split
  · next w rest _ e =>
    refine Keeps.of_readers ?_
    simp [e]
  · exact Keeps.of_readers (Nat.le_refl _)

theorem deliver_keeps (s : State) : Keeps s (deliver s) := by
  unfold deliver
  simp only
  split
  · exact Keeps.of_readers (Nat.le_refl _)
  · next r rest _ =>
    refine Keeps.ite (fun _ => Keeps.of_readers (Nat.le_refl _)) fun _ => ?_
    cases r with
    | word who since => exact Keeps.of_readers (drop_length_le _ _)
    | keys => exact Keeps.of_readers (drop_length_le _ _)
    | seed n =>
      simp only
      split
      · exact (Keeps.of_readers (drop_length_le _ _)).settled
      · exact Keeps.of_readers (drop_length_le _ _)

theorem failKeys_keeps (s : State) : Keeps s (failKeys s) := by
  unfold failKeys
  split
  · exact desk_keeps s _
  · exact sec_keeps s _

theorem releaseReaders_keeps (s : State) : Keeps s (releaseReaders s) := by
  have released (d : Desk) (l : List Reader) : Keeps s { s with desk := d, trng := { s.trng with waiting := l } } :=
    Keeps.of_readers (Nat.le_refl _)
  exact Keeps.ite (fun _ => (released _ _).trans (failKeys_keeps _)) fun _ => released _ _

theorem sampleStep_keeps (v : BitVec 11) (s : State) : Keeps s (sampleStep v s) := by
  have sampled : Keeps s { s with trng := sampleTrng v s.trng } := trng_keeps (sampleTrng_inv v)
  have released := sampled.trans (releaseReaders_keeps _)
  exact Keeps.ite (fun _ => sampled) fun _ => Keeps.ite (fun _ => sampled) fun _ =>
    Keeps.ite (fun _ => released.trans (noticeAll_keeps _ _ _ _)) fun _ => released

end Sys2Proof.Machine
end
section
/-!
SUPPORT. What trust, resets, housekeeping, the registers and the passing of time keep, and with these every command and every step.
-/
namespace Sys2Proof.Machine

/-! ## Trust -/

set_option Elab.async false in
/-- A change of Front Desk and of the secure region. -/
theorem deskSec_keeps (s : State) (d : Desk) (x : Secure) : Keeps s { s with desk := d, sec := x } := Keeps.of_parts

theorem imageStage_keeps (s : State) (n : Fin 64) : Keeps s (imageStage s n) := by
  unfold imageStage stagePiece
  split
  · exact Keeps.refl s
  · simp only
    split
    · exact desk_keeps s _
    · split
      · exact desk_keeps s _
      · exact deskSec_keeps s _ _

theorem imageInstall_keeps (s : State) (n : Fin 64) : Keeps s (imageInstall s n) := by
  unfold imageInstall
  split
  · exact Keeps.refl s
  · exact Keeps.ite (fun _ => deskSec_keeps s _ _) fun _ => deskSec_keeps s _ _

theorem takeKeys_keeps (s : State) : Keeps s (takeKeys s) :=
  Keeps.ite (fun _ => Keeps.refl s) fun _ => Keeps.ite (fun _ => Keeps.of_readers (drop_length_le 24 _)) fun _ =>
    Keeps.of_readers (Nat.le_refl _)

theorem aliasGeneration_keeps (s : State) : Keeps s (aliasGeneration s) := by
  unfold aliasGeneration
  split
  · exact Keeps.refl s
  · exact Keeps.ite (fun _ => Keeps.refl s) fun _ => Keeps.ite (fun _ => sec_keeps s _) fun _ =>
      Keeps.ite (fun _ => takeKeys_keeps s) fun _ => (takeKeys_keeps s).trans (sec_keeps _ _)

theorem lifecycleDone_keeps (s : State) (n : Fin 64) (c : Cmd) : Keeps s (lifecycleDone s n c) := deskSec_keeps s _ _

theorem identityStep_keeps (s : State) (n : Fin 64) (c : Cmd) : Keeps s (identityStep s n c) := by
  have drawn := (desk_keeps s (setCur s.desk n (some { c with done := 1 }))).trans (takeKeys_keeps _)
  exact Keeps.ite (fun _ => desk_keeps s _) fun _ => Keeps.ite (fun _ => drawn) fun _ =>
    (drawn.trans (sec_keeps _ _)).trans (lifecycleDone_keeps _ n c)

theorem wipeSram_keeps (s : State) : Keeps s (wipeSram s) := deskSec_keeps s _ _

theorem lifecycleToken_keeps (s : State) (n : Fin 64) (c : Cmd) (t : Bytes) : Keeps s (lifecycleToken s n c t) := by
  have wiped := (wipeSram_keeps s).trans (sec_keeps _ { (wipeSram s).sec with wipeLc := true })
  exact Keeps.ite (fun _ => desk_keeps s _) fun _ => Keeps.ite (fun _ => wiped.trans (identityStep_keeps _ n c)) fun _ =>
    wiped.trans (lifecycleDone_keeps _ n c)

theorem lifecycleRun_keeps (s : State) (n : Fin 64) : Keeps s (lifecycleRun s n) := by
  unfold lifecycleRun
  split
  · exact Keeps.refl s
  · refine Keeps.ite (fun _ => identityStep_keeps s n _) fun _ => ?_
    simp only
    split
    · exact desk_keeps s _
    · exact (desk_keeps s _).trans (lifecycleToken_keeps _ n _ _)

theorem attWrite_keeps (s : State) (n : Fin 64) (c : Cmd) (r : Bytes) : Keeps s (attWrite s n c r) := desk_keeps s _

theorem attSign_keeps (s : State) (n : Fin 64) (c : Cmd) (k : AttKey) : Keeps s (attSign s n c k) := deskSec_keeps s _ _

theorem attestRun_keeps (s : State) (n : Fin 64) : Keeps s (attestRun s n) := by
  unfold attestRun
  split
  · exact Keeps.refl s
  · have retried (c d : Prop) [Decidable c] [Decidable d] (a b : Desk) (x : Secure) (k : Cmd) (r r' : Bytes) : Keeps s
        (if c then (if d then attWrite s n k r else { s with desk := a, sec := x }) else attWrite s n k r') :=
      Keeps.ite (fun _ => Keeps.ite (fun _ => attWrite_keeps s n _ _) fun _ => deskSec_keeps s _ _) fun _ => attWrite_keeps s n _ _
    refine Keeps.ite (fun _ => attWrite_keeps s n _ _) fun _ => Keeps.ite (fun _ => attWrite_keeps s n _ _) fun _ =>
      Keeps.ite (fun _ => desk_keeps s _) fun _ => ?_
    split
    · exact Keeps.ite (fun _ => attSign_keeps s n _ _) fun _ => retried _ _ _ s.desk _ _ _ _
    · exact retried _ _ _ s.desk _ _ _ _

/-! ## Resets and boots -/

/-- A reset meets the invariant whatever was before it. -/
theorem inReset_keeps (s : State) (cause : BitVec 4) (mem : Memory) : Keeps s (inReset s cause mem) := by
  refine ⟨rfl, rfl, fun _ => ⟨?_, ?_, Nat.zero_le _, nofun, ?_⟩⟩
  · exact ⟨by simp [inReset], by simp [inReset], by simp [inReset], by simp [inReset], by simp [inReset]⟩
  · intro p
    simp [inReset]
  · intro n w e
    simp [inReset] at e

theorem nextBoot_keeps (s : State) : Keeps s (nextBoot s) := desk_keeps s _

theorem elec_keeps (s : State) (e : Electrical) : Keeps s { s with elec := e } := Keeps.of_parts

theorem warmReset_keeps (cause : BitVec 4) (s : State) : Keeps s (warmReset cause s) := (inReset_keeps s _ _).trans (nextBoot_keeps _)

theorem faultReset_keeps (cause : BitVec 4) (cls die : Nat) (s : State) : Keeps s (faultReset cause cls die s) :=
  (warmReset_keeps cause s).trans (sec_keeps _ _)

theorem powerOn_keeps (s : State) : Keeps s (powerOn s) := by
  unfold powerOn
  split
  · exact (elec_keeps s _).trans (nextBoot_keeps _)
  · exact Keeps.refl s

theorem unpowered_keeps (s : State) : Keeps s (unpowered s) := (inReset_keeps s _ _).trans (elec_keeps _ _)

theorem resetAssert_keeps (s : State) : Keeps s (resetAssert s) := by
  unfold resetAssert
  split
  · exact elec_keeps s _
  · exact Keeps.ite (fun _ => elec_keeps s _) fun _ => Keeps.of_parts
  · exact (Keeps.ite (fun _ => warmReset_keeps 1 s) fun _ => Keeps.refl s).trans (elec_keeps _ _)

theorem bootPlan_keeps (s : State) : Keeps s (bootPlan s) := Keeps.of_parts

theorem bootFirmware_keeps (s : State) (f : BootFindings) : Keeps s (bootFirmware s f) :=
  ((desk_keeps s _).trans (bootPlan_keeps _)).trans Keeps.of_parts

theorem bootSlots_keeps (s : State) (f : BootFindings) : Keeps s (bootSlots s f) :=
  Keeps.ite (fun _ => (sec_keeps s _).trans (bootFirmware_keeps _ f)) fun _ => Keeps.of_parts

theorem copyFault_keeps (s : State) : Keeps s (copyFault s) := by
  unfold copyFault
  split
  · exact Keeps.refl s
  · exact deskSec_keeps s _ _

theorem boot_keeps (s : State) (f : BootFindings) : Keeps s (boot s f) :=
  (copyFault_keeps s).trans <| Keeps.ite (fun _ => elec_keeps _ _) fun _ =>
    Keeps.ite (fun _ => (sec_keeps _ _).trans (bootSlots_keeps _ f)) fun _ => elec_keeps _ _

theorem resetRelease_keeps (s : State) (f : BootFindings) : Keeps s (resetRelease s f) := by
  unfold resetRelease
  split
  · exact ((elec_keeps s _).trans (boot_keeps _ f)).trans (latchStatus_keeps _)
  · exact Keeps.refl s

theorem fwCtl_keeps (s : State) (v : Word) : Keeps s (fwCtl s v) :=
  Keeps.ite (fun _ => warmReset_keeps 6 s) fun _ => sec_keeps s _

theorem secureWipe_keeps (t : WipeTrigger) (more : List WipeTrigger) (s : State) : Keeps s (secureWipe t more s) :=
  (wipeSram_keeps s).trans (sec_keeps _ _)

/-! ## Housekeeping -/

theorem updMem_keeps (s : State) (f : Memory → Memory) : Keeps s (updMem s f) := desk_keeps s _

theorem tileScrubUe_keeps (s : State) (l : Fin 256) (word : Nat) : Keeps s (tileScrubUe s l word) := by
  unfold tileScrubUe
  simp only
  split
  · exact Keeps.refl s
  · exact Keeps.ite (fun _ => (desk_keeps s _).trans (noteTile_keeps l _ _)) fun _ => desk_keeps s _

theorem sramLost_keeps (s : State) (u : SramUnit) (word : Nat) : Keeps s (sramLost s u word) := by
  cases u with
  | tile l => exact tileScrubUe_keeps s l word
  | spare d x => exact desk_keeps s _
  | staging d => exact desk_keeps s _
  | nightPorter => exact (updMem_keeps s _).trans (restartPorter_keeps _)
  | frontDesk => exact faultReset_keeps 3 11 4 s
  | secure => exact faultReset_keeps 3 11 4 s

/-! ## Registers -/

theorem sqTail_keeps (s : State) (n : Fin 64) (v : Word) : Keeps s (sqTail s n v) :=
  Keeps.ite (fun _ => (desk_keeps s _).trans (wake_keeps 1 _)) fun _ => desk_keeps s _

theorem gctlMode_keeps (s : State) (p : Fin 4) (v : Word) : Keeps s (gctlMode s p v) := (desk_keeps s _).trans (wake_keeps 7 _)

theorem ledgerCtl_keeps (s : State) (p : Fin 4) (v : Word) : Keeps s (ledgerCtl s p v) := (desk_keeps s _).trans (wake_keeps 7 _)

theorem sqWrite_keeps (s : State) (n : Fin 64) (off : Nat) (v : Word) : Keeps s (sqWrite s n off v) := by
  unfold sqWrite
  simp only
  split
  case h_3 => exact sqTail_keeps s n v
  case h_6 => exact Keeps.refl s
  all_goals exact desk_keeps s _

theorem cqWriteReg_keeps (s : State) (n : Fin 64) (off : Nat) (v : Word) : Keeps s (cqWriteReg s n off v) := by
  unfold cqWriteReg
  simp only
  split
  case h_8 => exact Keeps.refl s
  all_goals exact desk_keeps s _

theorem mbxWrite_keeps (s : State) (p : Fin 4) (off : Nat) (v : Word) : Keeps s (mbxWrite s p off v) := by
  unfold mbxWrite
  split
  · exact setDoorbell_keeps s _ v
  · exact mbx_keeps_of_queue
  · exact maskBell_keeps s _ v
  · exact mbx_keeps_of_queue
  · exact pairWrite_keeps s _ _ _ v

theorem portWrite_keeps (s : State) (p : Fin 4) (off : Nat) (v : Word) : Keeps s (portWrite s p off v) := by
  unfold portWrite
  refine Keeps.ite (fun _ => Keeps.iteSelf fun _ => sqWrite_keeps s _ _ v) fun _ => ?_
  refine Keeps.ite (fun _ => Keeps.iteSelf fun _ => cqWriteReg_keeps s _ _ v) fun _ => ?_
  refine Keeps.ite (fun _ => mbxWrite_keeps s p _ v) fun _ => ?_
  exact Keeps.iteSelf fun _ => desk_keeps s _

/-- No register of the NPI block holds the gating or what Night Porter asks. -/
theorem npiWrite_same (g : Grade) (now : Nat) (p : Porter) (off : Nat) (v : Word) :
    (npiWrite g now p off v).gate = p.gate ∧ (npiWrite g now p off v).asked = p.asked := by
  unfold npiWrite restartIn
  repeat' split
  all_goals exact ⟨rfl, rfl⟩

theorem modWrite_keeps (s : State) (p : Fin 4) (off : Nat) (v : Word) : Keeps s (modWrite s p off v) := by
  unfold modWrite
  refine Keeps.ite (fun _ => gctlMode_keeps s p v) fun _ => ?_
  refine Keeps.ite (fun _ => desk_keeps s _) fun _ => ?_
  refine Keeps.ite (fun _ => desk_keeps s _) fun _ => ?_
  refine Keeps.ite (fun _ => ?lock) fun _ => ?_
  case lock =>
    split
    · exact lockReleased_keeps s _ _ v
    · exact Keeps.refl s
  refine Keeps.ite (fun _ => desk_keeps s _) fun _ => ?_
  refine Keeps.ite (fun _ => ledgerCtl_keeps s p v) fun _ => ?_
  refine Keeps.ite (fun _ => desk_keeps s _) fun _ => ?_
  refine Keeps.ite (fun _ => porter_keeps_same (npiWrite_same _ _ _ _ _).1 (npiWrite_same _ _ _ _ _).2) fun _ => ?_
  refine Keeps.ite (fun _ => fwCtl_keeps s v) fun _ => ?_
  refine Keeps.ite (fun _ => sec_keeps s _) fun _ => ?_
  refine Keeps.ite (fun _ => fab_keeps s _) fun _ => ?_
  exact Keeps.iteSelf fun _ => desk_keeps s _

theorem wordWrite_keeps (p : Fin 4) (s : State) (off : Nat) (v : Word) : Keeps s (wordWrite p s off v) :=
  Keeps.ite (fun _ => Keeps.iteSelf fun _ => portWrite_keeps s p off v) fun _ => Keeps.iteSelf fun _ => modWrite_keeps s p off v

theorem wordsWrite_keeps (p : Fin 4) (k off : Nat) (bs : Bytes) (s : State) : Keeps s (wordsWrite p k off bs s) := by
  induction k generalizing off bs s with
  | zero => exact Keeps.refl s
  | succ k ih => exact (wordWrite_keeps p s _ _).trans (ih _ _ _)

theorem barWrite_keeps (s : State) (p : Fin 4) (off : Nat) (data : Bytes) : Keeps s (barWrite s p off data) :=
  Keeps.ite (fun _ => Keeps.iteSelf fun _ => desk_keeps s _) fun _ => Keeps.iteSelf fun _ => wordsWrite_keeps p _ _ _ s

theorem recov_keeps (s : State) (r : Recovery) (x : Reply) : Keeps s { s with recov := r, reply := x } := Keeps.of_parts

theorem recoverBoot_keeps (s : State) (type : Nat) (f : BootFindings) : Keeps s (recoverBoot s type f) := by
  unfold recoverBoot
  refine Keeps.trans ?_ (latchStatus_keeps _)
  refine Keeps.trans ?_ (bootSlots_keeps _ f)
  exact Keeps.of_parts

theorem smbus_keeps (s : State) {f : State → State} (h : Keeps s (f s)) : Keeps s (smbus s f) :=
  Keeps.ite (fun _ => h) fun _ => reply_keeps s _

/-! ## Time -/

theorem takeUnknown_keeps (s : State) (p : Fin 4) : Keeps s (takeUnknown s p) := Keeps.iteSelf fun _ => takeMail_keeps s _ 1

theorem tickHours_same (now : Nat) (p : Porter) : (tickHours now p).gate = p.gate ∧ (tickHours now p).asked = p.asked := by
  unfold tickHours
  repeat' split
  all_goals exact ⟨rfl, rfl⟩

theorem tickTime_keeps (s : State) : Keeps s (tickTime s) :=
  Keeps.of_parts (gate := (tickHours_same _ _).1) (asked := (tickHours_same _ _).2)

theorem tickDesk_keeps (s : State) : Keeps s (tickDesk s) :=
  (Keeps.trans mbx_keeps_of_queue (Keeps.foldl takeUnknown_keeps _ _)).trans (servePorts_keeps _)

theorem clockTick_keeps (s : State) : Keeps s (clockTick s) := by
  unfold clockTick
  split
  · exact Keeps.refl s
  · exact Keeps.refl s
  · have ticked : Keeps s { tickTime s with mbx := clearPorterBell s.mbx } :=
      (tickTime_keeps s).trans (mbx_keeps_of_queue (s := tickTime s) (m := clearPorterBell s.mbx) rfl)
    exact Keeps.ite (fun _ => (ticked.trans (tickDesk_keeps _)).settled) fun _ => ticked
  · exact tickTime_keeps s

end Sys2Proof.Machine
end
section
/-!
SUPPORT. Every command answers a next state and keeps what `Keeps` says (O6), and with the clock so does every step (O5).
-/
namespace Sys2Proof.Machine

/-- A command answers a next state that keeps what `Keeps` says. -/
def Runs (s : State) (o : Host.Outcome State Fault Refusal) : Prop := ∃ t, o = .next t ∧ Keeps s t

set_option Elab.async false in
theorem Runs.next {s t : State} (h : Keeps s t) : Runs s (.next t) := ⟨t, rfl, h⟩

/-- A command of Front Desk alone, done while it is awake. -/
theorem Keeps.awakeDesk {s : State} {f : Env → Desk → Desk} : Keeps s (if deskAwake s then onDesk s f else s) :=
  Keeps.iteSelf fun _ => onDesk_keeps s f

/-- A delivered message is taken and has its effect. -/
theorem Keeps.inbox {s : State} {f : Msg → Bool} {g : Fin 16 → Msg → State → State} (h : ∀ p m t, Keeps t (g p m t)) :
    Keeps s (match popInbox s f with | some (p, m, t) => g p m t | none => s) := by
  split
  · next p m t e => exact (popInbox_keeps e).trans (h p m t)
  · exact Keeps.refl s

/-! ## Commands of Front Desk -/

theorem execDispatch_runs (s : State) (preload : Option (Fin 64)) : Runs s (execDispatch preload s) :=
  .next (Keeps.iteSelf fun _ => onDesk_keeps s _)

theorem execCommitPoint_runs (s : State) (n : Fin 64) : Runs s (execCommitPoint n s) :=
  .next (Keeps.iteSelf fun _ => ((desk_keeps s _).trans (servePorts_keeps _)).settled)

theorem execPreemptionPointStop_runs (s : State) (n : Fin 64) : Runs s (execPreemptionPointStop n s) :=
  .next (Keeps.iteSelf fun _ => ((desk_keeps s _).trans (retireDue_keeps _)).settled)

theorem execEngineStopTimeout_runs (s : State) (n : Fin 64) : Runs s (execEngineStopTimeout n s) :=
  .next (Keeps.iteSelf fun _ => ((desk_keeps s _).trans (retireDue_keeps _)).settled)

theorem execFenceDeadlockExpiry_runs (s : State) : Runs s (execFenceDeadlockExpiry s) :=
  .next (Keeps.ite (fun _ => Keeps.refl s) fun _ => Keeps.ite (fun _ => onDesk_keeps s _) fun _ => (wake_keeps 10 s).settled)

theorem execApertureAccess_runs (s : State) (p : Fin 4) (off : BitVec 36) (acc : BarAccess) : Runs s (execApertureAccess p off acc s) := by
  refine .next (Keeps.ite (fun _ => Keeps.refl s) fun _ => ?_)
  split
  · exact Keeps.iteSelf fun _ => ((desk_keeps s _).trans (wakeAperture_keeps p _ _ _)).trans (reply_keeps _ _)
  · exact Keeps.iteSelf fun _ => (desk_keeps s _).trans (wakeAperture_keeps p _ _ _)

/-! ## Fabric -/

theorem takeLinkFlit_keeps {s t : State} {a b c : Prop} [Decidable a] [Decidable b] [Decidable c] {p : Fin 16}
    (h : Keeps s t) : Keeps s (if a then s else if b then badFlit s p else if c then s else t) :=
  Keeps.ite (fun _ => Keeps.refl s) fun _ => Keeps.ite (fun _ => badFlit_keeps s p) fun _ => Keeps.ite (fun _ => Keeps.refl s) fun _ => h

theorem execAckFlit_runs (s : State) (p : Fin 16) (f : Bytes) (g : Bool) : Runs s (execAckFlit p f g s) :=
  .next (takeLinkFlit_keeps ((updFab_keeps s p _).trans (pumpState_keeps _ p)).settled)

theorem execIdleFlit_runs (s : State) (p : Fin 16) (f : Bytes) (g : Bool) : Runs s (execIdleFlit p f g s) :=
  .next (takeLinkFlit_keeps ((updFab_keeps s p _).trans (pumpState_keeps _ p)).settled)

theorem execNackFlit_runs (s : State) (p : Fin 16) (f : Bytes) (g : Bool) : Runs s (execNackFlit p f g s) :=
  .next (takeLinkFlit_keeps (((updFab_keeps s p _).trans (emit_keeps _ _)).trans (pumpState_keeps _ p)).settled)

theorem execLinkUp_runs (s : State) (p : Fin 16) : Runs s (execLinkUp p s) :=
  .next (Keeps.iteSelf fun _ => (((updFab_keeps s p _).trans (emit_keeps _ _)).trans (pumpState_keeps _ p)).settled)

theorem execRouteChange_runs (s : State) (l : FabLink) (trained : Bool) : Runs s (execRouteChange l trained s) := by
  refine .next ?_
  split
  · refine Keeps.iteSelf fun _ => Keeps.ite (fun _ => Keeps.iteSelf fun _ => ?_) fun _ => ?_
    · exact ((reroute_keeps s _).trans (resendOn_keeps _ _)).settled
    · exact ((updFab_keeps s _ _).trans (reroute_keeps _ _)).settled
  · exact Keeps.iteSelf fun _ => ((fab_keeps s _).trans (reroute_keeps _ _)).settled

theorem execMessageAck_runs (s : State) (m : Fin 64) (cls : Fin 5) (mseq : Word) : Runs s (execMessageAck m cls mseq s) :=
  .next (Keeps.iteSelf fun _ => ((fab_keeps s _).trans (emit_keeps _ _)).settled)

theorem execHello_runs (s : State) : Runs s (execHello s) :=
  .next (Keeps.iteSelf fun _ => Keeps.inbox fun p m t => (takeHello_keeps t p m.body).settled)

theorem execReadRequest_runs (s : State) : Runs s (execReadRequest s) :=
  .next (Keeps.iteSelf fun _ => Keeps.inbox fun _ m t => ((wakePeer_keeps _ _ t).trans (serveRead_keeps _ m)).settled)

theorem execRemoteWrite_runs (s : State) : Runs s (execRemoteWrite s) :=
  .next (Keeps.iteSelf fun _ => Keeps.inbox fun _ m t => ((wakePeer_keeps _ _ t).trans (serveWrite_keeps _ m)).settled)

theorem execFabricRegisterWrite_runs (s : State) : Runs s (execFabricRegisterWrite s) :=
  .next (Keeps.iteSelf fun _ => Keeps.inbox fun p _ t => (peerRegWrite_keeps t p _ _).settled)

theorem execFabricRegisterRead_runs (s : State) : Runs s (execFabricRegisterRead s) :=
  .next (Keeps.iteSelf fun _ => Keeps.inbox fun p m t => ((peerRegRead_keeps t p _).trans (answer_keeps _ m 3 false _)).settled)

/-! ## Mailboxes and locks -/

theorem execDbMaskWrite_runs (s : State) (bell : BellId) (w : BellWrite) : Runs s (execDbMaskWrite bell w s) := by
  refine .next (Keeps.iteSelf fun _ => ?_)
  split
  · exact (maskBell_keeps s bell _).settled
  · exact (clearPend_keeps s bell _).settled

theorem execPing_runs (s : State) (p : Fin 4) : Runs s (execPing p s) := by
  refine .next ?_
  split
  · exact Keeps.refl s
  · exact (takeMail_keeps s _ _).settled

theorem execSensorRead_runs (s : State) (p : Fin 4) : Runs s (execSensorRead p s) := by
  refine .next ?_
  split
  · exact Keeps.refl s
  · exact Keeps.ite (fun _ => (takeMail_keeps s _ 2).settled) fun _ => Keeps.ite (fun _ => (takeMail_keeps s _ 3).settled) fun _ =>
      ((takeMail_keeps s _ 0).trans (askPorter_keeps _ p _ _)).settled

theorem execLockRead_runs (s : State) (who : Requester) (l : LockRef) : Runs s (execLockRead who l s) := by
  refine .next ?_
  split
  · exact Keeps.iteSelf fun reach => (lockTaken_keeps s l.n (lockReach_listed reach)).trans (reply_keeps _ _)
  · exact Keeps.iteSelf fun _ => Keeps.settled (Keeps.of_parts)

theorem execLockRelease_runs (s : State) (who : Requester) (l : LockRef) (v : Word) : Runs s (execLockRelease who l v s) := by
  refine .next ?_
  split
  · exact Keeps.iteSelf fun _ => lockReleased_keeps s _ _ _
  · exact Keeps.iteSelf fun _ => (desk_keeps s _).settled

/-! ## Night Porter -/

theorem execSensorReq_runs (s : State) : Runs s (execSensorReq s) :=
  .next (Keeps.iteSelf fun _ => ((takeMail_keeps s _ 0).trans (postMail_keeps _ _ _)).settled)

theorem execSensorVal_runs (s : State) : Runs s (execSensorVal s) := by
  refine .next ?_
  split
  · exact Keeps.refl s
  · exact ((takePorter_keeps s 0).trans (passValue_keeps _ _)).settled

theorem execPlan_runs (s : State) : Runs s (execPlan s) := by
  refine .next ?_
  split
  · exact Keeps.refl s
  · exact (takePorter_keeps s 0).settled

theorem execWoke_runs (s : State) : Runs s (execWoke s) := by
  refine .next ?_
  split
  · exact Keeps.refl s
  · exact (takePorter_keeps s 0).settled

theorem execNoticeReq_runs (s : State) : Runs s (execNoticeReq s) := by
  refine .next ?_
  split
  · exact Keeps.refl s
  · exact ((takePorter_keeps s 0).trans (noticeAll_keeps _ _ _ _)).settled

/-- Night Porter is replaced by one that asks for no clock step. -/
theorem Keeps.replacePorter {s t : State} {p : Porter} (h : Keeps s t) (gate : Inv s → p.gate ≤ 8)
    (asked : ∀ f g a c k, p.asked ≠ some (.clockStop f g a c k)) : Keeps s { t with np := p } :=
  ⟨h.pending, h.fuses, fun inv => ⟨(h.inv inv).1, (h.inv inv).2.1, gate inv, fun f g a c k e => absurd e (asked f g a c k), (h.inv inv).2.2.2.2⟩⟩

/-- A descent that is refused: nothing is asked any more. -/
theorem descentRefused_keeps (s : State) : Keeps s { takePorter s 3 with np := { s.np with asked := none, timer := s.desk.now } } :=
  (takePorter_keeps s 3).replacePorter (fun inv => inv.gate) nofun

theorem execDescend_runs (s : State) : Runs s (execDescend s) := by
  refine .next (Keeps.iteSelf fun _ => Keeps.ite (fun _ => ?_) fun _ => (takePorter_keeps s 3).settled)
  split
  · exact ((takePorter_keeps s 0).trans (descendTo_keeps _ _)).settled
  · exact (descentRefused_keeps s).settled

theorem execClockStop_runs (s : State) : Runs s (execClockStop s) := by
  refine .next ?_
  split
  · exact Keeps.refl s
  · exact Keeps.ite (fun _ => (desk_keeps s _).settled) fun _ => ((takePorter_keeps s 0).trans (makeStep_keeps _)).settled

theorem execClockStopTimeout_runs (s : State) : Runs s (execClockStopTimeout s) := by
  refine .next ?_
  split
  · exact Keeps.iteSelf fun _ => ((desk_keeps s _).trans (makeStep_keeps _)).settled
  · exact Keeps.refl s

theorem execTrip_runs (s : State) : Runs s (execTrip s) := by
  refine .next ?_
  split
  · exact Keeps.refl s
  refine Keeps.trans (takePorter_keeps s 0) ?_
  generalize takePorter s 0 = t
  split
  · exact (desk_keeps _ _).settled
  · exact (desk_keeps _ _).settled
  · exact ((desk_keeps _ _).trans (noticeAll_keeps _ _ _ _)).settled
  · exact settle_keeps _

theorem sampleAll_keeps (s : State) (raw : List Word) : Keeps s { s with np := sampleAll s raw } := by
  unfold sampleAll
  exact porter_keeps_same

theorem execSampleRound_runs (s : State) (raw : List Word) : Runs s (execSampleRound raw s) := by
  refine .next (Keeps.iteSelf fun _ => ?_)
  split
  · refine Keeps.settled (Keeps.trans ?_ (coolDown_keeps _))
    refine Keeps.trans ?_ (tickController_keeps _)
    refine Keeps.trans ?_ (applyPlan_keeps _)
    refine Keeps.trans (sampleAll_keeps s raw) ?_
    generalize sampleAll s raw = p
    exact porter_keeps_same (s := { s with np := p })
  · exact (sampleAll_keeps s raw).trans (latchStatus_keeps _)
  · exact (sampleAll_keeps s raw).trans (latchStatus_keeps _)
  · exact Keeps.refl s

theorem execTripRestore_runs (s : State) : Runs s (execTripRestore s) := by
  refine .next (Keeps.iteSelf fun _ => Keeps.settled ?_)
  refine Keeps.trans ?_ (wake_keeps 9 _)
  refine Keeps.trans ?_ (porterSays_keeps _ _ _)
  exact Keeps.of_parts

theorem execDescentTimerExpiry_runs (s : State) : Runs s (execDescentTimerExpiry s) := by
  refine .next (Keeps.iteSelf fun _ => ?_)
  split
  · refine Keeps.settled (Keeps.trans ?_ (porterSays_keeps _ _ _))
    exact porter_keeps_unasked rfl nofun
  · exact Keeps.refl s

theorem execWakeComplete_runs (s : State) : Runs s (execWakeComplete s) := by
  refine .next (Keeps.iteSelf fun _ => Keeps.settled (Keeps.trans ?_ (porterSays_keeps _ _ _)))
  exact Keeps.of_parts

theorem execAgeingReplan_runs (s : State) : Runs s (execAgeingReplan s) := by
  refine .next (Keeps.iteSelf fun _ => Keeps.settled (Keeps.trans ?_ (porterSays_keeps _ _ _)))
  exact Keeps.of_parts

/-! ## Random source, power, housekeeping, attachment -/

theorem execTrngReadTimeout_runs (s : State) (who : Requester) : Runs s (execTrngReadTimeout who s) := by
  refine .next ?_
  split
  · exact Keeps.refl s
  · exact Keeps.of_readers (Nat.le_refl _)

theorem execWindowClose_runs (s : State) : Runs s (execWindowClose s) :=
  .next (Keeps.iteSelf fun _ => trng_keeps closeWindow_inv)

theorem execStatsWindow_runs (s : State) : Runs s (execStatsWindow s) :=
  .next (Keeps.iteSelf fun _ => trng_keeps closeStats_inv)

theorem execPowerLoss_runs (s : State) : Runs s (execPowerLoss s) := by
  refine .next ?_
  split
  · exact Keeps.refl s
  · exact unpowered_keeps s

theorem execRailFault_runs (s : State) : Runs s (execRailFault s) := by
  refine .next ?_
  split
  · exact Keeps.refl s
  · exact ((inReset_keeps s _ _).trans (nextBoot_keeps _)).trans (elec_keeps _ _)

theorem execSecureWipe_runs (s : State) (w : WipeCause) : Runs s (execSecureWipe w s) := by
  refine .next ?_
  split
  · exact Keeps.refl s
  · exact (secureWipe_keeps _ _ s).trans (latchStatus_keeps _)

theorem execSramScrub_runs (s : State) (u : SramUnit) (word : Nat) (f : Finding) : Runs s (execSramScrub u word f s) := by
  refine .next (Keeps.iteSelf fun _ => ?_)
  have pass := updMem_keeps s fun m => passDone m u word
  cases f with
  | clean => exact pass
  | corrected => exact pass.trans (updMem_keeps _ _)
  | uncorrectable => exact (pass.trans (sramLost_keeps _ u word)).settled
  | readCorrected => exact updMem_keeps s _

theorem execFenceValueRead_runs (s : State) (p : Fin 4) (f : Fin 256) : Runs s (execFenceValueRead p f s) :=
  .next (Keeps.ite (fun _ => Keeps.refl s) fun _ => Keeps.ite (fun _ => (desk_keeps s _).trans (reply_keeps _ _)) fun _ => reply_keeps s _)

theorem execRecoveryBoot_runs (s : State) (p : Fin 4) (f : BootFindings) : Runs s (execRecoveryBoot p f s) :=
  .next (Keeps.ite (fun _ => Keeps.ite (fun _ => recoverBoot_keeps s _ f) fun _ => recov_keeps s _ _) fun _ => reply_keeps s _)

theorem usbAnswer_keeps (s : State) (p : Fin 4) (served : Bool) (r : Reply) : Keeps s (usbAnswer s p served r) :=
  reply_keeps s _

theorem execGetIdent_runs (s : State) (q : UsbAsk) : Runs s (execGetIdent q s) := by
  refine .next ?_
  split
  · exact usbAnswer_keeps s _ _ _
  · split
    · exact usbAnswer_keeps s _ _ _
    · exact usbAnswer_keeps s _ _ _
    · exact Keeps.refl s

theorem execTrayCap_runs (s : State) (w : Option (BitVec 16)) : Runs s (execTrayCap w s) := by
  refine .next (smbus_keeps s ?_)
  cases w with
  | none => exact reply_keeps s _
  | some v => exact Keeps.of_parts

theorem execAlertMask_runs (s : State) (w : Option (BitVec 16)) : Runs s (execAlertMask w s) := by
  refine .next (smbus_keeps s ?_)
  cases w with
  | none => exact reply_keeps s _
  | some v => exact Keeps.of_parts

theorem execErrsLog_runs (s : State) : Runs s (execErrsLog s) :=
  .next (smbus_keeps s (Keeps.ite (fun _ => ((reply_keeps s _).trans (wake_keeps 6 _)).settled) fun _ => reply_keeps s _))

/-! ## Every command -/

/-- Every command runs. -/
theorem exec_runs (c : Instr) (s : State) : Runs s (exec c s) := by
  cases c with
  | loadCouplings _ _ => exact .next (onDesk_keeps s _)
  | loadBiases _ _ => exact .next (onDesk_keeps s _)
  | loadGroups _ _ => exact .next (onDesk_keeps s _)
  | commitProblem _ => exact .next (onDesk_keeps s _)
  | setSchedule _ => exact .next (onDesk_keeps s _)
  | setPhaseMap _ => exact .next (onDesk_keeps s _)
  | anneal _ _ => exact .next (onDesk_keeps s _)
  | sample _ _ => exact .next (onDesk_keeps s _)
  | readState _ => exact .next (onDesk_keeps s _)
  | suspend _ => exact .next (onDesk_keeps s _)
  | resume _ _ => exact .next (onDesk_keeps s _)
  | correlate _ _ => exact .next (onDesk_keeps s _)
  | matmul _ _ => exact .next (onDesk_keeps s _)
  | conv2d _ _ => exact .next (onDesk_keeps s _)
  | attend _ _ => exact .next (onDesk_keeps s _)
  | vectorOp _ _ => exact .next (onDesk_keeps s _)
  | reduce _ _ => exact .next (onDesk_keeps s _)
  | coupleOut _ => exact .next (onDesk_keeps s _)
  | copy _ _ => exact .next (onDesk_keeps s _)
  | fill _ _ => exact .next (onDesk_keeps s _)
  | tileLoad _ => exact .next (onDesk_keeps s _)
  | tileStore _ => exact .next (onDesk_keeps s _)
  | seedDraw sq => exact .next ((seedDraw_keeps s sq).settled)
  | fenceSignal _ => exact .next (onDesk_keeps s _)
  | fenceWait _ => exact .next (onDesk_keeps s _)
  | itineraryStore _ => exact .next (onDesk_keeps s _)
  | itineraryLaunch _ => exact .next (onDesk_keeps s _)
  | patch _ => exact .next (onDesk_keeps s _)
  | query _ => exact .next (onDesk_keeps s _)
  | ledgerMark _ => exact .next (onDesk_keeps s _)
  | abort _ _ => exact .next Keeps.awakeDesk
  | imageStage sq => exact .next ((imageStage_keeps s sq).settled)
  | imageInstall sq => exact .next ((imageInstall_keeps s sq).settled)
  | attest sq => exact .next ((attestRun_keeps s sq).settled)
  | lifecycle sq => exact .next ((lifecycleRun_keeps s sq).settled)
  | dispatch preload => exact execDispatch_runs s preload
  | commitPoint sq => exact execCommitPoint_runs s sq
  | timeSliceExpiry _ => exact .next Keeps.awakeDesk
  | timeSliceResume => exact .next Keeps.awakeDesk
  | preemptionPointStop sq => exact execPreemptionPointStop_runs s sq
  | deadlineExpiry _ => exact .next Keeps.awakeDesk
  | hangTimeout _ => exact .next Keeps.awakeDesk
  | engineStopTimeout sq => exact execEngineStopTimeout_runs s sq
  | fenceDeadlockExpiry => exact execFenceDeadlockExpiry_runs s
  | windowVisit _ _ => exact .next (onDesk_keeps s _)
  | phaseBoundary _ => exact .next (onDesk_keeps s _)
  | streamFetch _ _ _ => exact .next (onDesk_keeps s _)
  | sweepEnd _ => exact .next (onDesk_keeps s _)
  | asyncExchange _ => exact .next (onDesk_keeps s _)
  | boundaryTargetTest _ _ => exact .next (onDesk_keeps s _)
  | rowBlockDone _ => exact .next (onDesk_keeps s _)
  | flipNoticeReceive => exact .next (takeRecordRow_keeps 0 0 s)
  | boundarySpinReceive => exact .next (takeRecordRow_keeps 1 0 s)
  | sweepEndRecord => exact .next (takeRecordRow_keeps 0 1 s)
  | exchangeRecord => exact .next (takeRecordRow_keeps 0 2 s)
  | stopRecord => exact .next (takeRecordRow_keeps 0 3 s)
  | replayRecord => exact .next (takeRecordRow_keeps 0 4 s)
  | readRequest => exact execReadRequest_runs s
  | readCompletion => exact .next (takeAnswer_keeps false s)
  | remoteWrite => exact execRemoteWrite_runs s
  | writeAcknowledgement => exact .next (takeAnswer_keeps true s)
  | fabricRegisterWrite => exact execFabricRegisterWrite_runs s
  | fabricRegisterRead => exact execFabricRegisterRead_runs s
  | hello => exact execHello_runs s
  | dataFlit p flit fecGood => exact .next (Keeps.iteSelf fun _ => (dataFlit_keeps s p flit fecGood).settled)
  | ackFlit p flit fecGood => exact execAckFlit_runs s p flit fecGood
  | nackFlit p flit fecGood => exact execNackFlit_runs s p flit fecGood
  | linkRetrain p trained => exact .next (Keeps.iteSelf fun _ => (retrain_keeps s p trained).settled)
  | linkUp p => exact execLinkUp_runs s p
  | routeChange l trained => exact execRouteChange_runs s l trained
  | messageAck m cls mseq => exact execMessageAck_runs s m cls mseq
  | peerTimeout _ => exact .next (Keeps.iteSelf fun _ => (peerGone_keeps s _).settled)
  | sqTailWrite _ sq v => exact .next (Keeps.iteSelf fun _ => (sqTail_keeps s sq v).settled)
  | sqRingWrite _ _ _ => exact .next (Keeps.iteSelf fun _ => (desk_keeps s _).settled)
  | sqEnable _ _ _ => exact .next (Keeps.iteSelf fun _ => (desk_keeps s _).settled)
  | sqDisable _ _ _ => exact .next (Keeps.iteSelf fun _ => (desk_keeps s _).settled)
  | cqEnable _ _ _ => exact .next (Keeps.iteSelf fun _ => (desk_keeps s _).settled)
  | cqDisable _ _ _ => exact .next (Keeps.iteSelf fun _ => (desk_keeps s _).settled)
  | cqHeadWrite _ _ _ => exact .next (Keeps.iteSelf fun _ => (desk_keeps s _).settled)
  | nowRead _ => exact .next (Keeps.iteSelf fun _ => (desk_keeps s _).trans (reply_keeps _ _))
  | fenceValueRead port f => exact execFenceValueRead_runs s port f
  | gctlModeWrite port v => exact .next (Keeps.iteSelf fun _ => (gctlMode_keeps s port v).settled)
  | ledgerMirrorEnable port v => exact .next (Keeps.iteSelf fun _ => (ledgerCtl_keeps s port v).settled)
  | ledgerMirrorWrite => exact .next (Keeps.iteSelf fun _ => (desk_keeps s _).settled)
  | mailboxGo box => exact .next (Keeps.iteSelf fun _ => (goMail_keeps s box).settled)
  | mailboxMsgWrite box r v => exact .next (Keeps.iteSelf fun _ => (writeMailReg_keeps s box r v).settled)
  | mailboxAck box v => exact .next (Keeps.iteSelf fun _ => (ackMail_keeps s box v).settled)
  | mailboxTimeout box => exact .next (Keeps.iteSelf fun _ => (withdrawMail_keeps s box).settled)
  | f2hSend box => exact .next (Keeps.iteSelf fun _ => (sendNext_keeps s box).settled)
  | doorbellSet bell v => exact .next ((setDoorbell_keeps s bell v).settled)
  | dbMaskWrite bell w => exact execDbMaskWrite_runs s bell w
  | ping port => exact execPing_runs s port
  | sensorRead port => exact execSensorRead_runs s port
  | sensorReq => exact execSensorReq_runs s
  | sensorVal => exact execSensorVal_runs s
  | descend => exact execDescend_runs s
  | clockStop => exact execClockStop_runs s
  | clockStopTimeout => exact execClockStopTimeout_runs s
  | plan => exact execPlan_runs s
  | trip => exact execTrip_runs s
  | noticeReq => exact execNoticeReq_runs s
  | woke => exact execWoke_runs s
  | lockRead who l => exact execLockRead_runs s who l
  | lockRelease who l v => exact execLockRelease_runs s who l v
  | apertureAccess port off acc => exact execApertureAccess_runs s port off acc
  | msixUnmask _ _ => exact .next (Keeps.iteSelf fun _ => desk_keeps s _)
  | registerWrite port _ data => exact .next ((barWrite_keeps s port _ data).settled)
  | trngDataRead who => exact .next (Keeps.iteSelf fun _ => trngRead_keeps s who)
  | trngReadTimeout who => exact execTrngReadTimeout_runs s who
  | poolDelivery => exact .next (Keeps.iteSelf fun _ => deliver_keeps s)
  | trngSample v => exact .next (Keeps.iteSelf fun _ => (sampleStep_keeps v s).settled)
  | windowClose => exact execWindowClose_runs s
  | statsWindow => exact execStatsWindow_runs s
  | sampleRound raw => exact execSampleRound_runs s raw
  | limiterEngage => exact .next (Keeps.iteSelf fun _ => Keeps.settled Keeps.of_parts)
  | limiterRelease => exact .next (Keeps.iteSelf fun _ => Keeps.settled Keeps.of_parts)
  | thermalTrip => exact .next (Keeps.iteSelf fun _ => (tripDies_keeps s).settled)
  | tripRestore => exact execTripRestore_runs s
  | hubTrip => exact .next (Keeps.iteSelf fun _ => warmReset_keeps 2 s)
  | descentTimerExpiry => exact execDescentTimerExpiry_runs s
  | wakeComplete => exact execWakeComplete_runs s
  | memPathSleep => exact .next (Keeps.iteSelf fun _ => Keeps.of_parts)
  | ageingReplan => exact execAgeingReplan_runs s
  | npWatchdog => exact .next (Keeps.iteSelf fun _ => (restartPorter_keeps s).settled)
  | fdWatchdog => exact .next (Keeps.iteSelf fun _ => faultReset_keeps 5 11 4 s)
  | dramRefresh _ => exact .next (Keeps.iteSelf fun _ => updMem_keeps s _)
  | patrolScrub _ _ _ => exact .next (Keeps.iteSelf fun _ => (desk_keeps s _).settled)
  | scrubWake => exact .next (Keeps.iteSelf fun _ => updMem_keeps s _)
  | sramScrub u word f => exact execSramScrub_runs s u word f
  | rowRepair _ _ _ => exact .next (Keeps.iteSelf fun _ => updMem_keeps s _)
  | uncorrectableRead _ _ => exact .next (Keeps.iteSelf fun _ => ((desk_keeps s _).trans (noteTile_keeps _ _ _)).settled)
  | tileLogicFault l _ _ => exact .next (Keeps.iteSelf fun _ => ((desk_keeps s _).trans (noteTile_keeps l _ _)).settled)
  | hubFatal _ => exact .next (Keeps.iteSelf fun _ => faultReset_keeps 3 11 4 s)
  | dieLinkDown _ _ => exact .next (Keeps.iteSelf fun _ => faultReset_keeps 4 10 _ s)
  | secureWipe w => exact execSecureWipe_runs s w
  | powerOn => exact .next (powerOn_keeps s)
  | powerLoss => exact execPowerLoss_runs s
  | railFault => exact execRailFault_runs s
  | moduleRemoval => exact .next (elec_keeps s _)
  | resetAssert => exact .next (resetAssert_keeps s)
  | resetRelease f => exact .next (resetRelease_keeps s f)
  | aliasKeyGeneration => exact .next (Keeps.iteSelf fun _ => aliasGeneration_keeps s)
  | slotConfirm => exact .next (Keeps.iteSelf fun _ => sec_keeps s _)
  | activate _ => exact .next (Keeps.iteSelf fun _ => fwCtl_keeps s 1)
  | activateIdle _ => exact .next (Keeps.iteSelf fun _ => fwCtl_keeps s 2)
  | cancel _ => exact .next (Keeps.iteSelf fun _ => fwCtl_keeps s 4)
  | idleActivation => exact .next (Keeps.iteSelf fun _ => warmReset_keeps 6 s)
  | partnerArrival port _ _ _ => exact .next (Keeps.iteSelf fun _ => portEvent_keeps s port _)
  | partnerDeparture port _ => exact .next (Keeps.iteSelf fun _ => portEvent_keeps s port _)
  | linkStateChange _ _ => exact .next (Keeps.iteSelf fun _ => desk_keeps s _)
  | getIdent q => exact execGetIdent_runs s q
  | getSensor port _ => exact .next (usbAnswer_keeps s port _ _)
  | getGuests port => exact .next (usbAnswer_keeps s port _ _)
  | recoveryOpen _ _ => exact .next (Keeps.ite (fun _ => recov_keeps s _ _) fun _ => reply_keeps s _)
  | recoveryImageData _ _ => exact .next (Keeps.iteSelf fun _ => recov_keeps s _ _)
  | recoveryStatus _ => exact .next (reply_keeps s _)
  | recoveryBoot port f => exact execRecoveryBoot_runs s port f
  | ident => exact .next (smbus_keeps s (reply_keeps s _))
  | status => exact .next (smbus_keeps s (reply_keeps s _))
  | sensor _ => exact .next (smbus_keeps s (reply_keeps s _))
  | trayCap w => exact execTrayCap_runs s w
  | alertMask w => exact execAlertMask_runs s w
  | alertClear _ => exact .next (smbus_keeps s Keeps.of_parts)
  | errsLog => exact execErrsLog_runs s
  | alertResponse => exact .next (smbus_keeps s (reply_keeps s _))
  | dieLinkRetry _ _ => exact .next (Keeps.iteSelf fun _ => (desk_keeps s _).settled)
  | usb2Configured _ => exact .next (Keeps.iteSelf fun _ => desk_keeps s _)
  | idleFlit p flit fecGood => exact execIdleFlit_runs s p flit fecGood

end Sys2Proof.Machine
end
section
/-!
SUPPORT. The block as a whole: steps, the tick on an empty queue, reset, the invariant, and all that follows an event.
-/
namespace Sys2Proof.Machine

set_option Elab.async false in
/-- Settles O1: `step` takes the queue apart as the statement does. -/
theorem frontCommandRuns : Obligations.FrontCommandRuns := by
  unfold Obligations.FrontCommandRuns
  intro s c rest front
  rw [step, front]

/-- Settles O4: at reset every size is 0, nothing is asked and no lock is held. -/
theorem resetMeetsInvariant : Obligations.ResetMeetsInvariant := by
  unfold Obligations.ResetMeetsInvariant
  refine ⟨⟨Nat.zero_le 512, Nat.zero_le 1024, Nat.zero_le 65536, Nat.zero_lt_succ 511, Nat.zero_le 3⟩, fun p => ?_, Nat.zero_le 8,
    fun _ _ _ _ _ => nofun, fun n w held => ?_⟩
  · exact Nat.le_trans (Nat.le_of_eq (congrArg List.length (Tab.at_all [] p))) (Nat.zero_le 8)
  · exact absurd ((Tab.at_all none n).symm.trans held) (Option.some_ne_none w).symm

/-- Settles O3: every table starts out with one entry throughout. -/
theorem resetLeavesTableValues : Obligations.ResetLeavesTableValues := by
  unfold Obligations.ResetLeavesTableValues
  refine ⟨rfl, fun n => ?sqs, fun n => ?cqs, rfl, rfl, fun f => ?fences, fun n => Tab.at_all none n, rfl, fun b => ?boxes,
    fun b x bell => ?bells, rfl, rfl, rfl, rfl, fun p => ?ports, fun n => ?slots, rfl, rfl⟩
  case sqs => simp [State.reset]
  case cqs => simp [State.reset]
  case fences => simp [State.reset]
  case boxes => cases b <;> simp [State.reset, boxAt]
  case bells => cases b <;> simp_all [State.reset, bellAt] <;> subst bell <;> simp
  case ports => simp [State.reset]
  case slots => simp [State.reset]

/-- Settles O6: `exec_runs`, command by command. -/
theorem everyCommandRuns : Obligations.EveryCommandRuns := by
  unfold Obligations.EveryCommandRuns
  intro c s
  obtain ⟨t, run, keeps⟩ := exec_runs c s
  exact ⟨t, run, keeps.fuses, keeps.pending⟩

/-- Settles O5: an empty queue lets time pass, and every command keeps the invariant, which does not speak of the queue. -/
theorem stepKeepsInvariant : Obligations.StepKeepsInvariant := by
  unfold Obligations.StepKeepsInvariant
  intro s t inv run
  cases queue : s.pending with
  | nil =>
    rw [step, queue] at run
    obtain rfl := Host.Outcome.next.inj run
    exact (clockTick_keeps s).inv inv
  | cons c rest =>
    rw [frontCommandRuns s c rest queue] at run
    obtain ⟨u, next, keeps⟩ := exec_runs c { s with pending := rest }
    obtain rfl := Host.Outcome.next.inj (next.symm.trans run)
    exact keeps.inv inv

end Sys2Proof.Machine
end
section
/-!
SUPPORT. What `settle` leaves of TCLK, of the module state, of the messages to the fabric and of STATUS, part by part.
-/
namespace Sys2Proof.Machine

/-! ## Each part of `settle` -/

set_option Elab.async false in
theorem settle_of_running {s : State} (up : s.elec.life = .running) :
    settle s = latchStatus (settleTimer (settlePower (settleClock (settleBlock (settleHeads (flushTx s)))))) := by
  unfold settle
  rw [up]

theorem flushTx_eq (s : State) : ∃ fab sent, flushTx s = { s with fab := fab, desk := { s.desk with tx := [], out := s.desk.out ++ sent } } := by
  unfold flushTx
  split
  · next empty => exact ⟨s.fab, [], by rw [← List.isEmpty_iff.mp empty, List.append_nil]⟩
  · exact ⟨_, _, rfl⟩

theorem settleHeads_eq (s : State) :
    ∃ marks keep, settleHeads s = { s with desk := { s.desk with marks := marks, drain := s.desk.drain && keep } } := by
  unfold settleHeads markHeads
  exact ⟨_, _, rfl⟩

theorem settleBlock_eq (s : State) : ∃ since, settleBlock s = { s with desk := { s.desk with deadlockSince := since } } := ⟨_, rfl⟩

theorem settleClock_desk (s : State) : (settleClock s).desk = s.desk := by
  unfold settleClock
  split
  · split <;> rfl
  · rfl

theorem settlePower_desk (s : State) : (settlePower s).desk = s.desk := by
  unfold settlePower
  split
  · split <;> rfl
  · split <;> rfl
  · rfl

theorem settleTimer_desk (s : State) : (settleTimer s).desk = s.desk := by
  unfold settleTimer
  split <;> rfl

/-- R179: TCLK is held for the commands of fixed timing, from the first of them on. -/
theorem settleClock_hold (s : State) : (settleClock s).np.fixedHold = fixedLive s.desk ∧
    (settleClock s).np.f = if fixedLive s.desk = true ∧ s.np.fixedHold = false then 1800 else s.np.f := by
  unfold settleClock
  split
  · next fixed =>
    split
    · next held => simp [fixed, held]
    · next free => simp [fixed, free]
  · next none => simp [none]

theorem settlePower_hold (s : State) : (settlePower s).np.fixedHold = s.np.fixedHold ∧ (settlePower s).np.f = s.np.f := by
  unfold settlePower
  split
  · split <;> exact ⟨rfl, rfl⟩
  · split <;> exact ⟨rfl, rfl⟩
  · exact ⟨rfl, rfl⟩

theorem settleTimer_hold (s : State) : (settleTimer s).np.fixedHold = s.np.fixedHold ∧ (settleTimer s).np.f = s.np.f := by
  unfold settleTimer
  split <;> exact ⟨rfl, rfl⟩

/-- R329: ACTIVE while a command runs, IDLE otherwise. -/
theorem settlePower_state {s : State} (awake : s.np.state = .active ∨ s.np.state = .idle) :
    (settlePower s).np.state = if anyRunning s.desk then .active else .idle := by
  unfold settlePower
  obtain state | state := awake <;> rw [state] <;> simp only <;> split <;> simp_all

theorem settlePower_below {s : State} (active : s.np.state ≠ .active) (idle : s.np.state ≠ .idle) : settlePower s = s := by
  unfold settlePower
  split
  · exact absurd ‹_› active
  · exact absurd ‹_› idle
  · rfl

theorem latches_stay (a b : BitVec 8) : a &&& ~~~ (a ||| b) = 0 := by
  ext i hi
  simp only [BitVec.getElem_and, BitVec.getElem_not, BitVec.getElem_or, BitVec.ofNat_eq_ofNat, BitVec.getElem_zero]
  cases a[i] <;> simp

/-! ## Together -/

/-- What Front Desk has spoken and noted before TCLK and the module state follow. -/
theorem spoken_eq (s : State) : ∃ fab sent marks keep since, settleBlock (settleHeads (flushTx s)) = { s with
    fab := fab
    desk := { s.desk with tx := [], out := s.desk.out ++ sent, marks := marks, drain := s.desk.drain && keep, deadlockSince := since } } := by
  obtain ⟨fab, sent, flushed⟩ := flushTx_eq s
  obtain ⟨marks, keep, noted⟩ := settleHeads_eq (flushTx s)
  obtain ⟨since, blocked⟩ := settleBlock_eq (settleHeads (flushTx s))
  exact ⟨fab, sent, marks, keep, since, by rw [blocked, noted, flushed]⟩

theorem settle_clock {s : State} (up : s.elec.life = .running) : (settle s).np.fixedHold = fixedLive s.desk ∧
    (settle s).np.f = if fixedLive s.desk = true ∧ s.np.fixedHold = false then 1800 else s.np.f := by
  obtain ⟨fab, sent, marks, keep, since, spoken⟩ := spoken_eq s
  rw [settle_of_running up, spoken]
  exact ⟨(settleTimer_hold _).1.trans <| (settlePower_hold _).1.trans (settleClock_hold _).1,
    (settleTimer_hold _).2.trans <| (settlePower_hold _).2.trans (settleClock_hold _).2⟩

theorem settle_state_awake {s : State} (up : s.elec.life = .running) (awake : s.np.state = .active ∨ s.np.state = .idle) :
    (settle s).np.state = if anyRunning s.desk then .active else .idle := by
  obtain ⟨fab, sent, marks, keep, since, spoken⟩ := spoken_eq s
  rw [settle_of_running up, spoken]
  refine (settleTimer_state _).trans ((settlePower_state ?_).trans ?_)
  · rw [settleClock_state]
    exact awake
  · rw [settleClock_desk]
    rfl

theorem settle_state_below {s : State} (up : s.elec.life = .running) (active : s.np.state ≠ .active) (idle : s.np.state ≠ .idle) :
    (settle s).np.state = s.np.state := by
  obtain ⟨fab, sent, marks, keep, since, spoken⟩ := spoken_eq s
  rw [settle_of_running up, spoken]
  refine (settleTimer_state _).trans ?_
  rw [settlePower_below] <;> rw [settleClock_state] <;> assumption

theorem settle_desk_spoken {s : State} (up : s.elec.life = .running) : ∃ sent marks keep since, (settle s).desk =
    { s.desk with tx := [], out := s.desk.out ++ sent, marks := marks, drain := s.desk.drain && keep, deadlockSince := since } := by
  obtain ⟨fab, sent, marks, keep, since, spoken⟩ := spoken_eq s
  rw [settle_of_running up, spoken]
  exact ⟨sent, marks, keep, since, (settleTimer_desk _).trans <| (settlePower_desk _).trans (settleClock_desk _)⟩

theorem settle_tx {s : State} (up : s.elec.life = .running) : (settle s).desk.tx = [] := by
  obtain ⟨_, _, _, _, desk⟩ := settle_desk_spoken up
  rw [desk]

/-- The words on the wires stay, and more may follow. -/
theorem settle_out (s : State) : ∃ sent, (settle s).desk.out = s.desk.out ++ sent := by
  by_cases up : s.elec.life = .running
  · obtain ⟨sent, _, _, _, desk⟩ := settle_desk_spoken up
    exact ⟨sent, by rw [desk]⟩
  · exact ⟨[], by rw [settle_of_not_running s up, List.append_nil]⟩

theorem settle_drain {s : State} (h : (settle s).desk.drain = true) : s.desk.drain = true := by
  by_cases up : s.elec.life = .running
  · obtain ⟨_, _, _, _, desk⟩ := settle_desk_spoken up
    rw [desk] at h
    exact (Bool.and_eq_true_iff.mp h).1
  · rwa [settle_of_not_running s up] at h

theorem settleClock_smb (s : State) : (settleClock s).smb = s.smb := by
  unfold settleClock
  split
  · split <;> rfl
  · rfl

theorem settlePower_smb (s : State) : (settlePower s).smb = s.smb := by
  unfold settlePower
  split
  · split <;> rfl
  · split <;> rfl
  · rfl

theorem settleTimer_smb (s : State) : (settleTimer s).smb = s.smb := by
  unfold settleTimer
  split <;> rfl

/-- R410: STATUS is as last evaluated, and no latch falls. -/
theorem settle_latches {s : State} (up : s.elec.life = .running) :
    (settle s).smb.seen = statusWord (settle s) ∧ s.smb.latches &&& ~~~ (settle s).smb.latches = 0 := by
  obtain ⟨fab, sent, marks, keep, since, spoken⟩ := spoken_eq s
  rw [settle_of_running up, spoken]
  generalize before : settleTimer (settlePower (settleClock _)) = t
  have same : t.smb = s.smb := by
    rw [← before]
    exact (settleTimer_smb _).trans <| (settlePower_smb _).trans (settleClock_smb _)
  refine ⟨rfl, ?_⟩
  rw [← same]
  exact latches_stay _ _

/-- Settles O7: `settle_eq` says what may change, and each part of `settle` what becomes of its own. -/
theorem whatFollowsAnEvent : Obligations.WhatFollowsAnEvent := by
  unfold Obligations.WhatFollowsAnEvent
  intro s
  refine ⟨settle_eq s, settle_drain, settle_of_not_running s, fun up => ?_⟩
  obtain ⟨seen, latched⟩ := settle_latches up
  obtain ⟨hold, clock⟩ := settle_clock up
  exact ⟨settle_tx up, seen, latched, settle_state_awake up, settle_state_below up, hold, clock⟩

end Sys2Proof.Machine
end
section
/-!
SUPPORT. Mailboxes that are empty, messages that are taken or withdrawn (R239 to R243), and reads of locks (R254).
-/
namespace Sys2Proof.Machine

/-! ## Locks -/

set_option Elab.async false in
theorem lockValue_of_held {l : Locks} {n : Fin 64} {w : Requester} (held : l.owner.at n = some w) : lockValue l n = w.val + 1 := by
  rw [lockValue, held]

theorem lockTaken_of_held {l : Locks} {n : Fin 64} {w : Requester} (who : Requester) (held : l.owner.at n = some w) :
    lockTaken l who n = l := by
  rw [lockTaken, held]

theorem exec_lockRead_held {s : State} {who w : Requester} {n : Fin 64} (h : lockReach s who = true)
    (held : s.locks.owner.at n = some w) :
    exec (.lockRead who ⟨n, none⟩) s = .next { s with reply := .reg (BitVec.ofNat 32 (w.val + 1)) } := by
  simp only [exec, execLockRead, h, if_true, lockValue_of_held held, lockTaken_of_held who held]

theorem exec_lockRead_unreached {s : State} {who : Requester} (h : lockReach s who = false) (n : Fin 64) :
    exec (.lockRead who ⟨n, none⟩) s = .next s := congrArg Host.Outcome.next (if_neg (Bool.eq_false_iff.mp h))

theorem exec_lockRead_peer (s : State) (who : Requester) (n id : Fin 64) :
    exec (.lockRead who ⟨n, some id⟩) s = .next (if lockPeer s who id = true then settle { s with
      desk := { s.desk with tx := s.desk.tx ++ [ownMsg (envOf s) 4 2 id.val 0 (leBytes 4 (0x38000 + 8 * n.val))] }
      locks := { s.locks with asked := s.locks.asked ++ [(BitVec.ofNat 6 id.val, n)] } } else s) := rfl

/-- Settles O8: a read leaves what `lockTaken` leaves (R254); one of a peer's lock is asked for where `lockPeer` holds (R300, log
entry 28). -/
theorem lockReadTakesAFreeLock : Obligations.LockReadTakesAFreeLock := by
  unfold Obligations.LockReadTakesAFreeLock
  intro s who n
  refine ⟨fun reach => ⟨exec_lockRead_free reach, fun w held => exec_lockRead_held reach held⟩,
    fun apart => exec_lockRead_unreached apart n, fun id => ⟨fun desk awake peer => ?sent, fun noPeer => ?notServed⟩⟩
  case sent => rw [exec_lockRead_peer, if_pos (lockPeer_iff.mpr ⟨desk, awake, peer⟩)]
  case notServed =>
    have no : ¬ lockPeer s who id = true := fun h => by
      obtain ⟨desk, -, x, mem, same⟩ := lockPeer_iff.mp h
      exact noPeer.elim (fun k => k desk) fun k => k x mem same
    rw [exec_lockRead_peer, if_neg no]

/-! ## Boxes -/

theorem OnlyMail.settled {s t : State} (h : OnlyMail s t) : OnlyMail s (settle t) := h.trans (settle_only t)

theorem otherBoxes_updBox (m : Mailboxes) (b : BoxId) (f : Box → Box) : OtherBoxes m (updBox m b f) b :=
  fun x other => boxAt_updBox_ne m b x f other

/-- A word or the length written to an empty mailbox. -/
theorem writeBox_of_empty {x : Box} (empty : x.full = false) (j : Fin 17) (v : Word) :
    writeBox j v x =
      if h : j.val < 16 then { x with msg := x.msg.set j.val v } else { x with len := v.extractLsb' 0 5 } := by
  by_cases h : j.val < 16
  · have word : (fin 16 j.val).val = j.val := Nat.mod_eq_of_lt h
    simp only [writeBox, empty, h, if_true, Bool.false_eq_true, if_false, dif_pos, Tab.put, word]
  · simp only [writeBox, empty, h, Bool.false_eq_true, if_false, dif_neg, not_false_eq_true]

/-- GO on an empty mailbox. -/
theorem goBox_of_empty {x : Box} (empty : x.full = false) (now : Nat) :
    goBox now x = { x with
      seq := x.seq + 1, full := true, timeout := false, ackValid := false, collSend := false, collRecv := false
      goAt := now, inForce := max 1 (min 1000000 x.limit.toNat) } := by
  simp only [goBox, empty, Bool.false_eq_true, if_false, timeoutOf]

theorem takes_iff {v : Word} {x : Box} :
    takes v x = true ↔ v.getLsbD 31 = true ∧ x.full = true ∧ v.extractLsb' 16 8 = x.seq := by
  simp only [takes, Bool.and_eq_true, beq_iff_eq, and_assoc]

theorem ackBox_of_takes {v : Word} {x : Box} (took : takes v x = true) :
    ackBox v x = { x with full := false, ackValid := true, ack := v &&& 0x80FFFFFF#32 } := if_pos took

theorem ackBox_of_stale {v : Word} {x : Box} (stale : takes v x = false) : ackBox v x = { x with staleAck := true } :=
  if_neg (Bool.eq_false_iff.mp stale)

/-! ## The acknowledge and the doorbells -/

/-- The mailboxes with the MAIL bit of a receiver inside the module clear. -/
def mailCleared (m : Mailboxes) (id : BellId) : Mailboxes :=
  match id, bellAt m id with
  | .host _, _ => m
  | _, some x => setBell m id { x with pend := x.pend &&& ~~~ mailBit }
  | _, none => m

theorem bellAt_mailCleared_ne (m : Mailboxes) {id x : BellId} (h : x ≠ id) : bellAt (mailCleared m id) x = bellAt m x := by
  unfold mailCleared
  split
  · rfl
  · exact bellAt_setBell_ne _ _ _ _ h
  · rfl

@[simp] theorem boxAt_mailCleared (m : Mailboxes) (id : BellId) (x : BoxId) : boxAt (mailCleared m id) x = boxAt m x := by
  unfold mailCleared
  split
  · rfl
  · exact boxAt_setBell _ _ _ _
  · rfl

/-- An acknowledge that takes a message clears the receiver's MAIL and rings the sender. -/
theorem ackMail_mbx_of_takes {s : State} {b : BoxId} {v : Word} (took : takes v (boxAt s.mbx b) = true) :
    (ackMail s b v).mbx =
      (ring { s with mbx := mailCleared (updBox s.mbx b (ackBox v)) (receiverBell b) } (senderBell b) ackedBit).mbx := by
  unfold ackMail
  cases b <;> simp only [took, if_true, receiverBell, bellAt, mailCleared, peerWrite_mbx]

/-- A stale acknowledge changes its mailbox alone. -/
theorem ackMail_mbx_of_stale {s : State} {b : BoxId} {v : Word} (stale : takes v (boxAt s.mbx b) = false) :
    (ackMail s b v).mbx = updBox s.mbx b (ackBox v) := by
  unfold ackMail
  cases b <;> simp only [stale, Bool.false_eq_true, if_false, receiverBell, bellAt, peerWrite_mbx]

theorem bellAt_ackMail_sender {s : State} {b : BoxId} {v : Word} {x : Bell} (took : takes v (boxAt s.mbx b) = true)
    (bell : bellAt s.mbx (senderBell b) = some x) :
    bellAt (ackMail s b v).mbx (senderBell b) = some { x with pend := x.pend ||| ackedBit } := by
  rw [ackMail_mbx_of_takes took]
  refine bellAt_ring_same _ _ _ _ ?_
  rw [bellAt_mailCleared_ne _ (receiverBell_ne b).symm, bellAt_updBox, bell]

theorem bellAt_ackMail_ne (s : State) (b : BoxId) (v : Word) {x : BellId} (sender : x ≠ senderBell b) (receiver : x ≠ receiverBell b) :
    bellAt (ackMail s b v).mbx x = bellAt s.mbx x := by
  cases took : takes v (boxAt s.mbx b) with
  | true => rw [ackMail_mbx_of_takes took, bellAt_ring_ne _ _ _ _ sender, bellAt_mailCleared_ne _ receiver, bellAt_updBox]
  | false => rw [ackMail_mbx_of_stale took, bellAt_updBox]

/-! ## Withdrawal -/

/-- A sensor request that gets no answer leaves the list of those under way, and nothing else changes. -/
theorem dropAsk_eq (m : Mailboxes) (b : BoxId) : ∃ asks, dropAsk m b = { m with asks := asks } := by
  by_cases sensor : (match b with
    | .fdToNp => ((boxAt m b).msg.at 0).extractLsb' 0 8 == 1#8
    | .npToFd => ((boxAt m b).msg.at 0).extractLsb' 0 8 == 0x81#8
    | _ => false) = true
  · exact ⟨_, if_pos sensor⟩
  · exact ⟨m.asks, if_neg sensor⟩

/-- The mailboxes as a withdrawal leaves them before it rings the sender. -/
def withdrawn (m : Mailboxes) (b : BoxId) : Mailboxes :=
  match b with
  | .f2h p => { dropAsk (updBox m b withdrawBox) b with dropped := m.dropped.upd p fun n => satAdd 32 n 1 }
  | _ => dropAsk (updBox m b withdrawBox) b

theorem withdrawMail_mbx (s : State) (b : BoxId) :
    (withdrawMail s b).mbx = (ring { s with mbx := withdrawn s.mbx b } (senderBell b) ackedBit).mbx := by
  unfold withdrawMail
  cases b <;> rfl

theorem withdrawn_eq (m : Mailboxes) (b : BoxId) :
    ∃ asks dropped, withdrawn m b = { updBox m b withdrawBox with asks := asks, dropped := dropped } := by
  obtain ⟨asks, same⟩ := dropAsk_eq (updBox m b withdrawBox) b
  cases b with
  | f2h p => exact ⟨asks, _, congrArg (fun n : Mailboxes => { n with dropped := m.dropped.upd p fun k => satAdd 32 k 1 }) same⟩
  | _ => exact ⟨asks, _, same⟩

theorem boxAt_withdrawn (m : Mailboxes) (b x : BoxId) : boxAt (withdrawn m b) x = boxAt (updBox m b withdrawBox) x := by
  obtain ⟨asks, dropped, same⟩ := withdrawn_eq m b
  rw [same]
  cases x <;> rfl

theorem bellAt_withdrawn (m : Mailboxes) (b : BoxId) (x : BellId) : bellAt (withdrawn m b) x = bellAt m x := by
  obtain ⟨asks, dropped, same⟩ := withdrawn_eq m b
  rw [same, ← bellAt_updBox m b withdrawBox x]
  cases x <;> rfl

theorem ring_dropped (s : State) (id : BellId) (v : Word) : (ring s id v).mbx.dropped = s.mbx.dropped := by
  rw [ring_mbx]
  cases id <;> rfl

theorem withdrawn_dropped (m : Mailboxes) (p : Fin 4) :
    (withdrawn m (.f2h p)).dropped.at p = min 0xFFFFFFFF (m.dropped.at p + 1) := Tab.at_upd_same _ _ _

/-! ## The events -/

theorem exec_mailboxGo_down {s : State} {b : BoxId} (down : senderUp s b = false) : exec (.mailboxGo b) s = .next s :=
  congrArg Host.Outcome.next (if_neg (Bool.eq_false_iff.mp down))

theorem exec_mailboxMsgWrite_word_down {s : State} {b : BoxId} (down : senderUp s b = false) (j : Fin 17) (v : Word) :
    exec (.mailboxMsgWrite b (.word j) v) s = .next s := congrArg Host.Outcome.next (if_neg (Bool.eq_false_iff.mp down))

theorem writeMail_only (s : State) (b : BoxId) (j : Fin 17) (v : Word) : OnlyMail s (writeMail s b j v) :=
  (OnlyMail.mbx s _).trans (carry_only _ b _ v)

/-- A register of a mailbox is written by the party to whom it belongs: the box changes alone. -/
theorem exec_mailboxMsgWrite_register {s : State} {b : BoxId} {r : MailReg} {v : Word} {f : Box → Box} (up : mailRegUp s b r = true)
    (reg : writeMailReg s b r v = { s with mbx := updBox s.mbx b f }) :
    ∃ t, exec (.mailboxMsgWrite b r v) s = .next t ∧ boxAt t.mbx b = f (boxAt s.mbx b) ∧ OtherBoxes s.mbx t.mbx b ∧
      (∀ x, bellAt t.mbx x = bellAt s.mbx x) ∧ OnlyMail s t := by
  refine ⟨_, congrArg Host.Outcome.next (if_pos up), ?_⟩
  rw [reg, settle_mbx]
  exact ⟨boxAt_updBox_same _ _ _, otherBoxes_updBox _ _ _, bellAt_updBox _ _ _, (OnlyMail.mbx s _).settled⟩

/-- Settles O10: GO, a word and each other register leave in an empty mailbox what `goBox_of_empty` and `writeBox_of_empty` say. -/
theorem messagesAreWrittenAndSent : Obligations.MessagesAreWrittenAndSent := by
  unfold Obligations.MessagesAreWrittenAndSent
  refine ⟨fun s b => ⟨fun up empty => ⟨_, exec_mailboxGo_up up, ?went, fun x bell => ?mail, fun x other => ?boxes, fun x other _ => ?bells,
      (goMail_only s b).settled⟩, exec_mailboxGo_down⟩,
    fun s b j v => ⟨fun up empty => ⟨_, exec_mailboxMsgWrite_word_up up j v, ?word, fun x other => ?words, fun x => ?silent,
      (writeMail_only s b j v).settled⟩, fun down => exec_mailboxMsgWrite_word_down down j v⟩,
    fun s b v => ⟨fun up => ⟨exec_mailboxMsgWrite_register (r := .timeout) up rfl, exec_mailboxMsgWrite_register (r := .sendStatus) up rfl⟩,
      fun up => exec_mailboxMsgWrite_register (r := .recvStatus) up rfl⟩⟩
  case went => rw [settle_mbx, boxAt_goMail_same, goBox_of_empty empty]
  case mail => rw [settle_mbx, bellAt_goMail_same _ _ _ bell]; rfl
  case boxes => rw [settle_mbx, boxAt_goMail_ne _ _ _ other]
  case bells => rw [settle_mbx, bellAt_goMail_ne _ _ _ other]
  case word => rw [settle_mbx, writeMail_mbx, boxAt_updBox_same, writeBox_of_empty empty]
  case words => rw [settle_mbx, writeMail_mbx, boxAt_updBox_ne _ _ _ _ other]
  case silent => rw [settle_mbx, writeMail_mbx, bellAt_updBox]

/-- Whether a mailbox times out now. -/
theorem exec_mailboxTimeout_eq {s : State} {b : BoxId} (up : Running s) (full : (boxAt s.mbx b).full = true) :
    exec (.mailboxTimeout b) s = .next
      (if (boxAt s.mbx b).goAt + 1000 * (boxAt s.mbx b).inForce ≤ s.desk.now then settle (withdrawMail s b) else s) := by
  have running : (s.elec.life == .running) = true := beq_iff_eq.mpr up
  simp only [exec, execMailboxTimeout, running, timeUp, full, Bool.true_and, decide_eq_true_eq]

/-- Settles O12: an acknowledge that `takes` the message clears FULL and rings the sender, another is stale; the time of `timeUp`
withdraws. -/
theorem messageIsTakenOrWithdrawn : Obligations.MessageIsTakenOrWithdrawn := by
  unfold Obligations.MessageIsTakenOrWithdrawn
  intro s b
  refine ⟨fun v up => ⟨fun valid full same => ?taken, fun no => ?stale⟩, fun up full => ⟨fun late => ?withdrawn, fun early => ?early⟩⟩
  case taken =>
    have took : takes v (boxAt s.mbx b) = true := takes_iff.mpr ⟨valid, full, same⟩
    refine ⟨_, exec_mailboxAck_up up v, ?box, fun x bell => ?acked, fun x other => ?boxes, fun x sender receiver => ?bells,
      (ackMail_only s b v).settled⟩
    case box => rw [settle_mbx, boxAt_ackMail, boxAt_updBox_same, ackBox_of_takes took]
    case acked => rw [settle_mbx, bellAt_ackMail_sender took bell]; rfl
    case boxes => rw [settle_mbx, boxAt_ackMail, boxAt_updBox_ne _ _ _ _ other]
    case bells => rw [settle_mbx, bellAt_ackMail_ne s b v sender receiver]
  case stale =>
    have stale : takes v (boxAt s.mbx b) = false := by
      refine Bool.eq_false_iff.mpr fun took => ?_
      obtain ⟨valid, full, same⟩ := takes_iff.mp took
      obtain h | h | h := no
      · exact absurd (h.symm.trans valid) Bool.false_ne_true
      · exact absurd (h.symm.trans full) Bool.false_ne_true
      · exact h same
    refine ⟨_, exec_mailboxAck_up up v, ?box, fun x other => ?boxes, fun x => ?bells, (ackMail_only s b v).settled⟩
    case box => rw [settle_mbx, boxAt_ackMail, boxAt_updBox_same, ackBox_of_stale stale]
    case boxes => rw [settle_mbx, boxAt_ackMail, boxAt_updBox_ne _ _ _ _ other]
    case bells => rw [settle_mbx, ackMail_mbx_of_stale stale, bellAt_updBox]
  case withdrawn =>
    refine ⟨_, (exec_mailboxTimeout_eq up full).trans (congrArg Host.Outcome.next (if_pos late)), ?box, fun x bell => ?acked,
      fun p port => ?dropped, fun x other => ?boxes, fun x other _ => ?bells, (withdrawMail_only s b).settled⟩
    case box => rw [settle_mbx, withdrawMail_mbx, boxAt_ring, boxAt_withdrawn, boxAt_updBox_same]; rfl
    case acked =>
      rw [settle_mbx, withdrawMail_mbx]
      exact bellAt_ring_same _ _ _ _ ((bellAt_withdrawn _ _ _).trans bell)
    case dropped =>
      subst port
      rw [settle_mbx, withdrawMail_mbx, ring_dropped, withdrawn_dropped]
    case boxes => rw [settle_mbx, withdrawMail_mbx, boxAt_ring, boxAt_withdrawn, boxAt_updBox_ne _ _ _ _ other]
    case bells => rw [settle_mbx, withdrawMail_mbx, bellAt_ring_ne _ _ _ _ other, bellAt_withdrawn]
  case early => rw [exec_mailboxTimeout_eq up full, if_neg (Nat.not_le.mpr early)]

end Sys2Proof.Machine
end
section
/-!
SUPPORT. Messages of queues as they are sent (R247), host messages as Front Desk serves them (R249, R250), doorbells (R245, R246), and
the tick on an empty queue (R209, R246).
-/
namespace Sys2Proof.Machine

/-! ## Words that travel to a peer -/

/-- Nothing changes but the messages that wait for the fabric. -/
def Carries (s t : State) : Prop := ∃ tx, t = { s with desk := { s.desk with tx := tx } }

set_option Elab.async false in
theorem Carries.refl (s : State) : Carries s s := ⟨s.desk.tx, rfl⟩

theorem Carries.trans {s t u : State} (h : Carries s t) (k : Carries t u) : Carries s u := by
  obtain ⟨a, rfl⟩ := h
  obtain ⟨b, rfl⟩ := k
  exact ⟨b, rfl⟩

theorem peerWrite_carries (s : State) (p : Fin 16) (off : Nat) (v : Word) : Carries s (peerWrite s p off v) := by
  unfold peerWrite
  split
  · exact Carries.refl s
  · exact ⟨_, rfl⟩

theorem carry_carries (s : State) (b : BoxId) (off : Nat) (v : Word) : Carries s (carry s b off v) := by
  unfold carry
  split
  · exact peerWrite_carries s _ off v
  · exact Carries.refl s

theorem Carries.foldl {α : Type} {f : State → α → State} (h : ∀ s a, Carries s (f s a)) (l : List α) (s : State) :
    Carries s (l.foldl f s) := by
  induction l generalizing s with
  | nil => exact Carries.refl s
  | cons a l ih => exact (h s a).trans (ih (f s a))

/-! ## A queued message is sent -/

theorem queueAt_setQueue_same {m : Mailboxes} {b : BoxId} {x : Mail} {q : List Mail} (has : queueAt m b = x :: q) (l : List Mail) :
    queueAt (setQueue m b l) b = l := by
  cases b with
  | h2f p => exact absurd has (List.cons_ne_nil x q).symm
  | peerToFd p => exact absurd has (List.cons_ne_nil x q).symm
  | f2h p => exact Tab.at_put_same _ p l
  | fdToPeer p => exact Tab.at_put_same _ p l
  | fdToNp => rfl
  | npToFd => rfl

/-- The head of a queue is loaded into its mailbox. -/
def mailLoaded (s : State) (b : BoxId) (m : Mail) (rest : List Mail) : State :=
  { s with mbx := updBox (setQueue s.mbx b rest) b (loadBox m) }

/-- The words of a mailbox to a peer, and their number, travel to it. -/
def wordsCarried (s : State) (b : BoxId) : State :=
  carry (((List.range 8).map (fin 17)).foldl (fun x i => carry x b (4 * i.val) ((boxAt s.mbx b).msg.at (fin 16 i.val))) s) b 0x40 8

theorem wordsCarried_carries (s : State) (b : BoxId) : Carries s (wordsCarried s b) :=
  (Carries.foldl (fun x _ => carry_carries x b _ _) _ s).trans (carry_carries _ b 0x40 8)

/-- The message at the head of a queue is loaded and goes. -/
theorem sendNext_of_ready {s : State} {b : BoxId} {m : Mail} {rest : List Mail} (has : queueAt s.mbx b = m :: rest)
    (empty : (boxAt s.mbx b).full = false) (free : waitsForLock s.locks b m = false) :
    sendNext s b = goMail (wordsCarried (mailLoaded s b m rest) b) b := by
  unfold sendNext
  rw [has]
  simp only [empty, free, Bool.or_false, Bool.false_eq_true, if_false]
  rfl

theorem sendNext_of_idle {s : State} {b : BoxId} (h : queueAt s.mbx b = [] ∨ (boxAt s.mbx b).full = true) : sendNext s b = s := by
  unfold sendNext
  split
  · rfl
  · next m rest has =>
    obtain none | full := h
    · exact absurd (has.symm.trans none) (List.cons_ne_nil m rest)
    · rw [full, Bool.true_or, if_pos rfl]

theorem exec_f2hSend_up {s : State} {b : BoxId} (up : senderUp s b = true) : exec (.f2hSend b) s = .next (settle (sendNext s b)) :=
  congrArg Host.Outcome.next (if_pos up)

/-- The eight words of a loaded message (R249). -/
theorem loadBox_word (m : Mail) (x : Box) (i : Fin 16) (first : 1 ≤ i.val) (last : i.val < 8) :
    (loadBox m x).msg.at i = m.words.getD (i.val - 1) 0 := by
  have ne : i.val ≠ 0 := by omega
  simp only [loadBox, Tab.at_gen, ne, if_false, last, if_true]

theorem loadBox_head (m : Mail) (x : Box) : (loadBox m x).msg.at 0 = BitVec.ofNat 32 (m.type + m.tag * 65536) := by
  simp only [loadBox, Tab.at_gen, Fin.val_zero, if_true]

theorem loadBox_full (m : Mail) (x : Box) : (loadBox m x).full = x.full := by
  rw [loadBox]

theorem loadBox_seq (m : Mail) (x : Box) : (loadBox m x).seq = x.seq := by
  rw [loadBox]

/-! ## Host messages that Front Desk takes -/

/-- The word with which a receiver takes a message: ACK_VALID, the SEQ and the code. -/
def takeWord (code : Nat) (seq : BitVec 8) : Word := BitVec.ofNat 32 (code + seq.toNat * 2 ^ 16 + 2 ^ 31)

theorem takeWord_toNat {code : Nat} (small : code < 65536) (seq : BitVec 8) :
    (takeWord code seq).toNat = code + seq.toNat * 65536 + 2147483648 := by
  have := seq.isLt
  rw [takeWord, BitVec.toNat_ofNat]
  exact Nat.mod_eq_of_lt (by omega)

theorem takeWord_append {code : Nat} (small : code < 65536) (seq : BitVec 8) :
    takeWord code seq = (0x80#8 ++ seq) ++ BitVec.ofNat 16 code := by
  have := seq.isLt
  refine BitVec.eq_of_toNat_eq ?_
  rw [takeWord_toNat small, BitVec.toNat_append, BitVec.toNat_append, BitVec.toNat_ofNat, BitVec.toNat_ofNat,
    Nat.mod_eq_of_lt small, ← Nat.shiftLeft_add_eq_or_of_lt (by omega), ← Nat.shiftLeft_add_eq_or_of_lt (by omega),
    Nat.shiftLeft_eq, Nat.shiftLeft_eq]
  omega

theorem takeWord_takes {code : Nat} (small : code < 65536) {x : Box} (full : x.full = true) : takes (takeWord code x.seq) x = true := by
  have := x.seq.isLt
  refine takes_iff.mpr ⟨?_, full, BitVec.eq_of_toNat_eq ?_⟩
  · rw [BitVec.getLsbD, takeWord_toNat small, Nat.testBit_eq_decide_div_mod_eq, decide_eq_true_eq]
    omega
  · rw [BitVec.extractLsb'_toNat, takeWord_toNat small, Nat.shiftRight_eq_div_pow]
    omega

theorem takeWord_mask {code : Nat} (small : code < 65536) (seq : BitVec 8) : takeWord code seq &&& 0x80FFFFFF#32 = takeWord code seq := by
  have mask : 0x80FFFFFF#32 = (0x80#8 ++ 0xFF#8) ++ 0xFFFF#16 := rfl
  rw [takeWord_append small, mask, BitVec.and_append, BitVec.and_append]
  have byte : seq &&& 0xFF#8 = seq := BitVec.and_allOnes
  have half : BitVec.ofNat 16 code &&& 0xFFFF#16 = BitVec.ofNat 16 code := BitVec.and_allOnes
  rw [byte, half]
  rfl

theorem takeMail_eq (s : State) (b : BoxId) (code : Nat) : takeMail s b code = ackMail s b (takeWord code (boxAt s.mbx b).seq) := rfl

theorem takeMail_only (s : State) (b : BoxId) (code : Nat) : OnlyMail s (takeMail s b code) := by
  rw [takeMail_eq]
  exact ackMail_only s b _

/-- A message that Front Desk takes with a code. -/
theorem boxAt_takeMail {s : State} {b : BoxId} {code : Nat} (small : code < 65536) (full : (boxAt s.mbx b).full = true) :
    boxAt (takeMail s b code).mbx b =
      { boxAt s.mbx b with full := false, ackValid := true, ack := takeWord code (boxAt s.mbx b).seq } := by
  rw [takeMail_eq, boxAt_ackMail, boxAt_updBox_same, ackBox_of_takes (takeWord_takes small full), takeWord_mask small]

theorem boxAt_takeMail_ne (s : State) {b x : BoxId} (code : Nat) (h : x ≠ b) : boxAt (takeMail s b code).mbx x = boxAt s.mbx x := by
  rw [takeMail_eq, boxAt_ackMail, boxAt_updBox_ne _ _ _ _ h]

/-- What waits to be sent, and the sensor requests under way. -/
def postsOf (m : Mailboxes) : Tab 4 (List Mail) × List Mail × List (Nat × Fin 4 × Nat) × Nat :=
  (m.f2hQueue, m.fdNpQueue, m.asks, m.nextAsk)

theorem postsOf_updBox (m : Mailboxes) (b : BoxId) (f : Box → Box) : postsOf (updBox m b f) = postsOf m := by
  cases b <;> rfl

theorem postsOf_setBell (m : Mailboxes) (b : BellId) (x : Bell) : postsOf (setBell m b x) = postsOf m := by
  cases b <;> rfl

theorem postsOf_mailCleared (m : Mailboxes) (id : BellId) : postsOf (mailCleared m id) = postsOf m := by
  unfold mailCleared
  split
  · rfl
  · exact postsOf_setBell _ _ _
  · rfl

theorem postsOf_ring (s : State) (id : BellId) (v : Word) : postsOf (ring s id v).mbx = postsOf s.mbx := by
  rw [ring_mbx]
  split
  · rfl
  · exact postsOf_setBell _ _ _

theorem postsOf_ackMail (s : State) (b : BoxId) (v : Word) : postsOf (ackMail s b v).mbx = postsOf s.mbx := by
  cases took : takes v (boxAt s.mbx b) with
  | true => rw [ackMail_mbx_of_takes took, postsOf_ring, postsOf_mailCleared, postsOf_updBox]
  | false => rw [ackMail_mbx_of_stale took, postsOf_updBox]

theorem takeMail_posts (s : State) (b : BoxId) (code : Nat) : (takeMail s b code).mbx.f2hQueue = s.mbx.f2hQueue ∧
    (takeMail s b code).mbx.fdNpQueue = s.mbx.fdNpQueue ∧ (takeMail s b code).mbx.asks = s.mbx.asks ∧
    (takeMail s b code).mbx.nextAsk = s.mbx.nextAsk := by
  rw [takeMail_eq]
  have same := postsOf_ackMail s b (takeWord code (boxAt s.mbx b).seq)
  simp only [postsOf, Prod.mk.injEq] at same
  exact same

/-- Front Desk's question to Night Porter joins its queue. -/
theorem askPorter_mbx (s : State) (p : Fin 4) (tag channel : Nat) : (askPorter s p tag channel).mbx = { s.mbx with
    asks := s.mbx.asks ++ [(s.mbx.nextAsk, p, tag)], nextAsk := (s.mbx.nextAsk + 1) % 65536
    fdNpQueue := s.mbx.fdNpQueue ++ [⟨1, s.mbx.nextAsk, [BitVec.ofNat 32 channel]⟩] } := rfl

theorem boxAt_askPorter (s : State) (p : Fin 4) (tag channel : Nat) (x : BoxId) :
    boxAt (askPorter s p tag channel).mbx x = boxAt s.mbx x := by
  rw [askPorter_mbx]
  cases x <;> rfl

theorem askPorter_only (s : State) (p : Fin 4) (tag channel : Nat) : OnlyMail s (askPorter s p tag channel) := OnlyMail.mbx s _

theorem hostMail_of {s : State} {p : Fin 4} {type : Nat} (awake : Awake s) (there : portPresent s.fuses.grade p = true)
    (full : (s.mbx.h2f.at p).full = true) (is : mailType (s.mbx.h2f.at p) = type) : hostMail s p type = some (s.mbx.h2f.at p) := by
  simp only [hostMail, deskAwake_iff.mpr awake, there, full, is, Bool.and_self, beq_self_eq_true, if_true]

/-- The reserved words of a PING (Table 10.6). -/
theorem reserved_iff (x : Box) : ((List.range 7).all fun i => x.msg.at (fin 16 (i + 1)) == 0) = true ↔
    ∀ i : Fin 16, 1 ≤ i.val → i.val < 8 → x.msg.at i = 0 := by
  simp only [List.all_eq_true, List.mem_range, beq_iff_eq]
  refine ⟨fun h i low high => ?_, fun h i small => ?_⟩
  · have word : fin 16 (i.val - 1 + 1) = i := Fin.ext ((Nat.mod_eq_of_lt (by omega)).trans (by omega))
    exact word ▸ h (i.val - 1) (by omega)
  · have word : (fin 16 (i + 1)).val = i + 1 := Nat.mod_eq_of_lt (by omega)
    exact h _ (by omega) (by omega)

theorem mailForm_of {x : Box} (len : lenOf x.len = 8) (flags : bits (x.msg.at 0).toNat 8 8 = 0) : mailForm x = true := by
  simp only [mailForm, len, flags, beq_self_eq_true, Bool.and_self]

theorem exec_ping_of {s : State} {p : Fin 4} {x : Box} (mail : hostMail s p 1 = some x) (form : mailForm x = true) :
    exec (.ping p) s = .next (settle (takeMail s (.h2f p) (if ∀ i : Fin 16, 1 ≤ i.val → i.val < 8 → x.msg.at i = 0 then 0 else 2))) := by
  simp only [exec, execPing, mail, form, Bool.true_and, reserved_iff]

theorem exec_sensorRead_of {s : State} {p : Fin 4} {x : Box} (mail : hostMail s p 2 = some x) (form : mailForm x = true)
    (channel : (x.msg.at 1).toNat < 128) :
    exec (.sensorRead p) s = .next (if 8 ≤ repliesDue s.mbx p then settle (takeMail s (.h2f p) 3)
      else settle (askPorter (takeMail s (.h2f p) 0) p (mailTag x) (mailWord x 1))) := by
  have ok : (!mailForm x || decide (128 ≤ mailWord x 1)) = false := by
    have low : decide (128 ≤ mailWord x 1) = false := decide_eq_false (Nat.not_le.mpr channel)
    rw [form, low]
    rfl
  simp only [exec, execSensorRead, mail, ok, Bool.false_eq_true, if_false]

theorem boxAt_h2f (m : Mailboxes) (p : Fin 4) : boxAt m (.h2f p) = m.h2f.at p := rfl

/-- A PING is taken with OK, or BAD_ARGUMENT. -/
theorem ping_taken {s : State} {p : Fin 4} {code : Nat} (small : code < 65536) (full : (s.mbx.h2f.at p).full = true) :
    (settle (takeMail s (.h2f p) code)).mbx.h2f.at p =
      { s.mbx.h2f.at p with full := false, ackValid := true, ack := takeWord code (s.mbx.h2f.at p).seq } ∧
    OtherBoxes s.mbx (settle (takeMail s (.h2f p) code)).mbx (.h2f p) ∧ OnlyMail s (settle (takeMail s (.h2f p) code)) := by
  rw [settle_mbx]
  simp only [← boxAt_h2f] at full ⊢
  exact ⟨boxAt_takeMail small full, fun x other => boxAt_takeMail_ne s code other, (takeMail_only s (.h2f p) code).settled⟩

/-- A SENSOR_READ is taken with OK, and Night Porter is asked. -/
theorem sensor_asked {s : State} {p : Fin 4} {tag channel : Nat} (full : (s.mbx.h2f.at p).full = true) :
    (settle (askPorter (takeMail s (.h2f p) 0) p tag channel)).mbx.h2f.at p =
      { s.mbx.h2f.at p with full := false, ackValid := true, ack := takeWord 0 (s.mbx.h2f.at p).seq } ∧
    OtherBoxes s.mbx (settle (askPorter (takeMail s (.h2f p) 0) p tag channel)).mbx (.h2f p) ∧
    (settle (askPorter (takeMail s (.h2f p) 0) p tag channel)).mbx.asks = s.mbx.asks ++ [(s.mbx.nextAsk, p, tag)] ∧
    (settle (askPorter (takeMail s (.h2f p) 0) p tag channel)).mbx.fdNpQueue =
      s.mbx.fdNpQueue ++ [⟨1, s.mbx.nextAsk, [BitVec.ofNat 32 channel]⟩] ∧
    OnlyMail s (settle (askPorter (takeMail s (.h2f p) 0) p tag channel)) := by
  obtain ⟨-, posts, asks, next⟩ := takeMail_posts s (.h2f p) 0
  rw [settle_mbx]
  simp only [← boxAt_h2f] at full ⊢
  refine ⟨?box, fun x other => ?boxes, ?asks, ?posts, ((takeMail_only s (.h2f p) 0).trans (askPorter_only _ p tag channel)).settled⟩
  case box => rw [boxAt_askPorter, boxAt_takeMail (by decide) full]
  case boxes => rw [boxAt_askPorter, boxAt_takeMail_ne s 0 other]
  case asks => rw [askPorter_mbx, asks, next]
  case posts => rw [askPorter_mbx, posts, next]

/-- The message sent, with what the box, the queue and the doorbell are left as. -/
theorem sendNext_sent {s : State} {b : BoxId} {m : Mail} {rest : List Mail} (has : queueAt s.mbx b = m :: rest)
    (empty : (boxAt s.mbx b).full = false) (free : waitsForLock s.locks b m = false) :
    queueAt (sendNext s b).mbx b = rest ∧
    boxAt (sendNext s b).mbx b = goBox s.desk.now (loadBox m (boxAt s.mbx b)) ∧
    (∀ x, bellAt s.mbx (receiverBell b) = some x →
      bellAt (sendNext s b).mbx (receiverBell b) = some { x with pend := x.pend ||| mailBit }) ∧
    OtherBoxes s.mbx (sendNext s b).mbx b ∧ OnlyMail s (sendNext s b) := by
  obtain ⟨tx, carried⟩ := wordsCarried_carries (mailLoaded s b m rest) b
  rw [sendNext_of_ready has empty free, carried]
  refine ⟨?queue, ?box, fun x bell => bellAt_goMail_same _ b x ?bell, fun x other => ?boxes, ?only⟩
  case queue => rw [queueAt_goMail, mailLoaded, queueAt_updBox, queueAt_setQueue_same has]
  case box => rw [boxAt_goMail_same, mailLoaded, boxAt_updBox_same, boxAt_setQueue]
  case bell => rw [mailLoaded, bellAt_updBox, bellAt_setQueue, bell]
  case boxes => rw [boxAt_goMail_ne _ b x other, mailLoaded, boxAt_updBox_ne _ _ _ _ other, boxAt_setQueue]
  case only => exact (OnlyMail.mbx s _).trans ((OnlyMail.desk _ _ ⟨rfl, fun _ => rfl⟩).trans (goMail_only _ b))

/-- Settles O13: `sendNext_sent` for the queues; `exec_ping_of` and `exec_sensorRead_of` say with which code a host message is taken. -/
theorem hostMessagesAreServedAndSent : Obligations.HostMessagesAreServedAndSent := by
  unfold Obligations.HostMessagesAreServedAndSent
  refine ⟨fun s b up => ⟨fun m rest has empty free => ?sent, fun idle => ?idle⟩,
    fun s p awake there full len flags => ⟨fun is => ?ping, fun is channel => ?sensor⟩⟩
  case sent =>
    obtain ⟨queue, box, bell, boxes, only⟩ := sendNext_sent has empty free
    rw [goBox_of_empty ((loadBox_full m _).trans empty)] at box
    refine ⟨_, exec_f2hSend_up up, ?_⟩
    rw [settle_mbx, box]
    exact ⟨queue, rfl, rfl, congrArg (· + 1) (loadBox_seq m _), rfl, rfl, rfl, loadBox_head m _, loadBox_word m _, bell, boxes, only.settled⟩
  case idle => rw [exec_f2hSend_up up, sendNext_of_idle idle]
  case ping =>
    refine ⟨_, exec_ping_of (hostMail_of awake there full is) (mailForm_of len flags), ?_⟩
    obtain ⟨box, boxes, only⟩ := ping_taken (code := if ∀ i : Fin 16, 1 ≤ i.val → i.val < 8 → (s.mbx.h2f.at p).msg.at i = 0 then 0 else 2)
      (by split <;> decide) full
    rw [takeWord] at box
    refine ⟨box, boxes, ?_, only⟩
    rw [settle_mbx]
    exact (takeMail_posts s _ _).1
  case sensor =>
    have run := exec_sensorRead_of (hostMail_of awake there full is) (mailForm_of len flags) channel
    by_cases busy : 8 ≤ repliesDue s.mbx p
    · rw [if_pos busy] at run ⊢
      obtain ⟨box, boxes, only⟩ := ping_taken (code := 3) (by decide) full
      obtain ⟨-, posts, asks, -⟩ := takeMail_posts s (.h2f p) 3
      rw [takeWord] at box
      refine ⟨_, run, box, boxes, fun room => absurd busy (Nat.not_le.mpr room), fun _ => ?_, only⟩
      rw [settle_mbx]
      exact ⟨asks, posts⟩
    · rw [if_neg busy] at run ⊢
      obtain ⟨box, boxes, asks, posts, only⟩ := sensor_asked full (channel := mailWord (s.mbx.h2f.at p) 1)
      have word : BitVec.ofNat 32 (mailWord (s.mbx.h2f.at p) 1) = (s.mbx.h2f.at p).msg.at 1 := BitVec.eq_of_toNat_eq (by simp [mailWord])
      rw [word] at posts
      rw [takeWord] at box
      exact ⟨_, run, box, boxes, fun _ => ⟨asks, posts⟩, fun room => absurd room busy, only⟩

end Sys2Proof.Machine
end
section
/-!
SUPPORT. Doorbells as they are set, masked and cleared (R245, R246, R251), and the tick on an empty queue (R209, R246).
-/
namespace Sys2Proof.Machine

/-! ## Doorbells -/

set_option Elab.async false in
theorem running_of_ownReach {s : State} {p : Fin 4} (h : ownReach s p = true) : s.elec.life = .running := by
  simp only [ownReach, modReach, Bool.and_eq_true, beq_iff_eq] at h
  exact h.1.1.1.1

theorem running_of_peerReach {s : State} {p : Fin 16} (h : peerReach s p = true) : s.elec.life = .running := by
  simp only [peerReach, Bool.and_eq_true, beq_iff_eq] at h
  exact h.1

/-- A wake event below IDLE begins a wake, or finds one under way (R328). -/
theorem wake_waking (code : BitVec 4) {s : State} (up : s.elec.life = .running) (active : s.np.state ≠ .active)
    (idle : s.np.state ≠ .idle) : (wake code s).np.waking = true := by
  have running : (s.elec.life != .running) = false := by rw [up]; rfl
  have below : (s.np.state == .active || s.np.state == .idle) = false := by
    simp only [Bool.or_eq_false_iff, beq_eq_false_iff_ne]
    exact ⟨active, idle⟩
  simp only [wake, running, below, Bool.false_eq_true, if_false]
  split
  · assumption
  · rfl

theorem ring_np (s : State) (id : BellId) (v : Word) : (ring s id v).np = s.np := by
  unfold ring
  split
  · rfl
  · simp only
    split
    · rfl
    · rw [notify_eq]

theorem ring_elec (s : State) (id : BellId) (v : Word) : (ring s id v).elec = s.elec := by
  rw [(ring_only s id v).1]

/-- What a set register does to a doorbell: its bits join, and nothing else changes but notifications and a wake. -/
def Rung (s t : State) (b : BellId) (x : Bell) (v : Word) : Prop :=
  bellAt t.mbx b = some { x with pend := x.pend ||| bellBits v } ∧ OtherBells s.mbx t.mbx b b ∧
  (∀ y, boxAt t.mbx y = boxAt s.mbx y) ∧ OnlyMail s t

theorem ring_rung {s : State} {b : BellId} {x : Bell} (bell : bellAt s.mbx b = some x) (v : Word) : Rung s (ring s b (bellBits v)) b x v :=
  ⟨bellAt_ring_same s b _ x bell, fun _ other _ => bellAt_ring_ne s b _ _ other, boxAt_ring s b _, ring_only s b _⟩

theorem Rung.waked {s t : State} {b : BellId} {x : Bell} {v : Word} (h : Rung s t b x v) (code : BitVec 4) :
    Rung s (wake code t) b x v := by
  obtain ⟨bell, bells, boxes, only⟩ := h
  rw [Rung, wake_mbx]
  exact ⟨bell, bells, boxes, only.trans (wake_only code t)⟩

theorem Rung.settled {s t : State} {b : BellId} {x : Bell} {v : Word} (h : Rung s t b x v) : Rung s (settle t) b x v := by
  obtain ⟨bell, bells, boxes, only⟩ := h
  rw [Rung, settle_mbx]
  exact ⟨bell, bells, boxes, only.settled⟩

/-- A doorbell of Front Desk that is rung from outside wakes the module, if it is rung at all (R245, R327). -/
theorem outsideRing_rung {s : State} {b : BellId} {x : Bell} (bell : bellAt s.mbx b = some x) (v : Word) (up : s.elec.life = .running) :
    Rung s (if bellBits v = 0 then s else wake 2 (ring s b (bellBits v))) b x v ∧
    (bellBits v ≠ 0 → s.np.state ≠ .active → s.np.state ≠ .idle →
      (if bellBits v = 0 then s else wake 2 (ring s b (bellBits v))).np.waking = true) := by
  by_cases none : bellBits v = 0
  · rw [if_pos none]
    refine ⟨⟨?_, fun _ _ _ => rfl, fun _ => rfl, OnlyMail.refl s⟩, fun some => absurd none some⟩
    rw [none, bell]
    exact congrArg (fun w => some { x with pend := w }) BitVec.or_zero.symm
  · rw [if_neg none]
    refine ⟨(ring_rung bell v).waked 2, fun _ active idle => wake_waking 2 ?_ ?_ ?_⟩
    · rw [ring_elec, up]
    · rwa [ring_np]
    · rwa [ring_np]

/-- Who may write the set register of a doorbell. -/
def RingUp (s : State) (b : BellId) : Prop :=
  match b with
  | .fdHost p => ownReach s p = true
  | .fdPeer p => peerReach s p = true
  | .fdPorter => Running s
  | .porter => Awake s
  | _ => False

theorem setDoorbell_rung {s : State} {b : BellId} {x : Bell} (bell : bellAt s.mbx b = some x) (up : RingUp s b) (v : Word) :
    Rung s (setDoorbell s b v) b x v ∧
    (bellBits v ≠ 0 → b ≠ .fdPorter → b ≠ .porter → s.np.state ≠ .active → s.np.state ≠ .idle →
      (setDoorbell s b v).np.waking = true) := by
  cases b with
  | host p => exact up.elim
  | peer p => exact up.elim
  | fdHost p =>
    obtain ⟨rung, waking⟩ := outsideRing_rung bell v (running_of_ownReach up)
    rw [setDoorbell, if_pos (show ownReach s p = true from up)]
    exact ⟨rung, fun some _ _ => waking some⟩
  | fdPeer p =>
    obtain ⟨rung, waking⟩ := outsideRing_rung bell v (running_of_peerReach up)
    rw [setDoorbell, if_pos (show peerReach s p = true from up)]
    exact ⟨rung, fun some _ _ => waking some⟩
  | fdPorter =>
    rw [setDoorbell, if_pos (beq_iff_eq.mpr up)]
    exact ⟨ring_rung bell v, fun _ no => absurd rfl no⟩
  | porter =>
    rw [setDoorbell, if_pos (deskAwake_iff.mpr up)]
    exact ⟨ring_rung bell v, fun _ _ no => absurd rfl no⟩

/-- A doorbell replaced by its owner, with notifications only. -/
theorem clearPend_of {s : State} {b : BellId} {x : Bell} (bell : bellAt s.mbx b = some x) (v : Word) :
    clearPend s b v = { s with mbx := setBell s.mbx b { x with pend := x.pend &&& ~~~ v } } := by
  rw [clearPend, bell]

theorem maskBell_of {s : State} {b : BellId} {x : Bell} (bell : bellAt s.mbx b = some x) (v : Word) :
    maskBell s b v = if x.pend &&& x.mask &&& ~~~ v = 0 then { s with mbx := setBell s.mbx b { x with mask := v } }
      else notify { s with mbx := setBell s.mbx b { x with mask := v } } b { x with mask := v } := by
  rw [maskBell, bell]

theorem maskBell_mbx {s : State} {b : BellId} {x : Bell} (bell : bellAt s.mbx b = some x) (v : Word) :
    (maskBell s b v).mbx = setBell s.mbx b { x with mask := v } := by
  rw [maskBell_of bell]
  split
  · rfl
  · rw [notify_eq]

theorem maskBell_only {s : State} {b : BellId} {x : Bell} (bell : bellAt s.mbx b = some x) (v : Word) : OnlyMail s (maskBell s b v) := by
  rw [maskBell_of bell]
  split
  · exact OnlyMail.mbx s _
  · exact (OnlyMail.mbx s _).trans (notify_only _ _ _)

/-- A bit that a write to DB_MASK unmasks while it is pending makes the host's message. -/
theorem maskBell_host_desk {s : State} {p : Fin 4} {x : Bell} (bell : bellAt s.mbx (.host p) = some x) (irq : x.irq = true) {v : Word}
    (unmasked : x.pend &&& x.mask &&& ~~~ v ≠ 0) : (maskBell s (.host p) v).desk = raiseMsix s.desk p x.vector.toNat := by
  rw [maskBell_of bell, if_neg unmasked, notify, if_pos irq]

theorem exec_dbMaskWrite_pend {s : State} {b : BellId} (up : ownerUp s b = true) (v : Word) :
    exec (.dbMaskWrite b ⟨.pend, v⟩) s = .next (settle (clearPend s b v)) := congrArg Host.Outcome.next (if_pos up)

theorem exec_dbMaskWrite_mask {s : State} {b : BellId} (up : ownerUp s b = true) (v : Word) :
    exec (.dbMaskWrite b ⟨.mask, v⟩) s = .next (settle (maskBell s b v)) := congrArg Host.Outcome.next (if_pos up)

/-- Settles O14: `setDoorbell_rung` for the set registers, and the owner's two registers as `clearPend_of` and `maskBell_of` say. -/
theorem doorbellsSetAndMasked : Obligations.DoorbellsSetAndMasked := by
  unfold Obligations.DoorbellsSetAndMasked
  intro s v
  refine ⟨fun b x bell up => ?set, fun p => rfl, fun b x bell up => ⟨?pend, ?mask⟩⟩
  case set =>
    obtain ⟨rung, waking⟩ := setDoorbell_rung bell (show RingUp s b by cases b <;> exact up) v
    obtain ⟨rings, bells, boxes, only⟩ := rung.settled
    refine ⟨_, rfl, rings, bells, boxes, only, fun some fd np active idle => ?_⟩
    rw [settle_np_waking]
    exact waking some fd np active idle
  case pend =>
    refine ⟨_, exec_dbMaskWrite_pend up v, ?_⟩
    rw [clearPend_of bell, settle_mbx]
    exact ⟨bellAt_setBell_same _ _ _ _ bell, fun y other _ => bellAt_setBell_ne _ _ _ _ other, boxAt_setBell _ _ _,
      (OnlyMail.mbx s _).settled⟩
  case mask =>
    refine ⟨_, exec_dbMaskWrite_mask up v, ?_⟩
    rw [settle_mbx, maskBell_mbx bell, settle_desk_ports]
    refine ⟨bellAt_setBell_same _ _ _ _ bell, fun y other _ => bellAt_setBell_ne _ _ _ _ other, boxAt_setBell _ _ _,
      (maskBell_only bell v).settled, fun p host irq unmasked => ?_⟩
    subst host
    rw [← maskBell_host_desk bell irq unmasked]
    exact ⟨rfl, settle_out _⟩

/-! ## The tick -/

/-- Front Desk's doorbells but MAIL are clear, and so are Night Porter's. -/
def BellsServed (m : Mailboxes) : Prop :=
  (∀ p, (m.fdHost.at p).pend &&& 0x7FFFFFFF#32 = 0) ∧ m.porter.pend &&& 0x7FFFFFFF#32 = 0

/-- To clear bits makes none pending. -/
theorem masked_of_masked {x m : Word} (y : Word) (h : x &&& m = 0) : (x &&& y) &&& m = 0 := by
  rw [BitVec.and_assoc, BitVec.and_comm y, ← BitVec.and_assoc, h]
  exact BitVec.zero_and

theorem clearBell_served (x : Box) (b : Bell) : (clearBell x b).pend &&& 0x7FFFFFFF#32 = 0 := by
  unfold clearBell
  simp only
  split
  · rw [BitVec.and_assoc]
    exact BitVec.and_zero
  · rfl

theorem clearBells_served (m : Mailboxes) : BellsServed (clearBells (clearPorterBell m)) := by
  refine ⟨fun p => ?_, clearBell_served m.fdToNp m.porter⟩
  rw [clearBells, Tab.at_gen]
  exact clearBell_served _ _

theorem mailCleared_served {m : Mailboxes} (served : BellsServed m) (p : Fin 4) : BellsServed (mailCleared m (.fdHost p)) := by
  refine ⟨fun q => ?_, served.2⟩
  by_cases same : q = p
  · subst same
    exact (congrArg (fun b : Bell => b.pend &&& 0x7FFFFFFF#32) (Tab.at_put_same m.fdHost q _)).trans (masked_of_masked _ (served.1 q))
  · exact (congrArg (fun b : Bell => b.pend &&& 0x7FFFFFFF#32) (Tab.at_put_ne m.fdHost p q _ same)).trans (served.1 q)

theorem ring_host_served {s : State} (served : BellsServed s.mbx) (p : Fin 4) (v : Word) : BellsServed (ring s (.host p) v).mbx := by
  rw [ring_mbx]
  exact served

theorem ackMail_h2f_served {s : State} (served : BellsServed s.mbx) (p : Fin 4) (v : Word) : BellsServed (ackMail s (.h2f p) v).mbx := by
  cases took : takes v (boxAt s.mbx (.h2f p)) with
  | true =>
    rw [ackMail_mbx_of_takes took]
    exact ring_host_served (mailCleared_served (m := updBox s.mbx (.h2f p) (ackBox v)) served p) p ackedBit
  | false =>
    rw [ackMail_mbx_of_stale took]
    exact served

theorem takeUnknown_served (s : State) (p : Fin 4) (served : BellsServed s.mbx) : BellsServed (takeUnknown s p).mbx := by
  rw [takeUnknown, takeMail_eq]
  split
  · exact ackMail_h2f_served served p _
  · exact served

theorem takeUnknown_only (s : State) (p : Fin 4) : OnlyMail s (takeUnknown s p) := by
  rw [takeUnknown]
  split
  · exact takeMail_only s (.h2f p) 1
  · exact OnlyMail.refl s

theorem takeUnknowns (l : List (Fin 4)) {s : State} (served : BellsServed s.mbx) :
    BellsServed (l.foldl takeUnknown s).mbx ∧ OnlyMail s (l.foldl takeUnknown s) := by
  induction l generalizing s with
  | nil => exact ⟨served, OnlyMail.refl s⟩
  | cons p l ih =>
    obtain ⟨bells, only⟩ := ih (takeUnknown_served s p served)
    exact ⟨bells, (takeUnknown_only s p).trans only⟩

theorem servePort_of_quiet {s : State} {p : Fin 4} (quiet : PortQuiet s.desk p) : servePort s p = s := by
  obtain ⟨events, arriving⟩ := quiet
  unfold servePort
  simp only [events]
  split
  · exact absurd ‹_› (List.cons_ne_nil _ _).symm
  · exact absurd ‹_› arriving
  · exact absurd ‹_› (List.cons_ne_nil _ _).symm
  · exact absurd ‹_› (List.cons_ne_nil _ _).symm
  · rfl

theorem servePorts_of_quiet {s : State} (quiet : PortsQuiet s.desk) : servePorts s = s := by
  rw [servePorts]
  induction (List.range 4).map (fin 4) with
  | nil => rfl
  | cons p l ih => rw [List.foldl_cons, servePort_of_quiet (quiet p), ih]

/-- What a port waits for does not depend on what Front Desk says. -/
theorem PortsQuiet.speaks {d e : Desk} (quiet : PortsQuiet d) (h : DeskSpeaks d e) : PortsQuiet e := fun p => by
  obtain ⟨events, arriving⟩ := quiet p
  rw [PortQuiet, h.2 p]
  exact ⟨events, arriving⟩

/-- A cycle of Front Desk without an arrival or departure: bells and mail alone. -/
theorem tickDesk_of_quiet {s : State} (quiet : PortsQuiet s.desk) (served : BellsServed (clearBells s.mbx)) :
    BellsServed (tickDesk s).mbx ∧ OnlyMail s (tickDesk s) := by
  obtain ⟨bells, only⟩ := takeUnknowns ((List.range 4).map (fin 4)) (s := { s with mbx := clearBells s.mbx }) served
  rw [tickDesk, servePorts_of_quiet (quiet.speaks only.2.1)]
  exact ⟨bells, (OnlyMail.mbx s _).trans only⟩

theorem clockTick_still {s : State} (h : s.elec.life = .off ∨ s.elec.life = .held) : clockTick s = s := by
  unfold clockTick
  obtain life | life := h <;> rw [life]

/-- Time has passed, and Night Porter has served its doorbells. -/
def tickBegun (s : State) : State := { tickTime s with mbx := clearPorterBell s.mbx }

theorem tickBegun_only (s : State) : OnlyMail (tickTime s) (tickBegun s) := OnlyMail.mbx (tickTime s) _

theorem tickBegun_served (s : State) : BellsServed (clearBells (tickBegun s).mbx) := clearBells_served s.mbx

/-- The tick of a module that runs, and of one that is up without firmware. -/
theorem clockTick_running {s : State} (up : Running s) : clockTick s =
    if deskAwake s then settle (tickDesk (tickBegun s)) else tickBegun s := by
  unfold clockTick
  rw [show s.elec.life = .running from up]
  rfl

theorem clockTick_service {s : State} (off : s.elec.life ≠ .off) (held : s.elec.life ≠ .held) (up : ¬ Running s) :
    clockTick s = tickTime s := by
  unfold clockTick
  split
  · exact absurd ‹_› off
  · exact absurd ‹_› held
  · exact absurd ‹_› up
  · rfl

/-- What passes of time and of mail leaves of the block (R209). -/
def TickLeaves (s t : State) : Prop :=
  t.desk.now = s.desk.now + 40 ∧ t.pending = s.pending ∧ t.fuses = s.fuses ∧ t.elec = s.elec ∧ t.locks = s.locks ∧
  t.trng = s.trng ∧ t.sec = s.sec ∧ t.recov = s.recov ∧ t.desk.sqs = s.desk.sqs ∧ t.desk.cqs = s.desk.cqs ∧
  t.desk.slots = s.desk.slots ∧ t.desk.fences = s.desk.fences ∧ t.desk.ring = s.desk.ring ∧
  t.desk.mem = { s.desk.mem with scrubBurst := false } ∧ t.desk.ledger = s.desk.ledger

theorem tickTime_leaves {s t : State} (only : OnlyMail (tickTime s) t) : TickLeaves s t := by
  obtain ⟨state, ⟨desk, _⟩, _, _⟩ := only
  rw [state, TickLeaves]
  simp only
  rw [desk]
  exact ⟨rfl, rfl, rfl, rfl, rfl, rfl, rfl, rfl, rfl, rfl, rfl, rfl, rfl, rfl, rfl⟩

theorem clockTick_leaves {s : State} (off : s.elec.life ≠ .off) (held : s.elec.life ≠ .held) (quiet : Awake s → PortsQuiet s.desk) :
    TickLeaves s (clockTick s) ∧ (Awake s → ∀ p, ((clockTick s).mbx.fdHost.at p).pend &&& 0x7FFFFFFF#32 = 0) ∧
    (Running s → (clockTick s).mbx.porter.pend &&& 0x7FFFFFFF#32 = 0) ∧
    (¬ Awake s → (clockTick s).mbx = { s.mbx with porter := (clockTick s).mbx.porter }) := by
  by_cases up : Running s
  · rw [clockTick_running up]
    by_cases awake : Awake s
    · rw [if_pos (deskAwake_iff.mpr awake), settle_mbx]
      obtain ⟨bells, only⟩ := tickDesk_of_quiet (s := tickBegun s) (quiet awake) (tickBegun_served s)
      generalize tickDesk (tickBegun s) = t at *
      exact ⟨tickTime_leaves ((tickBegun_only s).trans only).settled, fun _ => bells.1, fun _ => bells.2, fun no => absurd awake no⟩
    · rw [if_neg (mt deskAwake_iff.mp awake)]
      exact ⟨tickTime_leaves (tickBegun_only s), fun yes => absurd yes awake, fun _ => clearBell_served s.mbx.fdToNp s.mbx.porter,
        fun _ => rfl⟩
  · rw [clockTick_service off held up]
    exact ⟨tickTime_leaves (OnlyMail.refl _), fun awake => absurd awake.1 up, fun yes => absurd yes up, fun _ => rfl⟩

/-- Settles O2: `clockTick_leaves`, and `clockTick_still` for a module that is off or in reset. -/
theorem emptyQueuePassesTime : Obligations.EmptyQueuePassesTime := by
  unfold Obligations.EmptyQueuePassesTime
  intro s empty
  have tick : step s = .next (clockTick s) := by rw [step, empty]
  refine ⟨fun still => by rw [tick, clockTick_still still], fun off held quiet => ?_⟩
  obtain ⟨leaves, bells, porter, below⟩ := clockTick_leaves off held quiet
  rw [TickLeaves, empty] at leaves
  exact ⟨clockTick s, tick, by simpa only [and_assoc] using And.intro leaves ⟨bells, porter, below⟩⟩

end Sys2Proof.Machine
end
section
/-!
SUPPORT. The registers of the queues and the mirror of the Ledger: tails (R206), SQ ring memory (R396), completion queues (R207, R208)
and mirroring (R202).
-/
namespace Sys2Proof.Machine

/-! ## Who reaches a queue -/

set_option Elab.async false in
theorem modReach_iff {s : State} {p : Fin 4} : modReach s p = true ↔ Attached s p := by
  simp only [modReach, Attached, Bool.and_eq_true, beq_iff_eq, bne_iff_ne, ne_eq, Bool.not_eq_true', and_assoc]

theorem ownReach_iff {s : State} {p : Fin 4} : ownReach s p = true ↔ Bound s p := by
  simp only [ownReach, Bool.and_eq_true, modReach_iff, beq_iff_eq, Bound]

theorem queueReach_iff {s : State} {p : Fin 4} {n : Fin 64} : queueReach s p n = true ↔ OwnsQueue s p n := by
  simp only [queueReach, Bool.and_eq_true, ownReach_iff, beq_iff_eq, OwnsQueue, Fin.ext_iff, queuePort_val]

theorem Tab.put_put {n : Nat} {α : Type} (t : Tab n α) (i : Fin n) (x y : α) : (t.put i x).put i y = t.put i y :=
  Tab.ext_at fun j => by
    by_cases h : j = i
    · rw [h, Tab.at_put_same, Tab.at_put_same]
    · rw [Tab.at_put_ne _ _ _ _ h, Tab.at_put_ne _ _ _ _ h, Tab.at_put_ne _ _ _ _ h]

/-! ## Tails -/

theorem tailGood_iff {q : Sq} (on : q.enable = true) (t : Nat) : tailGood q t = true ↔ TailFits q t := by
  refine Iff.trans (b := t < q.len ∧ (t + q.len - q.head.toNat) % q.len ≥ (q.tail.toNat + q.len - q.head.toNat) % q.len) ?_ Iff.rfl
  simp only [tailGood, on, Bool.true_and, Bool.and_eq_true, decide_eq_true_eq]

theorem bits_low (x : Nat) : bits x 0 12 = x % 4096 := by
  exact congrArg (· % 4096) ((congrArg (x / ·) (Nat.pow_zero 2)).trans (Nat.div_one x))

theorem tailWritten_of_fits {q : Sq} (on : q.enable = true) {t : Nat} (fits : TailFits q t) (now : Nat) :
    tailWritten q t now = { q with tail := BitVec.ofNat 12 t, visible := q.visible ++ newVisible q t now } :=
  if_pos ((tailGood_iff on t).mpr fits)

theorem tailWritten_of_not_fits {q : Sq} (on : q.enable = true) {t : Nat} (past : ¬ TailFits q t) (now : Nat) :
    tailWritten q t now = { q with tailErr := true } := if_neg (mt (tailGood_iff on t).mp past)

theorem tailWritten_of_disabled {q : Sq} (off : q.enable = false) (t now : Nat) : tailWritten q t now = { q with tailErr := true } := by
  refine if_neg ?_
  simp only [tailGood, off, Bool.false_and, Bool.false_eq_true, not_false_eq_true]

theorem exec_sqTailWrite {s : State} {p : Fin 4} {n : Fin 64} (own : OwnsQueue s p n) (v : Word) :
    exec (.sqTailWrite p n v) s = .next (settle (
      if (s.desk.sqs.at n).enable then wake 1 { s with desk := withSq s.desk n (tailWritten (s.desk.sqs.at n) (v.toNat % 4096) s.desk.now) }
      else { s with desk := withSq s.desk n (tailWritten (s.desk.sqs.at n) (v.toNat % 4096) s.desk.now) })) := by
  rw [← bits_low]
  exact congrArg Host.Outcome.next (if_pos own.reach)

theorem ofNat_mod_4096 (v : Word) : BitVec.ofNat 12 (v.toNat % 4096) = BitVec.ofNat 12 v.toNat := by
  refine BitVec.eq_of_toNat_eq ?_
  rw [BitVec.toNat_ofNat, BitVec.toNat_ofNat]
  exact Nat.mod_mod _ _

/-- Settles O15: each clause is one branch of `tailWritten` (R206). -/
theorem tailWriteMakesPacketsVisible : Obligations.TailWriteMakesPacketsVisible := by
  unfold Obligations.TailWriteMakesPacketsVisible
  intro s p n v
  refine ⟨fun own on => ⟨fun fits => ?fits, fun past => ?past⟩, fun own off => ?off, fun other => ?other⟩
  case fits => rw [exec_sqTailWrite own, if_pos on, tailWritten_of_fits on fits, ofNat_mod_4096]
  case past => rw [exec_sqTailWrite own, if_pos on, tailWritten_of_not_fits on past]
  case off => rw [exec_sqTailWrite own, if_neg (Bool.eq_false_iff.mp off), tailWritten_of_disabled off]
  case other => exact congrArg Host.Outcome.next (if_neg (mt queueReach_iff.mp other))

/-! ## SQ ring memory -/

/-- A write that lands lies in one enabled ring of its port. -/
theorem ringLands_iff {d : Desk} {p : Fin 4} {off len : Nat} (some : 1 ≤ len) : ringLands d p off len = true ↔
    ∃ n : Fin 64, n.val % 4 = p.val ∧ (d.sqs.at n).enable = true ∧ (d.sqs.at n).base.toNat ≤ off ∧
      off + len ≤ (d.sqs.at n).base.toNat + 128 * 2 ^ (d.sqs.at n).log2.toNat := by
  simp only [ringLands, some, decide_true, Bool.true_and, range_map_fin, List.any_eq_true, List.mem_finRange, true_and,
    Bool.and_eq_true, beq_iff_eq, decide_eq_true_eq, Fin.ext_iff, queuePort_val, and_assoc]
  rfl

theorem exec_sqRingWrite {s : State} {p : Fin 4} (bound : Bound s p) (off : BitVec 22) (data : Bytes) :
    exec (.sqRingWrite p off data) s = .next (settle { s with desk := ringWrite s.desk p off.toNat data }) :=
  congrArg Host.Outcome.next (if_pos (ownReach_iff.mpr bound))

/-- Settles O16: `ringLands_iff` says which writes land, and `cellRead_writes_same` and `cellRead_writes_ne` what they leave. -/
theorem ringWriteLandsInOwnRings : Obligations.RingWriteLandsInOwnRings := by
  unfold Obligations.RingWriteLandsInOwnRings
  intro s p off data bound some
  rw [exec_sqRingWrite bound, ringWrite]
  refine ⟨fun lands => ?_, fun no => by rw [if_neg (mt (ringLands_iff some).mp no)]⟩
  rw [if_pos ((ringLands_iff some).mpr lands)]
  exact ⟨_, rfl, cellRead_writes_same _ _ _, fun a => cellRead_writes_ne _ _⟩

/-! ## Completion queues -/

/-- The fields of a written CQn_CFG (Table 9.5). -/
def cqFields (c : Cq) (v : Word) : Cq :=
  { c with log2 := v.extractLsb' 1 4, vector := v.extractLsb' 5 6, irq := v.getLsbD 11, report := v.getLsbD 12 }

theorem getLsbD_or_one (v : Word) {i : Nat} (h : 0 < i) : (v ||| 1).getLsbD i = v.getLsbD i := by
  have ne : i ≠ 0 := by omega
  simp [ne]

theorem getLsbD_and_not_one (v : Word) {i : Nat} (h : 0 < i) : (v &&& ~~~ 1#32).getLsbD i = v.getLsbD i := by
  have ne : i ≠ 0 := by omega
  rw [BitVec.getLsbD_and, BitVec.getLsbD_not, BitVec.getLsbD_one]
  by_cases lt : i < 32
  · simp [ne, lt]
  · simp [BitVec.getLsbD_of_ge v i (by omega)]

theorem cqFields_or_one (c : Cq) (v : Word) : cqFields c (v ||| 1) = cqFields c v := by
  simp (disch := decide) only [cqFields, extractLsb'_or_one, getLsbD_or_one]

theorem cqFields_and_not_one (c : Cq) (v : Word) : cqFields c (v &&& ~~~ 1#32) = cqFields c v := by
  simp (disch := decide) only [cqFields, extractLsb'_and_not_one, getLsbD_and_not_one]

theorem exec_cqEnable {s : State} {p : Fin 4} {n : Fin 64} (own : OwnsQueue s p n) (v : Word) :
    exec (.cqEnable p n v) s = .next (settle { s with desk := withCq s.desk n (
      if (s.desk.cqs.at n).enable then s.desk.cqs.at n
      else if 4 ≤ (v.extractLsb' 1 4).toNat ∧ (v.extractLsb' 1 4).toNat ≤ 12 then
        { cqFields (s.desk.cqs.at n) v with enable := true, head := 0, tail := 0, phase := true, waiting := [] }
      else { cqFields (s.desk.cqs.at n) v with cfgErr := true }) }) := by
  have set : (v ||| 1).getLsbD 0 = true := by simp
  have written (c : Cq) : cqCfgWritten c (v ||| 1) = if c.enable then c
      else if 4 ≤ (cqFields c (v ||| 1)).log2.toNat ∧ (cqFields c (v ||| 1)).log2.toNat ≤ 12 then
        { cqFields c (v ||| 1) with enable := true, head := 0, tail := 0, phase := true, waiting := [] }
      else { cqFields c (v ||| 1) with cfgErr := true } := if_pos set
  simp only [exec, execCqEnable, own.reach, if_true, cqCfg, withCq, Tab.upd, written, cqFields_or_one]
  rfl

theorem exec_cqDisable {s : State} {p : Fin 4} {n : Fin 64} (own : OwnsQueue s p n) (v : Word) :
    exec (.cqDisable p n v) s = .next (settle { s with desk := withCq s.desk n (
      if (s.desk.cqs.at n).enable then { s.desk.cqs.at n with enable := false, waiting := [] }
      else cqFields (s.desk.cqs.at n) v) }) := by
  have clear : ¬ (v &&& ~~~ 1#32).getLsbD 0 = true := by simp
  have written (c : Cq) : cqCfgWritten c (v &&& ~~~ 1#32) =
      if c.enable then { c with enable := false, waiting := [] } else cqFields c (v &&& ~~~ 1#32) := if_neg clear
  simp only [exec, execCqDisable, own.reach, if_true, cqCfg, withCq, Tab.upd, written, cqFields_and_not_one]

theorem withCq_self (s : State) (n : Fin 64) : { s with desk := withCq s.desk n (s.desk.cqs.at n) } = s := by
  simp only [withCq, Tab.put_at_self]

theorem withCq_at (d : Desk) (n : Fin 64) (c : Cq) : (withCq d n c).cqs.at n = c := Tab.at_put_same _ n c

theorem withCq_withCq (d : Desk) (n : Fin 64) (c e : Cq) : withCq (withCq d n c) n e = withCq d n e := by
  simp only [withCq, Tab.put_put]

/-- A head write moves the head, and a Front Desk that runs writes what has room. -/
theorem exec_cqHeadWrite {s : State} {p : Fin 4} {n : Fin 64} (own : OwnsQueue s p n) (v : Word) :
    exec (.cqHeadWrite p n v) s = .next (settle { s with
      desk :=
        if deskAwake s then
          cqDrain (s.desk.cqs.at n).waiting.length (withCq s.desk n { s.desk.cqs.at n with head := v.extractLsb' 0 12 }) n
        else withCq s.desk n { s.desk.cqs.at n with head := v.extractLsb' 0 12 } }) := by
  have waits : ((withCq s.desk n { s.desk.cqs.at n with head := v.extractLsb' 0 12 }).cqs.at n).waiting = (s.desk.cqs.at n).waiting := by
    rw [withCq_at]
  rw [← waits]
  exact
    congrArg Host.Outcome.next (if_pos own.reach)

/-- Nothing is written while nothing waits, or the queue is off or full, or the partner leaves. -/
theorem cqDrain_still {d : Desk} {n : Fin 64} (fuel : Nat)
    (h : (d.cqs.at n).waiting = [] ∨ (d.cqs.at n).enable = false ∨ cqFull (d.cqs.at n) = true ∨ (d.ports.at (queuePort n)).open_ = false) :
    cqDrain fuel d n = d := by
  cases fuel with
  | zero => rfl
  | succ fuel =>
    rw [cqDrain]
    simp only
    split
    · rfl
    · next w ws has =>
      refine if_pos ?_
      obtain none | off | full | shut := h
      · exact absurd (has.symm.trans none) (List.cons_ne_nil w ws)
      · rw [off]; rfl
      · rw [full, Bool.or_true, Bool.true_or]
      · rw [shut, Bool.not_false, Bool.or_true]

/-- The oldest entry that waits is written where there is room. -/
theorem cqDrain_next {d : Desk} {n : Fin 64} {w : Waiting} {rest : List Waiting} (has : (d.cqs.at n).waiting = w :: rest)
    (on : (d.cqs.at n).enable = true) (room : cqFull (d.cqs.at n) = false) (here : (d.ports.at (queuePort n)).open_ = true) :
    cqDrain (rest.length + 1) d n =
      cqDrain rest.length (cqWrite (withCq d n { d.cqs.at n with waiting := rest }) n w.entry w.report) n := by
  rw [cqDrain]
  simp only [has, on, room, here, Bool.not_true, Bool.or_false, Bool.false_eq_true, if_false]
  rfl

theorem open_iff {q : Port} : q.open_ = true ↔ q.leaves = false ∧ (q.guest.state = .bound ∨ q.guest.state = .arriving) := by
  simp only [Port.open_, Bool.and_eq_true, Bool.not_eq_true', Bool.or_eq_true, beq_iff_eq]

theorem low12_toNat (v : Word) : (v.extractLsb' 0 12).toNat = v.toNat % 4096 := by
  rw [BitVec.extractLsb'_toNat, Nat.shiftRight_zero]

theorem cqFull_moved {c : Cq} {v : Word} : cqFull { c with head := v.extractLsb' 0 12 } = true ↔
    (c.tail.toNat + 1) % 2 ^ c.log2.toNat = v.toNat % 4096 := by
  rw [cqFull, beq_iff_eq, low12_toNat]
  rfl

/-- Settles O18: `exec_cqEnable` and `exec_cqDisable` for CQn_CFG (log entry 44), `cqDrain_still` and `cqDrain_next` for a moved head. -/
theorem completionQueueRegisters : Obligations.CompletionQueueRegisters := by
  unfold Obligations.CompletionQueueRegisters
  refine ⟨fun s p n v own => ?_, fun s p n v own => ?_⟩
  · rw [exec_cqEnable own, exec_cqDisable own]
    refine ⟨fun off low high => ?granted, fun off size => ?refused, fun on => ?ignored, fun on => ?disabled, fun off => ?fields⟩
    case granted => rw [if_neg (Bool.eq_false_iff.mp off), if_pos ⟨low, high⟩]; rfl
    case refused => rw [if_neg (Bool.eq_false_iff.mp off), if_neg (by omega)]; rfl
    case ignored => rw [if_pos on, withCq_self]
    case disabled => rw [if_pos on]
    case fields => rw [if_neg (Bool.eq_false_iff.mp off)]; rfl
  · rw [exec_cqHeadWrite own]
    have still (fuel : Nat) := cqDrain_still (d := withCq s.desk n { s.desk.cqs.at n with head := v.extractLsb' 0 12 }) (n := n) fuel
    rw [withCq_at] at still
    refine ⟨fun idle => ?_, fun w rest awake stays has => ⟨fun on room => ?_, fun no => ?_⟩⟩
    · obtain asleep | none | leaves := idle
      · rw [if_neg (mt deskAwake_iff.mp asleep)]
      · rw [still _ (.inl none), ite_self]
      · have shut : (s.desk.ports.at (queuePort n)).open_ = false := by
          refine Bool.eq_false_iff.mpr fun here => ?_
          rw [own.port] at here
          exact Bool.false_ne_true ((open_iff.mp here).1.symm.trans leaves)
        rw [still _ (.inr (.inr (.inr shut))), ite_self]
    · have here : (s.desk.ports.at (queuePort n)).open_ = true := open_iff.mpr ⟨own.port ▸ stays, .inl (own.port ▸ own.1.2)⟩
      have next := cqDrain_next (d := withCq s.desk n { s.desk.cqs.at n with head := v.extractLsb' 0 12 }) (n := n) (w := w) (rest := rest)
      simp only [withCq_at, withCq_withCq] at next
      rw [if_pos (deskAwake_iff.mpr awake), has, List.length_cons,
        next has on (Bool.eq_false_iff.mpr (mt cqFull_moved.mp room)) here]
    · rw [still _ (.inr (no.elim .inl fun full => .inr (.inl (cqFull_moved.mpr full)))), ite_self]

end Sys2Proof.Machine
end
section
/-!
SUPPORT. The mirror of the Ledger (R202).
-/
namespace Sys2Proof.Machine

set_option Elab.async false in
theorem exec_ledgerMirrorEnable {s : State} {p : Fin 4} (here : Attached s p) (v : Word) :
    exec (.ledgerMirrorEnable p v) s =
      .next (settle (wake 7 { s with desk := { s.desk with ledger := mirrorCtl s.desk.ledger p (v.getLsbD 0) } })) :=
  congrArg Host.Outcome.next (if_pos (modReach_iff.mpr here))

theorem exec_ledgerMirrorWrite {s : State} (awake : Awake s) :
    exec .ledgerMirrorWrite s = .next (settle { s with desk := mirrorNext s.desk }) :=
  congrArg Host.Outcome.next (if_pos (deskAwake_iff.mpr awake))

/-- What `settle` leaves of Front Desk, as one equation. -/
theorem settle_desk_eq (s : State) : (settle s).desk = { s.desk with
    tx := (settle s).desk.tx, out := (settle s).desk.out, deadlockSince := (settle s).desk.deadlockSince
    marks := (settle s).desk.marks, drain := (settle s).desk.drain } := congrArg State.desk (settle_eq s)

/-- Mirroring starts where it stopped while no record is lost (R202). -/
theorem mirrorOn_of_kept {l : Ledger} (kept : l.head ≤ l.mirrored + 256) : mirrorOn l = { l with enable := true } := if_pos (by omega)

/-- Records beyond the 256 on chip are lost to the mirror. -/
theorem mirrorOn_of_lost {l : Ledger} (lost : l.mirrored + 256 < l.head) : mirrorOn l = { l with
    enable := true, mirrored := l.head - 256, lost := true
    lostCount := min 0xFFFFFFFF (l.lostCount + (l.head - 256 - l.mirrored)) } := by
  have gap : l.mirrored + (l.head - 256 - l.mirrored) = l.head - 256 := by omega
  refine (if_neg (by omega)).trans ?_
  rw [gap]
  rfl

theorem mirrorRoom_iff {l : Ledger} : mirrorRoom l = true ↔ l.mirrored - l.tail.toNat < mirrorLen l := decide_eq_true_iff

theorem mirrorNext_of_idle {d : Desk} (idle : d.ledger.enable = false ∨ d.ledger.head ≤ d.ledger.mirrored) : mirrorNext d = d := by
  refine if_pos ?_
  obtain off | done := idle
  · rw [off]; rfl
  · rw [decide_eq_true done, Bool.or_true, Bool.true_or]

/-- A record is due while mirroring is on and the partner has not begun to leave. -/
theorem mirrorNext_of_due {d : Desk} (on : d.ledger.enable = true) (due : d.ledger.mirrored < d.ledger.head)
    (stays : (d.ports.at d.ledger.port).leaves = false) :
    mirrorNext d =
      if !mirrorRoom d.ledger then { d with ledger := { d.ledger with lag := true } }
      else
        let r := hostStore (d.ports.at d.ledger.port) (d.ledger.base.toNat + 128 * (d.ledger.mirrored % mirrorLen d.ledger))
          (d.ledger.ring.at (fin 256 d.ledger.mirrored)) 2
        if r.2 then { d with
          ports := d.ports.put d.ledger.port r.1, ledger := { d.ledger with mirrored := d.ledger.mirrored + 1, lag := false } }
        else { d with
          ports := d.ports.put d.ledger.port r.1, ledger := { d.ledger with enable := false, windowGone := true, lag := false } } := by
  refine if_neg ?_
  rw [on, decide_eq_false (Nat.not_le.mpr due), stays]
  exact Bool.false_ne_true

theorem hostStore_of_ok {q : Port} {h : Nat} {bs : Bytes} (ok : transferOk q true h bs.length = true) (source : BitVec 2) :
    hostStore q h bs source = ({ q with host := cellWrites q.host h bs }, true) := if_pos ok

theorem hostStore_of_fault {q : Port} {h : Nat} {bs : Bytes} (bad : transferOk q true h bs.length = false) (source : BitVec 2) :
    hostStore q h bs source = (windowFault q h true source 0 false, false) := if_neg (Bool.eq_false_iff.mp bad)

theorem windowFault_count (q : Port) (a : Nat) (w : Bool) (source : BitVec 2) (sq : BitVec 6) (hwa : Bool) :
    (windowFault q a w source sq hwa).faultCount = min 0xFFFFFFFF (q.faultCount + 1) := rfl

theorem windowFault_host (q : Port) (a : Nat) (w : Bool) (source : BitVec 2) (sq : BitVec 6) (hwa : Bool) :
    (windowFault q a w source sq hwa).host = q.host := rfl

/-- A table with one entry changed reads as before in a part that the change leaves. -/
theorem Tab.at_put_part {n : Nat} {α β : Type} (t : Tab n α) (i j : Fin n) {x : α} (f : α → β) (same : f x = f (t.at i)) :
    f ((t.put i x).at j) = f (t.at j) := by
  by_cases h : j = i
  · rw [h, Tab.at_put_same, same]
  · rw [Tab.at_put_ne _ _ _ _ h]

/-- Settles O20: `mirrorOn_of_kept` and `mirrorOn_of_lost` for the start, `mirrorNext_of_due` for each record (R202). -/
theorem ledgerIsMirrored : Obligations.LedgerIsMirrored := by
  unfold Obligations.LedgerIsMirrored
  intro s
  refine ⟨fun p v here => ?control, fun awake idle => ?idle, fun awake on due stays => ⟨fun full => ?full, fun room => ⟨fun ok => ?sent,
    fun bad => ?gone⟩⟩⟩
  case control =>
    refine ⟨_, exec_ledgerMirrorEnable here v, ?desk, fun off => ?_, fun set on => ?_, fun set off => ⟨fun kept => ?_, fun lost => ?_⟩⟩
    case desk =>
      refine (settle_desk_eq _).trans ?_
      rw [wake_desk, settle_desk_ledger, wake_desk]
    all_goals rw [settle_desk_ledger, wake_desk, mirrorCtl]
    · rw [off, if_neg Bool.false_ne_true]
    · rw [set, if_pos rfl, on, if_pos rfl]
    · rw [set, if_pos rfl, off, if_neg Bool.false_ne_true, mirrorOn_of_kept kept]
    · rw [set, if_pos rfl, off, if_neg Bool.false_ne_true, mirrorOn_of_lost lost]
  case idle => rw [exec_ledgerMirrorWrite awake, mirrorNext_of_idle idle]
  case full =>
    have none : mirrorRoom s.desk.ledger = false := Bool.eq_false_iff.mpr (mt mirrorRoom_iff.mp (Nat.not_lt.mpr full))
    rw [exec_ledgerMirrorWrite awake, mirrorNext_of_due on due stays, none]
    rfl
  case sent =>
    rw [exec_ledgerMirrorWrite awake, mirrorNext_of_due on due stays, mirrorRoom_iff.mpr room, hostStore_of_ok ok]
    rfl
  case gone =>
    have next := mirrorNext_of_due on due stays
    rw [mirrorRoom_iff.mpr room, hostStore_of_fault bad] at next
    refine ⟨_, exec_ledgerMirrorWrite awake, ?_⟩
    rw [settle_desk_ledger, settle_desk_ports, next]
    refine ⟨rfl, ?_, fun p => Tab.at_put_part _ _ p Port.host (windowFault_host _ _ _ _ _ _)⟩
    exact (congrArg Port.faultCount (Tab.at_put_same _ _ _)).trans (windowFault_count _ _ _ _ _ _)

end Sys2Proof.Machine
end
section
/-!
SUPPORT. Aperture requests (R269, R418) and MSI-X (R265).
-/
namespace Sys2Proof.Machine

/-! ## The aperture -/

set_option Elab.async false in
theorem oneRequest_iff {off len : Nat} : oneRequest off len = true ↔ 1 ≤ len ∧ off % 4096 + len ≤ 4096 := by
  simp only [oneRequest, Bool.and_eq_true, decide_eq_true_eq]

/-- Above DOZE no memory path has to be woken. -/
theorem wakeAperture_awake {s : State} (doze : s.np.state ≠ .doze) (night : s.np.state ≠ .night) (p : Fin 4) (off n : Nat) :
    wakeAperture p off n s = s := by
  have up : (s.np.state == .doze || s.np.state == .night) = false := by
    simp only [Bool.or_eq_false_iff, beq_eq_false_iff_ne]
    exact ⟨doze, night⟩
  unfold wakeAperture wakeMemory
  split
  · rw [up, if_neg Bool.false_ne_true]
  · rfl

theorem exec_apertureRead {s : State} {p : Fin 4} {off : BitVec 36} {len : Nat} (here : Attached s p) (doze : s.np.state ≠ .doze)
    (night : s.np.state ≠ .night) (some : 1 ≤ len) (fits : off.toNat % 4096 + len ≤ 4096) :
    exec (.apertureAccess p off (.read len)) s = .next { s with
      desk := (apertureRead s.fuses.grade s.desk p off.toNat len).1, reply := (apertureRead s.fuses.grade s.desk p off.toNat len).2 } := by
  simp only [exec, execApertureAccess, modReach_iff.mpr here, Bool.not_true, Bool.false_eq_true, if_false,
    oneRequest_iff.mpr ⟨some, fits⟩, if_true]
  rw [wakeAperture_awake (s := { s with desk := (apertureRead s.fuses.grade s.desk p off.toNat len).1 }) doze night]

theorem exec_apertureWrite {s : State} {p : Fin 4} {off : BitVec 36} {data : Bytes} (here : Attached s p) (doze : s.np.state ≠ .doze)
    (night : s.np.state ≠ .night) (some : 1 ≤ data.length) (fits : off.toNat % 4096 + data.length ≤ 4096) :
    exec (.apertureAccess p off (.write data)) s =
      .next { s with desk := apertureWrite s.fuses.grade s.desk p off.toNat data } := by
  simp only [exec, execApertureAccess, modReach_iff.mpr here, Bool.not_true, Bool.false_eq_true, if_false,
    oneRequest_iff.mpr ⟨some, fits⟩, if_true]
  rw [wakeAperture_awake (s := { s with desk := apertureWrite s.fuses.grade s.desk p off.toNat data }) doze night]

theorem updPort_eq (d : Desk) (p : Fin 4) (f : Port → Port) : updPort d p f = withPort d p (f (d.ports.at p)) := rfl

theorem apertureRead_sound {g : Grade} {d : Desk} {p : Fin 4} {off a : Nat} (target : apertureTarget g d p off = some a) {len : Nat}
    (sound : badSector d.mem a len = none) :
    apertureRead g d p off len = (d, .bytes ((List.range len).map fun i => cellRead d.mem.cells (a + i))) := by
  rw [apertureRead, target]
  simp only [sound]
  rfl

theorem apertureRead_bad {g : Grade} {d : Desk} {p : Fin 4} {off a : Nat} (target : apertureTarget g d p off = some a) {len x : Nat}
    (bad : badSector d.mem a len = some x) :
    apertureRead g d p off len =
      (noteUe (updPort d p fun q => { q with apwUe := satAdd 32 q.apwUe 1, aerAbort := true }) (32 * x) none 0, .completerAbort) := by
  rw [apertureRead, target]
  simp only [bad]

theorem apertureRead_none {g : Grade} {d : Desk} {p : Fin 4} {off : Nat} (target : apertureTarget g d p off = none) (len : Nat) :
    apertureRead g d p off len =
      (withPort d p { d.ports.at p with apwErr := min 0xFFFFFFFF ((d.ports.at p).apwErr + 1) }, .bytes (List.replicate len 0xFF)) := by
  rw [apertureRead, target]
  rfl

theorem apertureWrite_none {g : Grade} {d : Desk} {p : Fin 4} {off : Nat} (target : apertureTarget g d p off = none) (data : Bytes) :
    apertureWrite g d p off data = withPort d p { d.ports.at p with apwErr := min 0xFFFFFFFF ((d.ports.at p).apwErr + 1) } := by
  rw [apertureWrite, target]
  rfl

theorem apertureWrite_sound {g : Grade} {d : Desk} {p : Fin 4} {off a : Nat} (target : apertureTarget g d p off = some a) {data : Bytes}
    (whole : narrowHits d.mem a data.length = []) : apertureWrite g d p off data = { d with mem := memStore d.mem a data } := by
  rw [apertureWrite, target]
  simp only [whole]

/-- A write that leaves no sector in part makes sound every sector that it covers (R306). -/
theorem memStore_whole {m : Memory} {a : Nat} {bs : Bytes} (whole : narrowHits m a bs.length = []) : memStore m a bs = { m with
    cells := cellWrites m.cells a bs
    ue := m.ue.filter fun x => ¬ (a ≤ 32 * x ∧ 32 * x + 32 ≤ a + bs.length)
    ueFound := m.ueFound.filter fun x => ¬ (a ≤ 32 * x ∧ 32 * x + 32 ≤ a + bs.length) } := by
  have part : (fun x => !(decide (a ≤ 32 * x) && decide (32 * x + 32 ≤ a + bs.length))) =
      fun x => decide (¬ (a ≤ 32 * x ∧ 32 * x + 32 ≤ a + bs.length)) := by
    funext x
    simp only [Bool.not_and, decide_not, Bool.decide_and]
  simp only [memStore, whole, List.isEmpty_nil, if_true, part]

theorem markDue_ue (m : Memory) (h : Fin 12) (row : Nat) : (markDue m h row).ue = m.ue := by
  unfold markDue
  split <;> rfl

theorem findUe_ue (m : Memory) (a : Nat) : (findUe m a).ue = m.ue := by
  unfold findUe
  split
  · rfl
  · simp only
    split
    · exact markDue_ue _ _ _
    · rfl

theorem countUe_ue (m : Memory) (a : Nat) : (countUe m a).ue = m.ue := by
  unfold countUe
  simp only
  split <;> exact findUe_ue m a

theorem noteUe_ue (d : Desk) (a : Nat) (q : Option Nat) (k : Nat) : (noteUe d a q k).mem.ue = d.mem.ue := countUe_ue d.mem a

theorem noteUe_logCount (d : Desk) (a : Nat) (q : Option Nat) (k : Nat) :
    (noteUe d a q k).errs.logCount = min 0xFFFF (d.errs.logCount + 1) := rfl

/-! ## MSI-X -/

theorem sendPending_none {p : Fin 4} {d : Desk} {v : Fin 64} (none : (d.ports.at p).pba.at v = false) : sendPending p d v = d := by
  rw [sendPending]
  simp only [none, Bool.and_false, Bool.false_eq_true, if_false]

theorem sendAllPending_none {p : Fin 4} {d : Desk} (none : ∀ v, (d.ports.at p).pba.at v = false) : sendAllPending d p = d := by
  rw [sendAllPending]
  induction (List.range 64).map (fin 64) with
  | nil => rfl
  | cons v l ih => rw [List.foldl_cons, sendPending_none (none v), ih]

theorem sendPending_goes {p : Fin 4} {d : Desk} {v : Fin 64} (goes : msixGoes (d.ports.at p) v = true)
    (pends : (d.ports.at p).pba.at v = true) :
    sendPending p d v = withOut (withPort d p { d.ports.at p with pba := (d.ports.at p).pba.put v false }) [.msix p v.val] := by
  rw [sendPending]
  simp only [goes, pends, Bool.and_self, if_true]
  rfl

theorem sendPending_holds {p : Fin 4} {d : Desk} {v : Fin 64} (holds : msixGoes (d.ports.at p) v = false) : sendPending p d v = d := by
  rw [sendPending]
  simp only [holds, Bool.false_and, Bool.false_eq_true, if_false]

theorem withPort_at (d : Desk) (p : Fin 4) (q : Port) : (withPort d p q).ports.at p = q := Tab.at_put_same _ p q

theorem withPort_withPort (d : Desk) (p : Fin 4) (q r : Port) : withPort (withPort d p q) p r = withPort d p r := by
  simp only [withPort, Tab.put_put]

theorem exec_msixUnmask {s : State} {p : Fin 4} {c : MsixCtl} (reach : configReach s p c = true) :
    exec (.msixUnmask p c) s = .next { s with desk := unmaskMsix s.desk p c } := congrArg Host.Outcome.next (if_pos reach)

/-- The bound partner reaches the function's configuration space. -/
theorem configReach_of_bound {s : State} {p : Fin 4} (here : Attached s p) (bound : (s.desk.ports.at p).guest.state = .bound)
    (c : MsixCtl) : configReach s p c = true := by
  cases c with
  | vector v => exact modReach_iff.mpr here
  | _ =>
    simp only [configReach, Bool.and_eq_true, beq_iff_eq]
    exact ⟨⟨here.1, here.2.1⟩, bound⟩

/-- Configuration that changes no pending bit, with none set, sends nothing. -/
theorem configured_quiet {d : Desk} {p : Fin 4} (none : ∀ w, (d.ports.at p).pba.at w = false) (f : Port → Port)
    (keeps : (f (d.ports.at p)).pba = (d.ports.at p).pba) : sendAllPending (updPort d p f) p = withPort d p (f (d.ports.at p)) := by
  rw [updPort_eq]
  refine sendAllPending_none fun v => ?_
  rw [withPort_at, keeps, none]

/-- Settles O22: `apertureRead` and `apertureWrite` case by case, and MSI-X by `sendPending`. -/
theorem apertureAndInterrupts : Obligations.ApertureAndInterrupts := by
  unfold Obligations.ApertureAndInterrupts
  refine ⟨fun s p off here doze night => ⟨fun a target => ⟨fun len some fits => ⟨fun sound => ?sound, fun bad => ?bad⟩,
    fun data some fits whole => ?write⟩, fun target => ⟨fun len some fits => ?readNone, fun data some fits => ?writeNone⟩⟩,
    fun s p v here => ⟨fun on mask master pends => ?sends, fun no => ?holds, fun bound none => ?config⟩⟩
  case sound => rw [exec_apertureRead here doze night some fits, apertureRead_sound target sound]
  case bad =>
    obtain ⟨x, bad⟩ := Option.ne_none_iff_exists'.mp bad
    refine ⟨_, exec_apertureRead here doze night some fits, ?_⟩
    rw [apertureRead_bad target bad, noteUe_ports, noteUe_cells, noteUe_ue, noteUe_logCount, updPort_eq, withPort_at]
    exact ⟨rfl, rfl, rfl, rfl, rfl, rfl⟩
  case write =>
    rw [exec_apertureWrite here doze night some fits, apertureWrite_sound target whole, memStore_whole whole]
    exact ⟨_, rfl, cellRead_writes_same _ _ _, fun b => cellRead_writes_ne _ _⟩
  case readNone => rw [exec_apertureRead here doze night some fits, apertureRead_none target]
  case writeNone => rw [exec_apertureWrite here doze night some fits, apertureWrite_none target]
  case sends =>
    have goes : msixGoes { s.desk.ports.at p with
        msix := (s.desk.ports.at p).msix.upd v fun e => { e with mask := false } } v = true := by
      simp only [msixGoes, on, mask, master, here.2.2.2, Tab.at_upd_same, Bool.not_false, Bool.and_self]
    rw [exec_msixUnmask (c := .vector v) (modReach_iff.mpr here), unmaskMsix, updPort_eq,
      sendPending_goes (by rw [withPort_at]; exact goes) (by rw [withPort_at]; exact pends), withPort_at, withPort_withPort]
    rfl
  case holds =>
    rw [exec_msixUnmask (c := .vector v) (modReach_iff.mpr here), unmaskMsix, updPort_eq]
    have sends : sendPending p (withPort s.desk p { s.desk.ports.at p with
        msix := (s.desk.ports.at p).msix.upd v fun e => { e with mask := false } }) v = withPort s.desk p { s.desk.ports.at p with
        msix := (s.desk.ports.at p).msix.upd v fun e => { e with mask := false } } := by
      obtain off | masked | slave | none := no
      · exact sendPending_holds (by rw [withPort_at]; simp only [msixGoes, off, Bool.false_and])
      · exact sendPending_holds (by rw [withPort_at]; simp only [msixGoes, masked, Bool.not_true, Bool.and_false, Bool.false_and])
      · exact sendPending_holds (by rw [withPort_at]; simp only [msixGoes, slave, Bool.and_false, Bool.false_and])
      · exact sendPending_none (by rw [withPort_at]; exact none)
    rw [sends]
    rfl
  case config =>
    have reach := configReach_of_bound here bound
    refine ⟨?_, exec_msixUnmask (reach .disable), exec_msixUnmask (reach .aer), fun on => ⟨?_, ?_, ?_⟩,
      fun a b => exec_msixUnmask (reach (.sizes a b))⟩
    all_goals rw [exec_msixUnmask (reach _), unmaskMsix, configured_quiet none _ rfl]

end Sys2Proof.Machine
end
section
/-!
SUPPORT. The random source: reads and their order (R391, R392), samples, their tests and the windows (R385 to R390, R393).
-/
namespace Sys2Proof.Machine

/-! ## Reads and delivery -/

set_option Elab.async false in
theorem trngOn_of {s : State} (off : s.elec.life ≠ .off) (held : s.elec.life ≠ .held) : trngOn s = true := by
  simp only [trngOn, Bool.and_eq_true, bne_iff_ne]
  exact ⟨off, held⟩

/-- TRNG_DATA_HI of a read that does not fail. -/
theorem trngStatus_valid (t : Trng) : trngStatus t true false = if t.state = .startup ∨ t.state = .requal then 3 else 1 := by
  rw [trngStatus]
  cases t.state <;> rfl

theorem trngStatus_late (t : Trng) : trngStatus t false false = if t.state = .startup ∨ t.state = .requal then 2 else 0 := by
  rw [trngStatus]
  cases t.state <;> rfl

theorem exec_trngDataRead {s : State} {who : Requester} (reach : trngReach s who = true) :
    exec (.trngDataRead who) s = .next (trngRead s who) := congrArg Host.Outcome.next (if_pos reach)

theorem trngRead_off {s : State} (who : Requester) (off : s.trng.state = .off) :
    trngRead s who = { s with trng := { s.trng with latch := s.trng.latch.put who 4 }, reply := .reg 0 } := if_pos off

theorem trngRead_first {s : State} (who : Requester) {w : Word} {rest : List Word} (on : s.trng.state ≠ .off)
    (first : s.trng.waiting = []) (has : s.trng.pool = w :: rest) : trngRead s who = { s with
      trng := { s.trng with pool := rest, latch := s.trng.latch.put who (trngStatus s.trng true false) }, reply := .reg w } := by
  rw [trngRead]
  simp only [if_neg on, first, has]

theorem trngRead_stalls {s : State} (who : Requester) (on : s.trng.state ≠ .off) (h : s.trng.waiting ≠ [] ∨ s.trng.pool = []) :
    trngRead s who = { s with trng := { s.trng with waiting := s.trng.waiting ++ [.word who s.desk.now] }, reply := .stall } := by
  rw [trngRead]
  simp only [if_neg on]
  split
  · next first has =>
    obtain ahead | none := h
    · exact absurd first ahead
    · exact absurd (has.symm.trans none) (List.cons_ne_nil _ _)
  · rfl

/-- The first stalled read of a requester is late. -/
theorem lateRead_first {t : Trng} {now since : Nat} {who : Requester} {ahead behind : List Reader}
    (waits : t.waiting = ahead ++ .word who since :: behind) (first : ∀ x, .word who x ∉ ahead) (late : since + stallBound who ≤ now) :
    lateRead t now who = some (.word who since) := by
  rw [lateRead, waits, List.find?_append, List.find?_eq_none.mpr fun r mem => ?_, Option.none_or, List.find?_cons]
  · simp [late]
  · cases r with
    | word w x =>
      by_cases same : w = who
      · exact absurd (same ▸ mem) (first x)
      · simp [same]
    | seed n => simp
    | keys => simp

theorem lateRead_none {t : Trng} {now : Nat} {who : Requester}
    (early : ∀ since, .word who since ∈ t.waiting → now < since + stallBound who) : lateRead t now who = none := by
  refine List.find?_eq_none.mpr fun r mem => ?_
  cases r with
  | word w x =>
    by_cases same : w = who
    · have := early x (same ▸ mem)
      simp [same, this]
    · simp [same]
  | seed n => simp
  | keys => simp

theorem erase_first {ahead behind : List Reader} {r : Reader} (first : r ∉ ahead) : (ahead ++ r :: behind).erase r = ahead ++ behind := by
  rw [List.erase_append_right _ first, List.erase_cons_head]

/-- Readers that wait, none of them stale. -/
theorem deliver_of_waiting {s : State} {r : Reader} {rest : List Reader} (waits : s.trng.waiting = r :: rest)
    (fresh : ∀ x ∈ s.trng.waiting, staleReader s.desk x = false) :
    (s.trng.waiting.filter fun x => !staleReader s.desk x) = r :: rest := by
  rw [List.filter_eq_self.mpr fun x mem => by rw [fresh x mem]; rfl, waits]

theorem deliver_short {s : State} {r : Reader} {rest : List Reader} (waits : s.trng.waiting = r :: rest)
    (fresh : ∀ x ∈ s.trng.waiting, staleReader s.desk x = false) (short : s.trng.pool.length < readerWords r) : deliver s = s := by
  rw [deliver]
  simp only [deliver_of_waiting waits fresh, if_pos short]
  rw [← waits]

theorem deliver_word {s : State} {who : Requester} {since : Nat} {rest : List Reader} {w : Word} {more : List Word}
    (waits : s.trng.waiting = .word who since :: rest) (fresh : ∀ x ∈ s.trng.waiting, staleReader s.desk x = false)
    (has : s.trng.pool = w :: more) : deliver s = { s with
      trng := { s.trng with pool := more, waiting := rest, latch := s.trng.latch.put who (trngStatus s.trng true false) }
      reply := .reg w } := by
  rw [deliver]
  simp only [deliver_of_waiting waits fresh, readerWords, has, List.length_cons]
  rw [if_neg (by omega)]
  rfl

theorem deliver_keys {s : State} {rest : List Reader} (waits : s.trng.waiting = .keys :: rest)
    (fresh : ∀ x ∈ s.trng.waiting, staleReader s.desk x = false) (has : 24 ≤ s.trng.pool.length) : deliver s = { s with
      trng := { s.trng with pool := s.trng.pool.drop 24, waiting := rest }
      sec := { s.sec with drawn := s.trng.pool.take 24 } } := by
  rw [deliver]
  simp only [deliver_of_waiting waits fresh, readerWords]
  exact if_neg (Nat.not_lt.mpr has)

/-- Settles O23: `trngRead` and `deliver` case by case, and `lateRead_first` for the bound of R392. -/
theorem randomWordsGoToReadersInOrder : Obligations.RandomWordsGoToReadersInOrder := by
  unfold Obligations.RandomWordsGoToReadersInOrder
  refine ⟨fun s who => ⟨fun reach => ⟨fun off => ?off, fun on first w rest has => ?first, fun on stalls => ?stalls⟩, fun no => ?no,
    fun ahead since behind waits first off held late => ?late, fun early => ?early⟩,
    fun s r rest off held waits fresh => ⟨fun short => ?short, fun who since w more is has => ?word, fun is has => ?keys⟩⟩
  case off => rw [exec_trngDataRead reach, trngRead_off who off]
  case first => rw [exec_trngDataRead reach, trngRead_first who on first has, trngStatus_valid]
  case stalls => rw [exec_trngDataRead reach, trngRead_stalls who on stalls]
  case no => exact congrArg Host.Outcome.next (if_neg (Bool.eq_false_iff.mp no))
  case late =>
    simp only [exec, execTrngReadTimeout, trngOn_of off held, if_true, lateRead_first waits first late]
    rw [waits, erase_first (first since), trngStatus_late]
  case early =>
    have none : (if trngOn s then lateRead s.trng s.desk.now who else none) = none := by
      rw [lateRead_none early, ite_self]
    simp only [exec, execTrngReadTimeout, none]
  all_goals
    have run : exec .poolDelivery s = .next (deliver s) := congrArg Host.Outcome.next (if_pos (trngOn_of off held))
    rw [run]
  case short => rw [deliver_short waits fresh (by cases r <;> exact short)]
  case word =>
    subst is
    rw [deliver_word waits fresh has, trngStatus_valid]
  case keys =>
    subst is
    rw [deliver_keys waits fresh has]

/-! ## Samples -/

theorem windowOpened_short {t : Trng} (pos : t.pos < 1024) : windowOpened t = t := if_neg (by simp only [propWindow]; omega)

theorem statsOpened_short {t : Trng} (stat : t.statPos < 65536) : statsOpened t = t := if_neg (by simp only [statWindow]; omega)

/-- The random source with one more sample of every source. -/
def sampled (v : BitVec 11) (t : Trng) : Trng :=
  { t with
    src := Tab.gen 11 fun i => sampleSource t.pos t.statPos (v.getLsbD i) (t.src.at (fin 11 i)), pos := t.pos + 1, statPos := t.statPos + 1 }

theorem sampled_src (v : BitVec 11) (t : Trng) (i : Fin 11) :
    (sampled v t).src.at i = sampleSource t.pos t.statPos (v.getLsbD i.val) (t.src.at i) := by
  have same : fin 11 i.val = i := Fin.ext (Nat.mod_eq_of_lt i.isLt)
  rw [sampled]
  simp only [Tab.at_gen, same]

theorem sampleTrng_open {v : BitVec 11} {t : Trng} (on : t.state ≠ .off) (pos : t.pos < 1024) (stat : t.statPos < 65536) :
    sampleTrng v t = match healthFailure (sampled v t) with
      | some (s, k) => failTrng (sampled v t) s k
      | none =>
        if t.state = .ready then condition (sampled v t) ((List.range 11).foldl (fun a i => a != v.getLsbD i) false)
        else sampled v t := by
  rw [sampleTrng_eq, windowOpened_short pos, statsOpened_short stat, sampleOpen, if_neg on]
  rfl

theorem firstSome_none {α β : Type} {f : α → Option β} (l : List α) : firstSome f l = none ↔ ∀ x ∈ l, f x = none := by
  induction l with
  | nil => simp [firstSome]
  | cons x l ih =>
    rw [firstSome]
    cases h : f x with
    | none => simp [h, ih]
    | some y => simp [h]

theorem sourceFails_none {x : Source} : sourceFails x = none ↔ x.run < 41 ∧ x.apCount < 800 := by
  unfold sourceFails
  simp only [repCutoff, propCutoff]
  by_cases rep : 41 ≤ x.run
  · simp [rep, Nat.not_lt.mpr rep]
  · by_cases prop : 800 ≤ x.apCount
    · simp [rep, prop, Nat.not_lt.mpr prop]
    · simp [rep, prop, Nat.not_le.mp rep, Nat.not_le.mp prop]

/-- No source fails its tests (R387). -/
theorem healthFailure_none {t : Trng} : healthFailure t = none ↔ ∀ i : Fin 11, (t.src.at i).run < 41 ∧ (t.src.at i).apCount < 800 := by
  simp only [healthFailure, firstSome_none, List.mem_range, Option.map_eq_none_iff, sourceFails_none]
  refine ⟨fun h i => ?_, fun h i _ => h _⟩
  have same : fin 11 i.val = i := Fin.ext (Nat.mod_eq_of_lt i.isLt)
  exact same ▸ h i.val i.isLt

/-- The exclusive or of bits is the parity of the ones (R386). -/
theorem foldl_xor (f : Nat → Bool) (l : List Nat) (a : Bool) :
    l.foldl (fun x i => x != f i) a = (a != decide ((l.filter f).length % 2 = 1)) := by
  induction l generalizing a with
  | nil => simp
  | cons i l ih =>
    rw [List.foldl_cons, ih]
    cases h : f i with
    | false => rw [List.filter_cons_of_neg (by simp [h])]; cases a <;> simp
    | true =>
      rw [List.filter_cons_of_pos h, List.length_cons]
      rcases Nat.mod_two_eq_zero_or_one (l.filter f).length with even | odd
      · have next : ((l.filter f).length + 1) % 2 = 1 := by omega
        cases a <;> simp [even, next]
      · have next : ((l.filter f).length + 1) % 2 = 0 := by omega
        cases a <;> simp [odd, next]

theorem exec_trngSample {s : State} (off : s.elec.life ≠ .off) (held : s.elec.life ≠ .held) (v : BitVec 11) :
    exec (.trngSample v) s = .next (settle (sampleStep v s)) := congrArg Host.Outcome.next (if_pos (trngOn_of off held))

/-- A sample that no test condemns changes the random source alone. -/
theorem sampleStep_clean {s : State} {v : BitVec 11} (fails : (sampleTrng v s.trng).fails = s.trng.fails)
    (state : (sampleTrng v s.trng).state = s.trng.state) : sampleStep v s = { s with trng := sampleTrng v s.trng } := by
  rw [sampleStep]
  simp only [fails, state, decide_true, beq_self_eq_true, Bool.and_self, if_true]

/-- What a sample leaves when no test condemns it (R386). -/
theorem sampleTrng_clean {v : BitVec 11} {t : Trng} (on : t.state ≠ .off) (pos : t.pos < 1024) (stat : t.statPos < 65536)
    (pass : healthFailure (sampled v t) = none) : sampleTrng v t =
      if t.state = .ready then
        condition (sampled v t) (decide (((List.range 11).filter fun i => v.getLsbD i).length % 2 = 1))
      else sampled v t := by
  rw [sampleTrng_open on pos stat, pass, foldl_xor, Bool.false_bne]

/-- Conditioning touches raw bits and blocks alone. -/
theorem condition_eq (t : Trng) (b : Bool) : condition t b = { t with raw := (condition t b).raw, blocks := (condition t b).blocks } := by
  unfold condition
  simp only
  split <;> rfl

theorem condition_part {t : Trng} (b : Bool) (room : t.raw.length + 1 < 512) : condition t b = { t with raw := t.raw ++ [b] } := by
  rw [condition]
  exact if_pos (by rw [List.length_append]; exact room)

theorem condition_full {t : Trng} (b : Bool) (full : t.raw.length + 1 = 512) :
    condition t b = { t with raw := [], blocks := t.blocks ++ [conditioned (t.raw ++ [b])] } := by
  rw [condition]
  exact if_neg (by rw [List.length_append]; simp only [List.length_cons, List.length_nil]; omega)

/-- Of the random source, a sample that no test condemns changes counts, sources, raw bits and blocks alone. -/
theorem sampleTrng_clean_eq {v : BitVec 11} {t : Trng} (on : t.state ≠ .off) (pos : t.pos < 1024) (stat : t.statPos < 65536)
    (pass : healthFailure (sampled v t) = none) : sampleTrng v t =
      { sampled v t with raw := (sampleTrng v t).raw, blocks := (sampleTrng v t).blocks } := by
  rw [sampleTrng_clean on pos stat pass]
  split
  · exact condition_eq _ _
  · rfl

theorem sampleSource_run (pos stat : Nat) (b : Bool) (x : Source) : (sampleSource pos stat b x).last = b ∧
    (sampleSource pos stat b x).run = if 0 < x.run ∧ x.last = b then x.run + 1 else 1 := ⟨rfl, rfl⟩

/-! ## Failures -/

/-- Latches put one after another hold what was put. -/
theorem latches_put (words : List Requester) (l : Tab 32 Word) {w : Requester} (mem : w ∈ words ∨ l.at w = 4#32) :
    (words.foldl (fun l w => l.put w 4#32) l).at w = 4#32 := by
  induction words generalizing l with
  | nil => exact mem.resolve_left List.not_mem_nil
  | cons x words ih =>
    refine ih _ ?_
    by_cases same : w = x
    · exact .inr (same ▸ Tab.at_put_same l x 4#32)
    · refine mem.imp (fun h => (List.mem_cons.mp h).resolve_left same) fun h => ?_
      rw [Tab.at_put_ne _ _ _ _ same, h]

/-- What a health failure leaves at the random source (R393). -/
structure Failed (t u : Trng) : Prop where
  pool : u.pool = []
  blocks : u.blocks = []
  pos : u.pos = 0
  fails : u.fails = min 0xFFFFFFFF (t.fails + 1)
  words : ∀ w since, .word w since ∉ u.waiting
  latch : ∀ w since, .word w since ∈ t.waiting → u.latch.at w = 4
  requal : t.state ≠ .requal → u.state = .requal ∧ u.attempt = 1
  again : t.state = .requal → t.attempt < 3 → u.state = .requal ∧ u.attempt = t.attempt + 1
  off : t.state = .requal → 3 ≤ t.attempt → u.state = .off

/-- The readers of single words that wait. -/
def wordReaders (l : List Reader) : List Requester := l.filterMap fun r => match r with | .word w _ => some w | _ => none

/-- The readers that wait for more than a word. -/
def otherReaders (l : List Reader) : List Reader := l.filter fun r => match r with | .word _ _ => false | _ => true

theorem failTrng_eq (t : Trng) (src test : Nat) : ∃ state attempt, failTrng t src test = { freshTests t with
      fails := min 0xFFFFFFFF (t.fails + 1), lastFail := BitVec.ofNat 32 (src + 16 * test + 32), pool := [], blocks := []
      waiting := otherReaders t.waiting, state := state, attempt := attempt
      latch := (wordReaders t.waiting).foldl (fun l w => l.put w 4#32) t.latch } ∧
    (t.state ≠ .requal → state = .requal ∧ attempt = 1) ∧
    (t.state = .requal → t.attempt < 3 → state = .requal ∧ attempt = t.attempt + 1) ∧
    (t.state = .requal → 3 ≤ t.attempt → state = .off) := by
  unfold failTrng
  simp only
  by_cases requal : t.state = .requal
  · rw [if_pos requal]
    by_cases attempt : t.attempt < 3
    · rw [if_pos attempt]
      exact ⟨t.state, t.attempt + 1, rfl, fun no => absurd requal no, fun _ _ => ⟨requal, rfl⟩, fun _ last => absurd attempt (Nat.not_lt.mpr last)⟩
    · rw [if_neg attempt]
      exact ⟨.off, t.attempt, rfl, fun no => absurd requal no, fun _ more => absurd more attempt, fun _ _ => rfl⟩
  · rw [if_neg requal]
    exact ⟨.requal, 1, rfl, fun _ => ⟨rfl, rfl⟩, fun yes => absurd yes requal, fun yes => absurd yes requal⟩

theorem failTrng_failed (t : Trng) (src test : Nat) : Failed t (failTrng t src test) := by
  obtain ⟨state, attempt, eq, first, again, last⟩ := failTrng_eq t src test
  rw [eq]
  exact {
    pool := rfl
    blocks := rfl
    pos := rfl
    fails := rfl
    words := fun w since mem => absurd (List.mem_filter.mp mem).2 Bool.false_ne_true
    latch := fun w since mem => latches_put _ _ (.inl (List.mem_filterMap.mpr ⟨_, mem, rfl⟩))
    requal := first
    again := again
    off := last }

/-- What a failure at the random source leaves goes on to hold while readers are released. -/
theorem Failed.of_readers {t u : Trng} (h : Failed t u) {l : List Reader} (sub : ∀ r ∈ l, r ∈ u.waiting) : Failed t { u with waiting := l } :=
  { h with words := fun w since mem => h.words w since (sub _ mem) }

/-- The readers of `l` that read a word register. -/
def wordWaiters (l : List Reader) : List Reader := l.filter fun r => match r with | .word _ _ => true | _ => false

/-- Nothing that Front Desk does at a failure touches the source but its readers. -/
theorem releaseReaders_trng (s : State) : (releaseReaders s).trng = { s.trng with waiting := wordWaiters s.trng.waiting } := by
  unfold releaseReaders
  simp only
  split
  · unfold failKeys
    split <;> rfl
  · rfl

theorem releaseReaders_waiting (s : State) :
    ∃ l, (releaseReaders s).trng = { s.trng with waiting := l } ∧ ∀ r ∈ l, r ∈ s.trng.waiting :=
  ⟨_, releaseReaders_trng s, fun _ mem => (List.mem_filter.mp mem).1⟩

theorem noticeTo_trng (code arg : Nat) (s : State) (p : Fin 4) : (noticeTo code arg s p).trng = s.trng := by
  unfold noticeTo
  split
  · rw [(postMail_only s _ _).1]
  · rfl

theorem noticeAll_trng (s : State) (code arg : Nat) (but : Option (Fin 4)) : (noticeAll s code arg but).trng = s.trng := by
  rw [noticeAll]
  generalize List.filter _ _ = l
  induction l generalizing s with
  | nil => rfl
  | cons p l ih => rw [List.foldl_cons, ih, noticeTo_trng]

/-- What a sample leaves at the random source, whatever is released beside it. -/
theorem sampleStep_trng (v : BitVec 11) (s : State) :
    ∃ l, (sampleStep v s).trng = { sampleTrng v s.trng with waiting := l } ∧ ∀ r ∈ l, r ∈ (sampleTrng v s.trng).waiting := by
  have same : ∃ l, sampleTrng v s.trng = { sampleTrng v s.trng with waiting := l } ∧ ∀ r ∈ l, r ∈ (sampleTrng v s.trng).waiting :=
    ⟨_, rfl, fun _ mem => mem⟩
  have released := releaseReaders_waiting { s with trng := sampleTrng v s.trng }
  unfold sampleStep
  simp only
  split
  · exact same
  · split
    · exact same
    · split
      · rw [noticeAll_trng]
        exact released
      · exact released

/-- A health failure at a sample (R393). -/
theorem sampleStep_failed {s : State} {v : BitVec 11} (on : s.trng.state ≠ .off) (pos : s.trng.pos < 1024) (stat : s.trng.statPos < 65536)
    (fails : healthFailure (sampled v s.trng) ≠ none) : Failed s.trng (sampleStep v s).trng := by
  obtain ⟨⟨src, test⟩, found⟩ := Option.ne_none_iff_exists'.mp fails
  obtain ⟨l, step, sub⟩ := sampleStep_trng v s
  have failed : Failed s.trng (sampleTrng v s.trng) := by
    rw [sampleTrng_open on pos stat, found]
    have h := failTrng_failed (sampled v s.trng) src test
    exact ⟨h.pool, h.blocks, h.pos, h.fails, h.words, h.latch, h.requal, h.again, h.off⟩
  rw [step]
  exact failed.of_readers sub

/-! ## Windows -/

theorem exec_windowClose {s : State} (off : s.elec.life ≠ .off) (held : s.elec.life ≠ .held) :
    exec .windowClose s = .next (if s.trng.pos = 1024 then { s with trng := closeWindow s.trng } else s) := by
  simp only [exec, execWindowClose, trngOn_of off held, Bool.true_and, beq_iff_eq, propWindow]

theorem exec_statsWindow {s : State} (off : s.elec.life ≠ .off) (held : s.elec.life ≠ .held) :
    exec .statsWindow s = .next (if s.trng.statPos = 65536 then { s with trng := closeStats s.trng } else s) := by
  simp only [exec, execStatsWindow, trngOn_of off held, Bool.true_and, beq_iff_eq, statWindow]

theorem closeWindow_ready {t : Trng} (ready : t.state = .ready) :
    closeWindow t = { t with pos := 0, raw := [], blocks := [], pool := enterPool t.pool t.blocks } := by
  rw [closeWindow]
  simp only [ready]

theorem closeWindow_tested {t : Trng} (tests : t.state = .startup ∨ t.state = .requal) :
    closeWindow t = { t with pos := 0, raw := [], blocks := [], state := .ready, attempt := 0 } := by
  rw [closeWindow]
  obtain state | state := tests <;> simp only [state]

/-- Settles O24: `sampleTrng_clean` and `sampleStep_failed` for samples, `closeWindow` and `closeStats` for the windows. -/
theorem samplesAreTestedAndPooled : Obligations.SamplesAreTestedAndPooled := by
  unfold Obligations.SamplesAreTestedAndPooled
  refine ⟨fun s v off held on pos stat => ⟨fun pass => ?clean, fun fails => ?fails⟩, fun s off held => ⟨fun full ready => ?ready,
    fun full tests => ?tests, fun short => ?short, fun full => ?stats, fun short => ?early⟩⟩
  case clean =>
    have none : healthFailure (sampled v s.trng) = none := by
      refine healthFailure_none.mpr fun i => ?_
      rw [sampled_src]
      exact pass i
    have kept := sampleTrng_clean_eq on pos stat none
    have step : sampleStep v s = { s with trng := sampleTrng v s.trng } := sampleStep_clean (by rw [kept]; rfl) (by rw [kept]; rfl)
    refine ⟨_, exec_trngSample off held v, ?_⟩
    rw [step, settle_trng, settle_desk_sqs, settle_desk_slots, settle_desk_mem, settle_mbx, settle_sec]
    refine ⟨by rw [kept]; rfl, by rw [kept]; rfl, by rw [kept]; rfl, by rw [kept]; rfl, by rw [kept]; rfl, by rw [kept]; rfl, fun i => ?_,
      fun other => ?_, fun ready part => ?_, fun ready full => ?_, rfl, rfl, rfl, rfl, rfl⟩
    · have src : (sampleTrng v s.trng).src = (sampled v s.trng).src := by rw [kept]
      rw [src, sampled_src]
      exact sampleSource_run _ _ _ _
    · rw [sampleTrng_clean on pos stat none, if_neg other]
      exact ⟨rfl, rfl⟩
    · rw [sampleTrng_clean on pos stat none, if_pos ready, condition_part (t := sampled v s.trng) _ part]
      exact ⟨rfl, rfl⟩
    · rw [sampleTrng_clean on pos stat none, if_pos ready, condition_full (t := sampled v s.trng) _ full]
      exact ⟨rfl, List.length_append⟩
  case fails =>
    have found : healthFailure (sampled v s.trng) ≠ none := fun none => by
      obtain ⟨i, bad⟩ := fails
      have good := healthFailure_none.mp none i
      rw [sampled_src] at good
      omega
    have h := sampleStep_failed on pos stat found
    refine ⟨_, exec_trngSample off held v, ?_⟩
    rw [settle_trng]
    exact ⟨h.pool, h.blocks, h.pos, h.fails, h.words, h.latch, h.requal, h.again, h.off⟩
  case ready => rw [exec_windowClose off held, if_pos full, closeWindow_ready ready]
  case tests => rw [exec_windowClose off held, if_pos full, closeWindow_tested tests]
  case short => rw [exec_windowClose off held, if_neg short]
  case stats =>
    rw [exec_statsWindow off held, if_pos full]
    exact ⟨_, rfl, rfl, rfl, fun i => Tab.at_map _ _ i⟩
  case early => rw [exec_statsWindow off held, if_neg short]

end Sys2Proof.Machine
end
section
/-!
SUPPORT. Power, the reset pin, and the resets that the module makes itself (R345, R404 to R407, Tables 15.3 and 15.4).
-/
namespace Sys2Proof.Machine

/-! ## What a reset leaves -/

set_option Elab.async false in
theorem isUp_iff {s : State} : isUp s = true ↔ s.elec.life ≠ .off ∧ s.elec.life ≠ .held := by
  simp only [isUp, Bool.and_eq_true, bne_iff_ne]

/-- Bytes outside the private areas are what a warm reset keeps. -/
theorem cellRead_filter_public (l : List Host.Cell) {a : Nat} (h : isPrivate a = false) :
    cellRead (l.filter fun c => !isPrivate c.1) a = cellRead l a := by
  induction l with
  | nil => rfl
  | cons c l ih =>
    rw [List.filter_cons]
    by_cases same : c.1 = a
    · rw [if_pos (by rw [same, h]; rfl)]
      simp only [cellRead, if_pos same]
    · split <;> simp only [cellRead, if_neg same, ih]

theorem cellRead_filter_private (l : List Host.Cell) {a : Nat} (h : isPrivate a = true) :
    cellRead (l.filter fun c => !isPrivate c.1) a = 0 := by
  induction l with
  | nil => rfl
  | cons c l ih =>
    rw [List.filter_cons]
    split
    case isTrue outside =>
      have ne : c.1 ≠ a := by
        rintro rfl
        rw [h] at outside
        exact absurd outside (by decide)
      simp only [cellRead, if_neg ne, ih]
    case isFalse => exact ih

theorem inReset_left (s : State) (cause : BitVec 4) (mem : Memory) : ResetLeft s (inReset s cause mem) := by
  refine ⟨rfl, rfl, rfl, rfl, rfl, rfl, rfl, rfl, rfl, rfl, rfl, rfl, fun n => ?_, fun f => ?_, fun i => ?_, rfl, rfl, rfl,
    fun p => ?_, rfl, rfl, rfl, rfl, rfl⟩
  · simp only [inReset, resetDesk, Tab.at_all, and_self]
  · simp only [inReset, resetDesk, Tab.at_all]
  · simp only [inReset, resetDesk, Tab.at_all]
  · simp only [inReset, resetDesk, Tab.at_map]

theorem warmReset_warm (s : State) (cause : BitVec 4) : WarmReset s (warmReset cause s) cause :=
  ⟨inReset_left s cause (resetMemory s.desk.mem), rfl, rfl, rfl, rfl, fun _ => cellRead_filter_public _, fun _ => cellRead_filter_private _⟩

theorem faultReset_warm (s : State) (cause : BitVec 4) (cls die : Nat) :
    WarmReset s (faultReset cause cls die s) cause ∧ (faultReset cause cls die s).sec.flashFault = some (cls, die) :=
  ⟨⟨inReset_left s cause (resetMemory s.desk.mem), rfl, rfl, rfl, rfl, fun _ => cellRead_filter_public _, fun _ => cellRead_filter_private _⟩, rfl⟩

/-! ## Power and the reset pin -/

theorem exec_powerLoss_on {s : State} (on : s.elec.life ≠ .off) : exec .powerLoss s = .next (unpowered s) := by
  simp only [exec, execPowerLoss]

theorem exec_railFault_on {s : State} (on : s.elec.life ≠ .off) :
    exec .railFault s = .next { nextBoot (inReset s 0 (lostMemory s.desk.mem)) with
      elec := { (nextBoot (inReset s 0 (lostMemory s.desk.mem))).elec with pg := false } } := by
  simp only [exec, execRailFault]

theorem resetAssert_up {s : State} (off : s.elec.life ≠ .off) (held : s.elec.life ≠ .held) (pg : s.elec.pg = true) :
    resetAssert s = { warmReset 1 s with elec := { (warmReset 1 s).elec with resetN := false } } := by
  unfold resetAssert
  split
  · exact absurd ‹_› off
  · exact absurd ‹_› held
  · simp only [pg, if_true]

/-- Settles O35: each event by the life of the module that it finds. -/
theorem powerAndResetPin : Obligations.PowerAndResetPin := by
  intro s
  refine ⟨fun off => ?on, fun on => ?again, fun on => ?loss, fun on => ?rail, fun off => ?unpowered, rfl,
    fun up pg => ?pin, fun off => ?low⟩
  case on => simp only [exec, execPowerOn, powerOn, off, nextBoot]
  case again =>
    simp only [exec, execPowerOn, powerOn]
  case loss =>
    exact ⟨_, exec_powerLoss_on on, inReset_left s 0 (lostMemory s.desk.mem), rfl, rfl, rfl, fun a => rfl, rfl, rfl⟩
  case rail =>
    exact ⟨_, exec_railFault_on on, inReset_left s 0 (lostMemory s.desk.mem), rfl, rfl, rfl, fun a => rfl, rfl⟩
  case unpowered =>
    constructor
    · simp only [exec, execPowerLoss, off]
    · simp only [exec, execRailFault, off]
  case pin =>
    obtain ⟨off, held⟩ := isUp_iff.mp up
    exact ⟨_, congrArg Host.Outcome.next (resetAssert_up off held pg), inReset_left s 1 (resetMemory s.desk.mem), rfl, rfl, rfl, rfl,
      fun _ => cellRead_filter_public _, fun _ => cellRead_filter_private _⟩
  case low => simp only [exec, execResetAssert, resetAssert, off]

/-! ## Resets the module makes itself -/

theorem exec_activate {s : State} {p : Fin 4} (here : Attached s p) : exec (.activate p) s = .next (warmReset 6 s) := by
  simp only [exec, execActivate, modReach_iff.mpr here, if_true]
  rfl

theorem exec_idleActivation_due {s : State} (run : Running s) (armed : s.sec.armed = true) (idle : queuesEmpty s.desk = true) :
    exec .idleActivation s = .next (warmReset 6 s) := by
  have life : s.elec.life = .running := run
  simp only [exec, execIdleActivation, life, armed, idle, beq_self_eq_true, Bool.and_self, if_true]

theorem exec_idleActivation_idle {s : State} (idle : s.sec.armed = false ∨ queuesEmpty s.desk = false) :
    exec .idleActivation s = .next s := by
  have no : (s.elec.life == .running && s.sec.armed && queuesEmpty s.desk) = false := by
    rcases idle with h | h <;> simp only [h, Bool.and_false, Bool.false_and]
  simp only [exec, execIdleActivation, no, Bool.false_eq_true, if_false]

/-- Settles O36: each cause is a warm reset, and a fault leaves its class in flash besides. -/
theorem moduleResetsItself : Obligations.ModuleResetsItself := by
  intro s
  refine ⟨fun up => ⟨fun h => ?hub, fun a b there => ?link, ?trip⟩, fun awake => ?dog, fun p here => ?activate,
    fun run armed idle => ?idle, fun run no => exec_idleActivation_idle no, fun p here => ⟨?arm, ?disarm⟩⟩
  case hub =>
    refine ⟨_, ?_, faultReset_warm s 3 11 4⟩
    simp only [exec, execHubFatal, up, if_true]
  case link =>
    refine ⟨_, ?_, faultReset_warm s 4 10 (linkDie a b)⟩
    simp only [exec, execDieLinkDown, up, there, Bool.and_self, if_true]
  case trip =>
    refine ⟨_, ?_, warmReset_warm s 2, rfl⟩
    simp only [exec, execHubTrip, up, if_true]
  case dog =>
    refine ⟨_, ?_, faultReset_warm s 5 11 4⟩
    simp only [exec, execFdWatchdog, deskAwake_iff.mpr awake, if_true]
  case activate => exact ⟨_, exec_activate here, warmReset_warm s 6⟩
  case idle => exact ⟨_, exec_idleActivation_due run armed idle, warmReset_warm s 6⟩
  case arm =>
    simp only [exec, execActivateIdle, modReach_iff.mpr here, if_true, fwCtl]
    rw [if_neg (by decide)]
    simp
  case disarm =>
    simp only [exec, execCancel, modReach_iff.mpr here, if_true, fwCtl]
    rw [if_neg (by decide)]
    simp

end Sys2Proof.Machine
end
section
/-!
SUPPORT. The arrival and departure of partners (R278 to R280, R236).
-/
namespace Sys2Proof.Machine

/-! ## A port's queues and fences -/

set_option Elab.async false in
theorem mem_portQueues {p : Fin 4} {n : Fin 64} : n ∈ portQueues p ↔ n.val % 4 = p.val := by
  simp only [portQueues, List.mem_map, List.mem_range]
  constructor
  · rintro ⟨k, low, rfl⟩
    have : (fin 64 (4 * k + p.val)).val = (4 * k + p.val) % 64 := rfl
    omega
  · exact fun h => ⟨n.val / 4, by omega, Fin.ext (show (4 * (n.val / 4) + p.val) % 64 = n.val by omega)⟩

theorem mem_portFences {p : Fin 4} {f : Fin 256} : f ∈ portFences p ↔ f.val / 64 = p.val := by
  simp only [portFences, List.mem_map, List.mem_range]
  constructor
  · rintro ⟨k, low, rfl⟩
    have : (fin 256 (64 * p.val + k)).val = (64 * p.val + k) % 256 := rfl
    omega
  · exact fun h => ⟨f.val % 64, by omega, Fin.ext (show (64 * p.val + f.val % 64) % 256 = f.val by omega)⟩

/-- Work on some queues leaves the rest of Front Desk, the other queues, and each of its own as it says. -/
structure QueuesMade (l : List (Fin 64)) (made : Sq → Cq → Prop) (d e : Desk) : Prop where
  only : e = { d with sqs := e.sqs, cqs := e.cqs, marks := e.marks }
  others : ∀ n, n ∉ l → e.sqs.at n = d.sqs.at n ∧ e.cqs.at n = d.cqs.at n
  own : ∀ n ∈ l, made (e.sqs.at n) (e.cqs.at n)

theorem QueuesMade.ports {l : List (Fin 64)} {made : Sq → Cq → Prop} {d e : Desk} (h : QueuesMade l made d e) : e.ports = d.ports := by
  rw [h.only]

theorem QueuesMade.fences {l : List (Fin 64)} {made : Sq → Cq → Prop} {d e : Desk} (h : QueuesMade l made d e) : e.fences = d.fences := by
  rw [h.only]

theorem QueuesMade.foldl {made : Sq → Cq → Prop} {f : Desk → Fin 64 → Desk} (one : ∀ d n, QueuesMade [n] made d (f d n))
    (l : List (Fin 64)) (d : Desk) : QueuesMade l made d (l.foldl f d) := by
  induction l generalizing d with
  | nil => exact ⟨rfl, fun _ _ => ⟨rfl, rfl⟩, fun _ mem => absurd mem List.not_mem_nil⟩
  | cons n l ih =>
    have first := one d n
    have rest := ih (f d n)
    rw [List.foldl_cons]
    refine ⟨?_, fun m out => ?_, fun m mem => ?_⟩
    · rw [rest.only, first.only]
    · have ne := List.ne_of_not_mem_cons out
      have inside := List.not_mem_of_not_mem_cons out
      obtain ⟨a, b⟩ := rest.others m inside
      obtain ⟨x, y⟩ := first.others m (mt List.mem_singleton.mp ne)
      exact ⟨a.trans x, b.trans y⟩
    · by_cases inside : m ∈ l
      · exact rest.own m inside
      · obtain rfl := (List.mem_cons.mp mem).resolve_right inside
        obtain ⟨a, b⟩ := rest.others m inside
        rw [a, b]
        exact first.own m (List.mem_singleton.mpr rfl)

theorem resetQueues_made (d : Desk) (p : Fin 4) :
    QueuesMade (portQueues p) (fun q c => q.enable = false ∧ q.cur = none ∧ c.enable = false) d (resetQueues d p) := by
  refine QueuesMade.foldl (fun d n => ⟨rfl, fun m out => ?_, fun m mem => ?_⟩) (portQueues p) d
  · have ne : m ≠ n := mt List.mem_singleton.mpr out
    exact ⟨Tab.at_put_ne _ _ _ _ ne, Tab.at_put_ne _ _ _ _ ne⟩
  · obtain rfl := List.mem_singleton.mp mem
    simp only [Tab.at_put_same, and_self]

theorem disableQueues_made (d : Desk) (p : Fin 4) :
    QueuesMade (portQueues p) (fun q c => q.enable = false ∧ c.enable = false) d (disableQueues d p) := by
  refine QueuesMade.foldl (fun d n => ⟨rfl, fun m out => ?_, fun m mem => ?_⟩) (portQueues p) d
  · have ne : m ≠ n := mt List.mem_singleton.mpr out
    exact ⟨Tab.at_upd_ne _ _ _ _ ne, Tab.at_upd_ne _ _ _ _ ne⟩
  · obtain rfl := List.mem_singleton.mp mem
    simp only [Tab.at_upd_same, and_self]

theorem setFences_only (d : Desk) (p : Fin 4) (v : BitVec 64) (err : Bool) :
    setFences d p v err = { d with fences := (setFences d p v err).fences } := by
  rw [setFences]

theorem setFences_own (d : Desk) {p : Fin 4} (v : BitVec 64) (err : Bool) {f : Fin 256} (own : f.val / 64 = p.val) :
    ((setFences d p v err).fences.at f).value = v ∧ ((setFences d p v err).fences.at f).err = err := by
  have set (l : List (Fin 256)) (t : Tab 256 Fence) (h : f ∈ l ∨ ((t.at f).value = v ∧ (t.at f).err = err)) :
      ((l.foldl (fun t i => t.put i ⟨v, err, (t.at i).hiLatch⟩) t).at f).value = v ∧
      ((l.foldl (fun t i => t.put i ⟨v, err, (t.at i).hiLatch⟩) t).at f).err = err := by
    induction l generalizing t with
    | nil => exact h.resolve_left List.not_mem_nil
    | cons i l ih =>
      refine ih _ ?_
      by_cases same : f = i
      · subst same
        simp only [Tab.at_put_same, and_self, or_true]
      · rw [Tab.at_put_ne _ _ _ _ same]
        exact h.imp_left fun mem => (List.mem_cons.mp mem).resolve_left same
  exact set _ _ (.inl (mem_portFences.mpr own))

theorem setFences_other (d : Desk) {p : Fin 4} (v : BitVec 64) (err : Bool) {f : Fin 256} (other : f.val / 64 ≠ p.val) :
    (setFences d p v err).fences.at f = d.fences.at f := by
  have keep (l : List (Fin 256)) (t : Tab 256 Fence) (h : f ∉ l) :
      (l.foldl (fun t i => t.put i ⟨v, err, (t.at i).hiLatch⟩) t).at f = t.at f := by
    induction l generalizing t with
    | nil => rfl
    | cons i l ih =>
      have ne := List.ne_of_not_mem_cons h
      have inside := List.not_mem_of_not_mem_cons h
      exact (ih _ inside).trans (Tab.at_put_ne _ _ _ _ ne)
  exact keep _ _ (mt mem_portFences.mp other)

/-! ## Notices -/

theorem noticeTo_post (code arg : Nat) (s : State) (p : Fin 4) :
    ∃ q, noticeTo code arg s p = { s with mbx := { s.mbx with f2hQueue := q } } ∧ ∀ x, x ≠ p → q.at x = s.mbx.f2hQueue.at x := by
  unfold noticeTo
  split
  · unfold postMail
    simp only
    split
    · exact ⟨_, rfl, fun _ _ => rfl⟩
    · exact ⟨_, rfl, fun x ne => Tab.at_put_ne _ _ _ _ ne⟩
  · exact ⟨_, rfl, fun _ _ => rfl⟩

theorem foldl_noticeTo (code arg : Nat) (l : List (Fin 4)) (s : State) {p : Fin 4} (out : p ∉ l) :
    ∃ q, l.foldl (noticeTo code arg) s = { s with mbx := { s.mbx with f2hQueue := q } } ∧ q.at p = s.mbx.f2hQueue.at p := by
  induction l generalizing s with
  | nil => exact ⟨_, rfl, rfl⟩
  | cons x l ih =>
    have ne := List.ne_of_not_mem_cons out
    have inside := List.not_mem_of_not_mem_cons out
    obtain ⟨q, post, keep⟩ := noticeTo_post code arg s x
    obtain ⟨r, rest, same⟩ := ih (noticeTo code arg s x) inside
    refine ⟨r, ?_, ?_⟩
    · rw [List.foldl_cons, rest, post]
    · rw [same, post]
      exact keep p ne

/-- A notice to all partners but one is posted in their queues and changes nothing else. -/
theorem noticeAll_but (s : State) (code arg : Nat) (p : Fin 4) :
    ∃ q, noticeAll s code arg (some p) = { s with mbx := { s.mbx with f2hQueue := q } } ∧ q.at p = s.mbx.f2hQueue.at p := by
  refine foldl_noticeTo code arg _ s fun mem => ?_
  have := (List.mem_filter.mp mem).2
  simp at this

/-! ## Arrival -/

theorem waking_of_below {s : State} {code : BitVec 4} (up : Running s) (below : ¬ Awake s) : (wake code s).np.waking = true := by
  have states : s.np.state ≠ .active ∧ s.np.state ≠ .idle := by
    constructor <;> intro h <;> exact below ⟨up, by simp only [h, true_or, or_true]⟩
  exact wake_waking code up states.1 states.2

theorem deskAwake_wake (code : BitVec 4) (s : State) : deskAwake (wake code s) = deskAwake s := by
  have state : (wake code s).np.state = s.np.state := by
    unfold wake
    simp only
    repeat' split
    all_goals rfl
  rw [deskAwake, deskAwake, wake_elec, state]

/-- The module with events added to those that a port waits with, as the router brings them. -/
def withEvents (s : State) (p : Fin 4) (es : List PortEvent) : State :=
  { s with desk := { s.desk with ports := s.desk.ports.upd p fun q => { q with events := q.events ++ es } } }

theorem withEvents_at (s : State) (p : Fin 4) (es : List PortEvent) :
    (withEvents s p es).desk.ports.at p = { s.desk.ports.at p with events := (s.desk.ports.at p).events ++ es } := Tab.at_upd_same _ _ _

theorem portEvent_eq (s : State) (p : Fin 4) (es : List PortEvent) : portEvent s p es =
    settle (if deskAwake (wake 4 (withEvents s p es)) then servePort (wake 4 (withEvents s p es)) p else wake 4 (withEvents s p es)) := rfl

theorem portEvent_awake {s : State} (awake : Awake s) (p : Fin 4) (es : List PortEvent) :
    portEvent s p es = settle (servePort (wake 4 (withEvents s p es)) p) := by
  rw [portEvent_eq, deskAwake_wake, if_pos (show deskAwake (withEvents s p es) = true from deskAwake_iff.mpr awake)]

theorem portEvent_below {s : State} (below : ¬ Awake s) (p : Fin 4) (es : List PortEvent) :
    portEvent s p es = settle (wake 4 (withEvents s p es)) := by
  rw [portEvent_eq, deskAwake_wake, if_neg (show ¬ deskAwake (withEvents s p es) = true from mt deskAwake_iff.mp below)]

/-- A departure that a queue of its port holds open, and an arrival behind it, wait. -/
theorem servePort_of_busy {s : State} {p : Fin 4} (departing : (s.desk.ports.at p).guest.state = .departing) {n : Fin 64}
    (own : n.val % 4 = p.val) (busy : queueBusy s.desk n = true) : servePort s p = s := by
  have held : (portQueues p).any (queueBusy s.desk) = true := List.any_eq_true.mpr ⟨n, mem_portQueues.mpr own, busy⟩
  unfold servePort
  simp only [departing]
  split
  all_goals first
    | exact absurd ‹GuestState.departing = _› (by decide)
    | rfl
    | exact if_pos held

theorem exec_partnerArrival {s : State} {p : Fin 4} (up : Running s) (here : portPresent s.fuses.grade p = true) (uuid : BitVec 128)
    (topo : BitVec 64) (mode : BitVec 3) : exec (.partnerArrival p uuid topo mode) s =
      .next (if tunnelUp (s.desk.ports.at p) = true then s else portEvent s p [.arrival ⟨uuid, topo, mode⟩]) := by
  have life : s.elec.life = .running := up
  simp only [exec, execPartnerArrival, life, here, beq_self_eq_true, Bool.true_and, Bool.not_eq_true']
  cases tunnelUp (s.desk.ports.at p) <;> rfl

theorem tunnelUp_of_quiet {q : Port} (quiet : q.events = []) : tunnelUp q = (q.guest.state != .empty) := by
  simp only [tunnelUp, quiet, List.getLast?_nil]

theorem servePort_arrival {s : State} {p : Fin 4} (empty : (s.desk.ports.at p).guest.state = .empty) {a : Arrival}
    {rest : List PortEvent} (first : (s.desk.ports.at p).events = .arrival a :: rest) :
    servePort s p = { s with desk := { s.desk with ports := s.desk.ports.upd p (arrivingPort a) } } := by
  simp only [servePort, empty, first]

theorem servePort_arriving {s : State} {p : Fin 4} (arriving : (s.desk.ports.at p).guest.state = .arriving) :
    servePort s p = bindPort s p := by
  simp only [servePort, arriving]

/-- An arrival on an EMPTY port whose events are dealt with. -/
theorem partnerArrival_taken {s : State} {p : Fin 4} (here : portPresent s.fuses.grade p = true) (awake : Awake s)
    (empty : (s.desk.ports.at p).guest.state = .empty) (quiet : (s.desk.ports.at p).events = []) (a : Arrival) :
    let w := wake 4 (withEvents s p [.arrival a])
    exec (.partnerArrival p a.uuid a.topo a.mode) s =
      .next (settle { w with desk := { w.desk with ports := w.desk.ports.upd p (arrivingPort a) } }) := by
  have down : ¬ tunnelUp (s.desk.ports.at p) = true := by rw [tunnelUp_of_quiet quiet, empty]; decide
  have port : (wake 4 (withEvents s p [.arrival a])).desk.ports.at p = { s.desk.ports.at p with events := [.arrival a] } := by
    rw [wake_desk, withEvents_at, quiet]
    rfl
  rw [exec_partnerArrival awake.1 here, if_neg down, portEvent_awake awake,
    servePort_arrival (by rw [port]; exact empty) (rest := []) (by rw [port])]

theorem servePorts_but {s : State} {p : Fin 4} (quiet : ∀ q, q ≠ p → PortQuiet s.desk q)
    (after : ∀ q, q ≠ p → PortQuiet (servePort s p).desk q) : servePorts s = servePort s p := by
  have still (l : List (Fin 4)) {u : State} (h : ∀ q ∈ l, PortQuiet u.desk q) : l.foldl servePort u = u := by
    induction l with
    | nil => rfl
    | cons q l ih =>
      rw [List.foldl_cons, servePort_of_quiet (h q List.mem_cons_self)]
      exact ih fun x mem => h x (List.mem_cons_of_mem q mem)
  have all : p ∈ (List.range 4).map (fin 4) := List.mem_map.mpr ⟨p.val, List.mem_range.mpr p.isLt, Fin.ext (Nat.mod_eq_of_lt p.isLt)⟩
  have once : ((List.range 4).map (fin 4)).Nodup := by decide
  obtain ⟨a, b, split⟩ := List.append_of_mem all
  rw [split] at once
  obtain ⟨-, -, apart⟩ := List.nodup_append.mp once
  have left : ∀ q ∈ a, q ≠ p := fun q mem => apart q mem p List.mem_cons_self
  have right : ∀ q ∈ b, q ≠ p := fun q mem same =>
    (List.nodup_cons.mp (List.nodup_append.mp once).2.1).1 (same ▸ mem)
  rw [servePorts, split, List.foldl_append, List.foldl_cons, still a fun q mem => quiet q (left q mem),
    still b fun q mem => after q (right q mem)]

/-! ## The tick that binds -/

/-- The module with a port bound to the partner that arrives, as an arrival's steps 4 and 5 leave it, but for the notices. -/
structure PortBound (s t : State) (p : Fin 4) : Prop where
  state : t = { s with desk := t.desk, mbx := t.mbx }
  desk : t.desk = { s.desk with sqs := t.desk.sqs, cqs := t.desk.cqs, marks := t.desk.marks, fences := t.desk.fences, ports := t.desk.ports }
  port : t.desk.ports.at p = boundPort (rtcOf s.desk) (s.desk.ports.at p)
  ports : ∀ q, q ≠ p → t.desk.ports.at q = s.desk.ports.at q
  own : ∀ n : Fin 64, n.val % 4 = p.val → (t.desk.sqs.at n).enable = false ∧ (t.desk.sqs.at n).cur = none ∧
    (t.desk.cqs.at n).enable = false
  queues : ∀ n : Fin 64, n.val % 4 ≠ p.val → t.desk.sqs.at n = s.desk.sqs.at n ∧ t.desk.cqs.at n = s.desk.cqs.at n
  fences : ∀ f : Fin 256, f.val / 64 = p.val → (t.desk.fences.at f).value = 0 ∧ (t.desk.fences.at f).err = false
  others : ∀ f : Fin 256, f.val / 64 ≠ p.val → t.desk.fences.at f = s.desk.fences.at f
  pair : t.mbx.dropped.at p = 0 ∧ (t.mbx.h2f.at p).full = false ∧ (t.mbx.host.at p).mask = 0xFFFFFFFF

theorem clearPair_h2f (m : Mailboxes) (p : Fin 4) : ((clearPair m p).h2f.at p).full = false := by
  simp only [clearPair, Tab.at_upd_same]

theorem clearPair_host (m : Mailboxes) (p : Fin 4) : ((clearPair m p).host.at p).mask = 0xFFFFFFFF := by
  simp only [clearPair, Tab.at_upd_same]

theorem bindPort_bound (s : State) (p : Fin 4) : PortBound s (bindPort s p) p := by
  have made := resetQueues_made s.desk p
  unfold bindPort
  generalize resetQueues s.desk p = d at made ⊢
  have only := setFences_only d p 0 false
  have own := fun f => setFences_own d (p := p) 0 false (f := f)
  have other := fun f => setFences_other d (p := p) 0 false (f := f)
  generalize setFences d p 0 false = e at only own other ⊢
  simp only
  obtain ⟨q, post, -⟩ := noticeAll_but { s with
    desk := { e with ports := e.ports.upd p (boundPort (rtcOf s.desk)) }
    mbx := { clearPair s.mbx p with dropped := (clearPair s.mbx p).dropped.put p 0 } } 4 p.val p
  rw [post]
  have ports : e.ports = s.desk.ports := by rw [only, made.ports]
  have sqs : e.sqs = d.sqs := by rw [only]
  have cqs : e.cqs = d.cqs := by rw [only]
  exact
    { state := rfl
      desk := by
        simp only
        rw [only, made.only]
      port := by simp only [ports, Tab.at_upd_same]
      ports := fun x ne => by simp only [ports, Tab.at_upd_ne _ _ _ _ ne]
      own := fun n own => by
        simp only [sqs, cqs]
        exact made.own n (mem_portQueues.mpr own)
      queues := fun n other => by
        simp only [sqs, cqs]
        exact made.others n (mt mem_portQueues.mp other)
      fences := own
      others := fun f out => (other f out).trans (by rw [made.fences])
      pair := ⟨Tab.at_put_same (clearPair s.mbx p).dropped p 0, clearPair_h2f s.mbx p, clearPair_host s.mbx p⟩ }

theorem PortQuiet.speaks {d e : Desk} {p : Fin 4} (quiet : PortQuiet d p) (h : DeskSpeaks d e) : PortQuiet e p := by
  obtain ⟨events, arriving⟩ := quiet
  rw [PortQuiet, h.2 p]
  exact ⟨events, arriving⟩

/-- The tick with a partner that is ARRIVING on one port, and the others quiet: what has passed of time and mail, then that port bound. -/
theorem tickDesk_of_arriving {s : State} {p : Fin 4} (arriving : (s.desk.ports.at p).guest.state = .arriving)
    (quiet : ∀ q, q ≠ p → PortQuiet s.desk q) (served : BellsServed (clearBells s.mbx)) :
    ∃ u, OnlyMail s u ∧ PortBound u (tickDesk s) p := by
  obtain ⟨-, only⟩ := takeUnknowns ((List.range 4).map (fin 4)) (s := { s with mbx := clearBells s.mbx }) served
  have speaks : DeskSpeaks s.desk _ := only.2.1
  refine ⟨_, (OnlyMail.mbx s _).trans only, ?_⟩
  rw [tickDesk]
  generalize List.foldl takeUnknown _ _ = u at speaks
  have serves : servePort u p = bindPort u p := servePort_arriving (by rw [speaks.2 p]; exact arriving)
  have bound := bindPort_bound u p
  rw [servePorts_but (fun q ne => (quiet q ne).speaks speaks) fun q ne => ?_, serves]
  · exact bound
  · rw [serves, PortQuiet, bound.ports q ne]
    exact (quiet q ne).speaks speaks

end Sys2Proof.Machine
end
section
/-!
SUPPORT. The departure of an idle partner (R236, R252, R279), and what tiles that leave a slot change.
-/
namespace Sys2Proof.Machine

set_option Elab.async false in
/-- A fold whose steps leave what they start from. -/
theorem foldl_still {α β : Type} {f : α → β → α} {a : α} {l : List β} (h : ∀ x ∈ l, f a x = a) : l.foldl f a = a := by
  induction l with
  | nil => rfl
  | cons x l ih =>
    rw [List.foldl_cons, h x List.mem_cons_self]
    exact ih fun y mem => h y (List.mem_cons_of_mem x mem)

/-! ## Slots and tiles -/

/-- Front Desk but for its slots and the tiles. -/
def OnlySlots (d e : Desk) : Prop := e = { d with slots := e.slots, tiles := e.tiles }

theorem OnlySlots.refl (d : Desk) : OnlySlots d d := rfl

theorem OnlySlots.trans {d e f : Desk} (h : OnlySlots d e) (k : OnlySlots e f) : OnlySlots d f := by
  rw [OnlySlots] at *
  rw [k, h]

theorem OnlySlots.foldl {α : Type} {f : Desk → α → Desk} (h : ∀ d x, OnlySlots d (f d x)) (l : List α) (d : Desk) :
    OnlySlots d (l.foldl f d) := by
  induction l generalizing d with
  | nil => exact OnlySlots.refl d
  | cons x l ih => exact (h d x).trans (ih (f d x))

theorem holdTile_slots (d : Desk) (l : Nat) (h : Option Held) (groups : Tab 4 GroupReg) : OnlySlots d (holdTile d l h groups) := rfl

theorem leaveSlot_slots (d : Desk) (i : Fin 64) : OnlySlots d (leaveSlot d i) := by
  refine OnlySlots.foldl (fun d l => ?_) _ d
  split
  · split
    · exact holdTile_slots d l none _
    · exact OnlySlots.refl d
  · exact OnlySlots.refl d

theorem updSlot_slots (d : Desk) (i : Fin 64) (f : Slot → Slot) : OnlySlots d (updSlot d i f) := rfl

theorem reapSlots_slots (d : Desk) : OnlySlots d (reapSlots d) := by
  refine OnlySlots.foldl (fun d i => ?_) _ d
  unfold reapSlot
  simp only
  split
  · exact (leaveSlot_slots d i).trans (updSlot_slots _ i _)
  · exact OnlySlots.refl d

theorem orphanSlots_slots (d : Desk) (p : Fin 4) : OnlySlots d (orphanSlots d p) := rfl

/-! ## The beginning of a departure -/

/-- A port that is DEPARTING. -/
def departingPort (cause : BitVec 4) (q : Port) : Port :=
  { q with guest := { q.guest with state := .departing, linkMode := if cause = 1 then 0 else q.guest.linkMode } }

theorem startDeparture_idle {d : Desk} {p : Fin 4} (cause : BitVec 4)
    (idle : ∀ n : Fin 64, n.val % 4 = p.val → openIndices (d.sqs.at n) = []) (none : ∀ w ∈ d.aborts, queuePort w.sq ≠ p) :
    ∃ l a, startDeparture d p cause = { d with ports := d.ports.upd p (departingPort cause), ledger := l, aborts := a } ∧
      l.head = d.ledger.head + 1 := by
  unfold startDeparture
  simp only
  have stopped (e : Desk) (same : e.sqs = d.sqs) : (portQueues p).foldl (stopQueue .departure) e = e :=
    foldl_still fun n mem => by rw [stopQueue, same, idle n (mem_portQueues.mp mem), List.foldl_nil]
  rw [stopped]
  rotate_left
  · rfl
  have mine : d.aborts.filter (fun w => queuePort w.sq == p) = [] :=
    List.filter_eq_nil_iff.mpr fun w mem => by simpa only [beq_iff_eq] using none w mem
  unfold dropAborts
  simp only [eventRecord, ledgerWrite, mine, List.foldl_nil]
  exact ⟨_, _, rfl, rfl⟩

/-! ## The rest of it -/

/-- Front Desk when a departure is complete. -/
def leftDesk (d : Desk) (p : Fin 4) (cause : BitVec 4) : Desk :=
  let d1 := freeWaiters d p
  let d2 := endEmptied { d1 with itins := d1.itins.map fun i => if i.owner = some p then { i with packets := [], refs := [], owner := none } else i }
  let d3 := reapSlots (orphanSlots (disableQueues d2 p) p)
  let used := d3.ledger.enable && d3.ledger.port == p
  let l := if used then { d3.ledger with enable := false, windowGone := true, lag := false } else d3.ledger
  { d3 with ledger := l, ports := d3.ports.upd p (leftPort (rtcOf d) cause) }

theorem endDeparture_eq (s : State) (p : Fin 4) (cause : BitVec 4) : endDeparture s p cause =
    noticeAll (leavePair { s with desk := leftDesk s.desk p cause, locks := freeLocks s.locks (partnerId p) } p) 5 p.val (some p) := rfl

/-- Front Desk as a complete departure leaves it. -/
structure DeskLeft (d e : Desk) (p : Fin 4) (cause : BitVec 4) : Prop where
  mem : e.mem = d.mem
  now : e.now = d.now
  head : e.ledger.head = d.ledger.head
  port : e.ports.at p = leftPort (rtcOf d) cause (d.ports.at p)
  ports : ∀ q, q ≠ p → e.ports.at q = d.ports.at q
  own : ∀ n : Fin 64, n.val % 4 = p.val → (e.sqs.at n).enable = false ∧ (e.cqs.at n).enable = false
  fences : ∀ f : Fin 256, f.val / 64 = p.val → (e.fences.at f).value = 0xFFFFFFFFFFFFFFFF ∧ (e.fences.at f).err = true
  others : ∀ f : Fin 256, f.val / 64 ≠ p.val → e.fences.at f = d.fences.at f

theorem freeWaiters_only (d : Desk) (p : Fin 4) :
    ∃ m, freeWaiters d p = { setFences d p 0xFFFFFFFFFFFFFFFF true with marks := m } := ⟨_, rfl⟩

theorem endEmptied_only (d : Desk) : ∃ q, endEmptied d = { d with sqs := q } := ⟨_, rfl⟩

theorem leftDesk_left (d : Desk) (p : Fin 4) (cause : BitVec 4) : DeskLeft d (leftDesk d p cause) p cause := by
  unfold leftDesk
  simp only
  obtain ⟨marks, freed⟩ := freeWaiters_only d p
  rw [freed]
  have only := setFences_only d p 0xFFFFFFFFFFFFFFFF true
  have own := fun f => setFences_own d (p := p) 0xFFFFFFFFFFFFFFFF true (f := f)
  have other := fun f => setFences_other d (p := p) 0xFFFFFFFFFFFFFFFF true (f := f)
  generalize setFences d p 0xFFFFFFFFFFFFFFFF true = e at only own other ⊢
  generalize e.itins.map _ = itins
  obtain ⟨sqs, ended⟩ := endEmptied_only { e with marks := marks, itins := itins }
  rw [ended]
  have made := disableQueues_made { e with marks := marks, itins := itins, sqs := sqs } p
  generalize disableQueues _ p = g at made ⊢
  have slots := (orphanSlots_slots g p).trans (reapSlots_slots _)
  generalize reapSlots _ = h at slots ⊢
  have fences : h.fences = e.fences := by rw [slots, made.only]
  have ports : h.ports = d.ports := by rw [slots, made.only, only]
  have ledger : h.ledger = d.ledger := by rw [slots, made.only, only]
  have queues : h.sqs = g.sqs ∧ h.cqs = g.cqs := by
    rw [slots]
    exact ⟨rfl, rfl⟩
  exact
    { mem := by
        simp only
        rw [slots, made.only, only]
      now := by
        simp only
        rw [slots, made.only, only]
      head := by
        simp only [ledger]
        split <;> rfl
      port := by simp only [ports, Tab.at_upd_same]
      ports := fun q ne => by simp only [ports, Tab.at_upd_ne _ _ _ _ ne]
      own := fun n own => by
        simp only [queues]
        exact made.own n (mem_portQueues.mpr own)
      fences := fun f mine => by
        simp only [fences]
        exact own f mine
      others := fun f out => by
        simp only [fences]
        exact other f out }

theorem leavePair_pair (s : State) (p : Fin 4) : OnlyMail s (leavePair s p) ∧ (leavePair s p).mbx.f2hQueue.at p = [] ∧
    ((leavePair s p).mbx.f2h.at p).full = false ∧ ((leavePair s p).mbx.h2f.at p).full = false := by
  have emptied (u : State) (only : OnlyMail s u) (empty : (u.mbx.f2h.at p).full = false) :
      OnlyMail s { u with mbx := clearPair u.mbx p } ∧ (clearPair u.mbx p).f2hQueue.at p = [] ∧
      ((clearPair u.mbx p).f2h.at p).full = false ∧ ((clearPair u.mbx p).h2f.at p).full = false :=
    ⟨only.trans (OnlyMail.mbx u _), Tab.at_put_same _ _ _, empty, clearPair_h2f u.mbx p⟩
  unfold leavePair
  by_cases full : (s.mbx.f2h.at p).full = true
  · simp only [if_pos full]
    refine emptied _ (withdrawMail_only s (.f2h p)) ?_
    have box : boxAt (withdrawMail s (.f2h p)).mbx (.f2h p) = withdrawBox (boxAt s.mbx (.f2h p)) := by
      rw [withdrawMail_mbx, boxAt_ring, boxAt_withdrawn, boxAt_updBox_same]
    exact (congrArg Box.full box).trans rfl
  · simp only [if_neg full]
    exact emptied s (OnlyMail.refl s) (Bool.eq_false_iff.mpr full)

/-- The module as the departure of an idle partner leaves it. -/
structure PartnerLeft (s t : State) (p : Fin 4) (cause : BitVec 4) : Prop where
  desk : ∃ e, DeskLeft s.desk e p cause ∧ DeskSpeaks e t.desk
  locks : t.locks = freeLocks s.locks (partnerId p)
  queue : t.mbx.f2hQueue.at p = []
  boxes : (t.mbx.f2h.at p).full = false ∧ (t.mbx.h2f.at p).full = false

theorem endDeparture_left (s : State) (p : Fin 4) (cause : BitVec 4) : PartnerLeft s (endDeparture s p cause) p cause := by
  have left := leftDesk_left s.desk p cause
  rw [endDeparture_eq]
  generalize leftDesk s.desk p cause = d at left ⊢
  obtain ⟨only, queue, boxes⟩ := leavePair_pair { s with desk := d, locks := freeLocks s.locks (partnerId p) } p
  generalize leavePair { s with desk := d, locks := freeLocks s.locks (partnerId p) } p = u at only queue boxes ⊢
  obtain ⟨q, post, same⟩ := noticeAll_but u 5 p.val p
  rw [post]
  obtain ⟨state, speaks, -, -⟩ := only
  exact { desk := ⟨d, left, speaks⟩, locks := by rw [state], queue := same.trans queue, boxes := boxes }

end Sys2Proof.Machine
end
section
/-!
SUPPORT. Partners come and go (O25).
-/
namespace Sys2Proof.Machine

set_option Elab.async false in
theorem exec_partnerDeparture {s : State} {p : Fin 4} {cause : BitVec 4} (up : Running s) (here : portPresent s.fuses.grade p = true)
    (low : 1 ≤ cause.toNat) (high : cause.toNat ≤ 5) : exec (.partnerDeparture p cause) s =
      .next (if tunnelUp (s.desk.ports.at p) = true then
        portEvent s p (.departure cause :: if cause = 3 then [.arrival (tunnelGuest (s.desk.ports.at p))] else [])
      else s) := by
  have life : s.elec.life = .running := up
  simp only [exec, execPartnerDeparture, life, here, low, high, beq_self_eq_true, decide_true, Bool.true_and]

theorem servePort_departure {s : State} {p : Fin 4} (bound : (s.desk.ports.at p).guest.state = .bound) {cause : BitVec 4}
    {rest : List PortEvent} (first : (s.desk.ports.at p).events = .departure cause :: rest) :
    servePort s p = finishDeparture { s with desk := startDeparture s.desk p cause } p cause := by
  simp only [servePort, bound, first]

theorem finishDeparture_idle {s : State} {p : Fin 4} (idle : ∀ n : Fin 64, n.val % 4 = p.val → queueBusy s.desk n = false)
    (cause : BitVec 4) : finishDeparture s p cause = endDeparture s p cause := by
  refine if_neg ?_
  rw [List.any_eq_true]
  rintro ⟨n, mem, busy⟩
  rw [idle n (mem_portQueues.mp mem)] at busy
  exact absurd busy (by decide)

/-- The module as the departure of an idle partner leaves it, whose events were these. -/
structure PartnerGone (s u : State) (p : Fin 4) (cause : BitVec 4) (es : List PortEvent) : Prop where
  port : ∃ pba, u.desk.ports.at p =
    { leftPort (rtcOf s.desk) cause (departingPort cause { s.desk.ports.at p with events := .departure cause :: es }) with pba := pba }
  ports : ∀ q, q ≠ p → ∃ pba, u.desk.ports.at q = { s.desk.ports.at q with pba := pba }
  own : ∀ n : Fin 64, n.val % 4 = p.val → (u.desk.sqs.at n).enable = false ∧ (u.desk.cqs.at n).enable = false
  fences : ∀ f : Fin 256, f.val / 64 = p.val → (u.desk.fences.at f).value = 0xFFFFFFFFFFFFFFFF ∧ (u.desk.fences.at f).err = true
  others : ∀ f : Fin 256, f.val / 64 ≠ p.val → u.desk.fences.at f = s.desk.fences.at f
  locks : u.locks = freeLocks s.locks (partnerId p)
  queue : u.mbx.f2hQueue.at p = []
  boxes : (u.mbx.f2h.at p).full = false ∧ (u.mbx.h2f.at p).full = false
  mem : u.desk.mem = s.desk.mem
  head : u.desk.ledger.head = s.desk.ledger.head + 1

/-- The departure of an idle partner, all events of whose port are dealt with. -/
theorem partnerDeparture_gone {s : State} {p : Fin 4} (cause : BitVec 4) (awake : Awake s) (bound : (s.desk.ports.at p).guest.state = .bound)
    (quiet : (s.desk.ports.at p).events = [])
    (idle : ∀ n : Fin 64, n.val % 4 = p.val → queueBusy s.desk n = false ∧ openIndices (s.desk.sqs.at n) = [])
    (free : ∀ w ∈ s.desk.aborts, queuePort w.sq ≠ p) (es : List PortEvent) :
    ∃ u, portEvent s p (.departure cause :: es) = settle u ∧ PartnerGone s u p cause es := by
  have port : (withEvents s p (.departure cause :: es)).desk.ports.at p = { s.desk.ports.at p with events := .departure cause :: es } := by
    rw [withEvents_at, quiet]
    rfl
  have ports (q : Fin 4) (ne : q ≠ p) : (withEvents s p (.departure cause :: es)).desk.ports.at q = s.desk.ports.at q :=
    Tab.at_upd_ne _ _ _ _ ne
  obtain ⟨l, a, started, head⟩ := startDeparture_idle (d := (withEvents s p (.departure cause :: es)).desk) cause
    (fun n own => (idle n own).2) free
  rw [portEvent_awake awake, servePort_departure (cause := cause) (rest := es) (by rw [wake_desk, port]; exact bound) (by rw [wake_desk, port]),
    wake_desk, started, finishDeparture_idle]
  rotate_left
  · exact fun n own => (idle n own).1
  refine ⟨_, rfl, ?_⟩
  have left := endDeparture_left { wake 4 (withEvents s p (.departure cause :: es)) with
    desk := { (withEvents s p (.departure cause :: es)).desk with
      ports := (withEvents s p (.departure cause :: es)).desk.ports.upd p (departingPort cause), ledger := l, aborts := a } } p cause
  generalize endDeparture _ p cause = u at left ⊢
  obtain ⟨e, made, speaks, spoken⟩ := left.desk
  have kept : u.desk.sqs = e.sqs ∧ u.desk.cqs = e.cqs ∧ u.desk.fences = e.fences ∧ u.desk.mem = e.mem ∧ u.desk.ledger = e.ledger := by
    rw [speaks]
    exact ⟨rfl, rfl, rfl, rfl, rfl⟩
  obtain ⟨sqs, cqs, fences, mem, ledger⟩ := kept
  exact
    { port := ⟨_, by rw [spoken p, made.port, Tab.at_upd_same, port]; rfl⟩
      ports := fun q ne => ⟨_, by rw [spoken q, made.ports q ne, Tab.at_upd_ne _ _ _ _ ne, ports q ne]⟩
      own := by
        rw [sqs, cqs]
        exact made.own
      fences := by
        rw [fences]
        exact made.fences
      others := by
        rw [fences]
        exact made.others
      locks := left.locks.trans (by rw [wake_locks]; rfl)
      queue := left.queue
      boxes := left.boxes
      mem := mem.trans made.mem
      head := by rw [ledger, made.head, head]; rfl }

/-- Settles O25: `partnerArrival_taken`, `tickDesk_of_arriving` and `partnerDeparture_gone`; an event that must wait is kept at its port. -/
theorem partnersComeAndGo : Obligations.PartnersComeAndGo := by
  unfold Obligations.PartnersComeAndGo
  refine ⟨fun s p uuid topo mode up here => ⟨fun awake empty quiet => ?taken, fun down wait => ?waits, fun still => ?still⟩,
    fun s p awake none arriving quiet => ?binds,
    fun s p cause up here low high => ⟨fun down => ?down, fun awake bound quiet idle free => ?leaves, fun below tunnel => ?later⟩⟩
  case taken =>
    refine ⟨_, partnerArrival_taken here awake empty quiet ⟨uuid, topo, mode⟩, ?_⟩
    simp only [settle_desk_ports, settle_desk_sqs, settle_desk_cqs, settle_desk_fences, settle_desk_mem, settle_desk_slots, settle_mbx,
      settle_locks, settle_elec, wake_desk, wake_mbx, wake_locks, wake_elec]
    refine ⟨?_, fun q ne => ?_, rfl, rfl, rfl, rfl, rfl, rfl, rfl, rfl⟩
    · rw [Tab.at_upd_same, withEvents_at, quiet]
      simp only [arrivingPort, List.nil_append, List.drop_one, List.tail_cons]
    · rw [Tab.at_upd_ne _ _ _ _ ne]
      exact Tab.at_upd_ne _ _ _ _ ne
  case waits =>
    have same : portEvent s p [.arrival ⟨uuid, topo, mode⟩] = settle (wake 4 (withEvents s p [.arrival ⟨uuid, topo, mode⟩])) := by
      by_cases awake : Awake s
      · obtain ⟨departing, n, own, busy⟩ := wait.resolve_left (not_not_intro awake)
        rw [portEvent_awake awake, servePort_of_busy (n := n) _ own]
        · rw [wake_desk]
          exact busy
        · rw [wake_desk, withEvents_at]
          exact departing
      · exact portEvent_below awake p _
    refine ⟨_, (exec_partnerArrival up here uuid topo mode).trans (congrArg Host.Outcome.next
      ((if_neg (Bool.eq_false_iff.mp down)).trans same)), ?_⟩
    simp only [settle_desk_ports, settle_desk_sqs, settle_desk_fences, settle_desk_mem, settle_np_waking, wake_desk]
    refine ⟨withEvents_at s p _, rfl, rfl, rfl, fun below => waking_of_below up below⟩
  case still => rw [exec_partnerArrival up here, if_pos still]
  case binds =>
    have tick : step s = .next (settle (tickDesk (tickBegun s))) := by
      simp only [step, none]
      exact congrArg Host.Outcome.next ((clockTick_running awake.1).trans (if_pos (deskAwake_iff.mpr awake)))
    obtain ⟨u, only, bound⟩ := tickDesk_of_arriving (s := tickBegun s) arriving quiet (tickBegun_served s)
    refine ⟨_, tick, ?_⟩
    simp only [settle_desk_ports, settle_desk_sqs, settle_desk_cqs, settle_desk_fences, settle_desk_mem, settle_desk_slots,
      settle_desk_ledger, settle_mbx, settle_locks, settle_elec, settle_trng, settle_sec]
    generalize tickDesk (tickBegun s) = t at bound ⊢
    obtain ⟨state, ⟨desk, ports⟩, -, -⟩ := (tickBegun_only s).trans only
    have own : u.desk.ports.at p = { s.desk.ports.at p with pba := (u.desk.ports.at p).pba } := ports p
    have other (q : Fin 4) (ne : q ≠ p) : t.desk.ports.at q = { s.desk.ports.at q with pba := (u.desk.ports.at q).pba } :=
      (bound.ports q ne).trans (ports q)
    have now : rtcOf u.desk = (s.desk.now + 40) * 32768 / 1000000000 := by
      rw [rtcOf, desk]
      rfl
    have elec : u.elec = s.elec ∧ u.locks = s.locks ∧ u.trng = s.trng ∧ u.sec = s.sec := by
      rw [state]
      exact ⟨rfl, rfl, rfl, rfl⟩
    have sqs : u.desk.sqs = s.desk.sqs ∧ u.desk.cqs = s.desk.cqs ∧ u.desk.fences = s.desk.fences ∧ u.desk.slots = s.desk.slots ∧
        u.desk.mem.cells = s.desk.mem.cells ∧ u.desk.ledger = s.desk.ledger := by
      rw [desk]
      exact ⟨rfl, rfl, rfl, rfl, rfl, rfl⟩
    obtain ⟨elec, locks, trng, sec⟩ := elec
    obtain ⟨sqs, cqs, fences, slots, cells, ledger⟩ := sqs
    have kept : t.desk.slots = u.desk.slots ∧ t.desk.mem = u.desk.mem ∧ t.desk.ledger = u.desk.ledger := by
      rw [bound.desk]
      exact ⟨rfl, rfl, rfl⟩
    obtain ⟨slots', mem', ledger'⟩ := kept
    rw [bound.port, own, now]
    refine ⟨rfl, fun w => ?_, rfl, rfl, rfl, rfl, fun q ne => ?_, bound.own, fun n ne => ?_, bound.fences, fun f ne => ?_, bound.pair.1,
      bound.pair.2.1, bound.pair.2.2, slots'.trans slots, (congrArg Memory.cells mem').trans cells, ledger'.trans ledger, ?_⟩
    · simp only [boundPort, Tab.at_all, and_self]
    · rw [other q ne]
      exact ⟨rfl, rfl, rfl⟩
    · rw [← sqs, ← cqs]
      exact bound.queues n ne
    · rw [← fences]
      exact bound.others f ne
    · rw [bound.state]
      exact ⟨locks, trng, sec, elec⟩
  case down => rw [exec_partnerDeparture up here low high, if_neg (by rw [down]; decide)]
  case leaves =>
    have tunnel : tunnelUp (s.desk.ports.at p) = true := by rw [tunnelUp_of_quiet quiet, bound]; rfl
    have guest : tunnelGuest (s.desk.ports.at p) =
        ⟨(s.desk.ports.at p).guest.uuid, (s.desk.ports.at p).guest.topo, (s.desk.ports.at p).guest.linkMode⟩ := by
      simp only [tunnelGuest, quiet, List.getLast?_nil]
    obtain ⟨u, event, gone⟩ := partnerDeparture_gone cause awake bound quiet idle free
      (if cause = 3 then [.arrival (tunnelGuest (s.desk.ports.at p))] else [])
    refine ⟨_, (exec_partnerDeparture up here low high).trans (congrArg Host.Outcome.next ((if_pos tunnel).trans event)), ?_⟩
    simp only [settle_desk_ports, settle_desk_sqs, settle_desk_cqs, settle_desk_fences, settle_desk_mem, settle_desk_ledger, settle_mbx,
      settle_locks]
    obtain ⟨pba, own⟩ := gone.port
    rw [own, guest, gone.mem, gone.locks]
    refine ⟨rfl, rfl, rfl, rfl, rfl, rfl, fun w => ?_, fun q ne => ?_, gone.own, gone.fences, gone.others, fun n => Tab.at_map _ _ n,
      gone.queue, gone.boxes.1, gone.boxes.2, rfl, gone.head⟩
    · simp only [leftPort, Tab.at_all, and_self]
    · obtain ⟨pba, other⟩ := gone.ports q ne
      rw [other]
      exact ⟨rfl, rfl⟩
  case later =>
    refine ⟨_, (exec_partnerDeparture up here low high).trans (congrArg Host.Outcome.next ((if_pos tunnel).trans (portEvent_below below p _))), ?_⟩
    simp only [settle_desk_ports, settle_desk_sqs, settle_desk_fences, settle_np_waking, wake_desk]
    rw [withEvents_at]
    refine ⟨?_, rfl, rfl, rfl, waking_of_below up below⟩
    simp only [Port.leaves, List.any_append, List.any_cons, Bool.true_or, Bool.or_true]

end Sys2Proof.Machine
end
section
/-!
SUPPORT. The tray manager (R409, R410) and Night Porter's sample rounds (R325, R334).
-/
namespace Sys2Proof.Machine

/-! ## The tray manager -/

set_option Elab.async false in
theorem smbus_up {s : State} (up : isUp s = true) (f : State → State) : smbus s f = f s := if_pos up

theorem alertLow_iff {s : State} : alertLow s = true ↔ s.smb.latches &&& ~~~ (s.smb.mask.truncate 8) ≠ 0 := by
  rw [alertLow, bne_iff_ne]
  rfl

theorem trayCapOf_eq (g : Grade) (v : BitVec 16) :
    trayCapOf g v = if v = 0 then 0 else BitVec.ofNat 16 (max 400 (min (gradeWatts g) v.toNat)) := by
  unfold trayCapOf clampNpi
  split
  · rfl
  · congr 1

/-- Settles O27: each write as the tray manager makes it. -/
theorem trayManagerWritesTakeEffect : Obligations.TrayManagerWritesTakeEffect := by
  intro s v up
  simp only [exec, execTrayCap, execAlertMask, execAlertClear, execAlertResponse, smbus_up up, trayCapOf_eq]
  refine ⟨trivial, trivial, trivial, trivial, rfl, fun low => ?_, fun high => ?_⟩
  · rw [if_pos (alertLow_iff.mpr low)]
    rfl
  · rw [if_neg fun low => alertLow_iff.mp low high]

/-! ## What a round leaves alone -/

/-- Night Porter at its controller: its own registers and its messages, but not the samples, the values or the cap. -/
structure ClockOnly (s t : State) : Prop where
  state : t = { s with np := t.np, mbx := t.mbx }
  rounds : t.np.rounds = s.np.rounds
  raw : t.np.raw = s.np.raw
  y : t.np.y = s.np.y
  val : t.np.val = s.np.val
  cap : t.np.cap = s.np.cap

theorem ClockOnly.refl (s : State) : ClockOnly s s := ⟨rfl, rfl, rfl, rfl, rfl, rfl⟩

theorem ClockOnly.trans {s t u : State} (h : ClockOnly s t) (k : ClockOnly t u) : ClockOnly s u :=
  ⟨by rw [k.state, h.state], k.rounds.trans h.rounds, k.raw.trans h.raw, k.y.trans h.y, k.val.trans h.val, k.cap.trans h.cap⟩

theorem porterSays_eq (s : State) (type : Nat) (words : List Nat) : porterSays s type words =
    { s with mbx := { s.mbx with npFdQueue := s.mbx.npFdQueue ++ [⟨type, 0, words.map (BitVec.ofNat 32)⟩] } } := rfl

theorem porterSays_clock (s : State) (type : Nat) (words : List Nat) : ClockOnly s (porterSays s type words) := by
  rw [porterSays_eq]
  exact ⟨rfl, rfl, rfl, rfl, rfl, rfl⟩

theorem reportThrottle_clock (s : State) :
    ClockOnly s (reportThrottle s) ∧ (reportThrottle s).np.f = s.np.f ∧ (reportThrottle s).np.gate = s.np.gate := by
  unfold reportThrottle
  simp only
  split
  · exact ⟨⟨rfl, rfl, rfl, rfl, rfl, rfl⟩, rfl, rfl⟩
  · split
    · exact ⟨⟨rfl, rfl, rfl, rfl, rfl, rfl⟩, rfl, rfl⟩
    · exact ⟨ClockOnly.refl s, rfl, rfl⟩

theorem stepDown_clock (s : State) (f gate : Nat) (cap heat : Bool) : ClockOnly s (stepDown s f gate cap heat) ∧
    (stepDown s f gate cap heat).np.f = f ∧ (stepDown s f gate cap heat).np.gate = gate := by
  unfold stepDown
  simp only
  split <;> exact ⟨⟨rfl, rfl, rfl, rfl, rfl, rfl⟩, rfl, rfl⟩

theorem applyPlan_clock (s : State) : ClockOnly s (applyPlan s) := by
  unfold applyPlan
  split
  · exact ClockOnly.refl s
  · split
    · exact ClockOnly.refl s
    · simp only
      split <;> exact ⟨rfl, rfl, rfl, rfl, rfl, rfl⟩

theorem applyPlan_none {s : State} (none : s.np.pendSteps = none) : applyPlan s = s := by
  unfold applyPlan
  rw [none]

theorem tickController_only (s : State) : ClockOnly s (tickController s) := by
  unfold tickController
  simp only
  split
  · exact (reportThrottle_clock s).1
  · split
    · refine ClockOnly.trans ?_ (reportThrottle_clock _).1
      exact ⟨rfl, rfl, rfl, rfl, rfl, rfl⟩
    · split
      · refine ClockOnly.trans ?_ (reportThrottle_clock _).1
        exact ⟨rfl, rfl, rfl, rfl, rfl, rfl⟩
      · split
        · exact (reportThrottle_clock s).1
        · exact (stepDown_clock s _ _ _ _).1.trans (reportThrottle_clock _).1

/-- With no command of fixed timing, none in a timed region and no step asked for, the controller's step is made at once. -/
theorem tickController_free {s : State} (asked : stepAsked s.np = false) (timed : timedLive s.desk = false)
    (fixed : fixedLive s.desk = false) : (tickController s).np.f = (controller s.fuses.grade s.np s.np.f false).f ∧
    (tickController s).np.gate = (controller s.fuses.grade s.np s.np.f false).gate := by
  unfold tickController
  simp only [asked, timed, fixed, Bool.false_eq_true, if_false, Bool.false_and]
  split
  · obtain ⟨-, f, gate⟩ := reportThrottle_clock { s with
      np := { s.np with f := (controller s.fuses.grade s.np s.np.f false).f, gate := (controller s.fuses.grade s.np s.np.f false).gate } }
    exact ⟨f, gate⟩
  · obtain ⟨-, f, gate⟩ := reportThrottle_clock (stepDown s (controller s.fuses.grade s.np s.np.f false).f
      (controller s.fuses.grade s.np s.np.f false).gate (overCap s.np) (overHeat s.fuses.grade s.np))
    obtain ⟨-, f', gate'⟩ := stepDown_clock s (controller s.fuses.grade s.np s.np.f false).f
      (controller s.fuses.grade s.np s.np.f false).gate (overCap s.np) (overHeat s.fuses.grade s.np)
    exact ⟨f.trans f', gate.trans gate'⟩

theorem coolDown_clock (s : State) : ClockOnly s (coolDown s) ∧ (coolDown s).np.f = s.np.f ∧ (coolDown s).np.gate = s.np.gate :=
  ⟨⟨rfl, rfl, rfl, rfl, rfl, rfl⟩, rfl, rfl⟩

/-! ## The controller -/

theorem controller_planned {g : Grade} {p : Porter} (above : plannedClock p < p.f) :
    controller g p p.f false = ⟨plannedClock p, p.gate, false⟩ := if_pos above

theorem overCap_iff {p : Porter} : overCap p = true ↔ 1000 * (p.cap : Int) < p.val.at 101 := by
  rw [overCap, decide_eq_true_eq, Int.natCast_mul]
  rfl

theorem overHeat_iff {g : Grade} {p : Porter} : overHeat g p = true ↔ 95000 ≤ hottest g p 52 := by
  rw [overHeat, decide_eq_true_eq]

theorem mayRise_iff {g : Grade} {p : Porter} :
    mayRise g p = true ↔ p.val.at 101 < ((1000 * p.cap * 97 / 100 : Nat) : Int) ∧ hottest g p 52 < 92000 := by
  rw [mayRise, Bool.and_eq_true, decide_eq_true_eq, decide_eq_true_eq]

/-- Above the cap or its heat the clock does not rise. -/
theorem mayRise_of_over {g : Grade} {p : Porter} (beyond : overCap p = true ∨ overHeat g p = true) : mayRise g p = false := by
  rw [Bool.eq_false_iff, Ne, mayRise_iff]
  rintro ⟨low, cool⟩
  rcases beyond with h | h
  · have := overCap_iff.mp h
    omega
  · have := overHeat_iff.mp h
    omega

theorem controller_down {g : Grade} {p : Porter} (within : p.f ≤ plannedClock p) (beyond : overCap p = true ∨ overHeat g p = true) :
    (1000 < p.f → (controller g p p.f false).f = p.f - 25 ∧ (controller g p p.f false).gate = p.gate) ∧
    (p.f ≤ 1000 → (controller g p p.f false).f = p.f ∧
      (controller g p p.f false).gate = if p.gate < 8 then p.gate + 1 else p.gate) := by
  have down : (overCap p || overHeat g p) = true := (Bool.or_eq_true _ _).mpr beyond
  unfold controller
  simp only [if_neg (Nat.not_lt.mpr within), down, mayRise_of_over beyond, Bool.true_and, Bool.false_and, Bool.false_eq_true, if_false,
    decide_eq_true_eq]
  refine ⟨fun fast => ?_, fun slow => ?_⟩
  · rw [if_pos fast]
    exact ⟨rfl, rfl⟩
  · rw [if_neg (Nat.not_lt.mpr slow)]
    split <;> exact ⟨rfl, rfl⟩

theorem controller_up {g : Grade} {p : Porter} (within : p.f ≤ plannedClock p) (cap : overCap p = false) (heat : overHeat g p = false)
    (rise : mayRise g p = true) :
    (0 < p.gate → (controller g p p.f false).gate = p.gate - 1 ∧ (controller g p p.f false).f = p.f) ∧
    (p.gate = 0 → p.f < plannedClock p → (controller g p p.f false).f = p.f + 25 ∧ (controller g p p.f false).gate = 0) ∧
    (p.gate = 0 → p.f = plannedClock p → (controller g p p.f false).f = p.f ∧ (controller g p p.f false).gate = 0) := by
  unfold controller
  simp only [if_neg (Nat.not_lt.mpr within), cap, heat, rise, Bool.or_false, Bool.false_and, Bool.false_eq_true, if_false,
    Bool.not_false, Bool.and_true, Bool.true_and, decide_eq_true_eq]
  refine ⟨fun gated => ?_, fun free slow => ?_, fun free top => ?_⟩
  · rw [if_pos gated]
    exact ⟨rfl, rfl⟩
  · rw [if_neg (by omega), if_pos slow]
    exact ⟨rfl, free⟩
  · rw [if_neg (by omega), if_neg (by omega)]
    exact ⟨rfl, free⟩

/-! ## The round -/

/-- Night Porter's part of a round: the samples taken and the caps latched. -/
def roundTaken (s : State) (raw : List Word) : State := { s with np := latchCaps s.fuses.grade (sampleAll s raw) }

theorem exec_sampleRound {s : State} (up : Running s) (raw : List Word) : exec (.sampleRound raw) s =
    .next (if 1000000 * (s.np.rounds + 1) ≤ s.desk.now then settle (coolDown (tickController (applyPlan (roundTaken s raw)))) else s) := by
  have life : s.elec.life = .running := up
  simp only [exec, execSampleRound, life]
  rfl

theorem sampleAll_sampled {s : State} {n : Fin 128} (on : channelSampled s.fuses.grade n.val = true) (raw : List Word) (a : n.val ≠ 102)
    (b : n.val ≠ 103) : (sampleAll s raw).raw.at n = (raw.getD n.val 0).toInt ∧
    (sampleAll s raw).y.at n = some (filtered (s.np.filt.at n).toNat (s.np.y.at n) (raw.getD n.val 0).toInt) := by
  have link : ¬ (n.val = 102 ∨ n.val = 103) := fun h => h.elim a b
  have self : fin 128 n.val = n := Fin.ext (Nat.mod_eq_of_lt n.isLt)
  simp only [sampleAll, Tab.at_gen, on, if_true, rawSample, if_neg link, self, and_self]

theorem sampleAll_other {s : State} {n : Fin 128} (off : channelSampled s.fuses.grade n.val = false) (raw : List Word) :
    (sampleAll s raw).raw.at n = s.np.raw.at n ∧ (sampleAll s raw).y.at n = s.np.y.at n ∧
    (sampleAll s raw).val.at n = s.np.val.at n := by
  have self : fin 128 n.val = n := Fin.ext (Nat.mod_eq_of_lt n.isLt)
  simp only [sampleAll, Tab.at_gen, off, Bool.false_eq_true, if_false, self, and_self]

/-- Night Porter as the samples and the caps of a round leave it. -/
structure Sampled (s : State) (raw : List Word) (p : Porter) : Prop where
  rounds : p.rounds = s.np.rounds + 1
  on : ∀ n : Fin 128, channelSampled s.fuses.grade n.val = true → n.val ≠ 102 → n.val ≠ 103 → p.raw.at n = (raw.getD n.val 0).toInt ∧
    p.y.at n = some (filtered (s.np.filt.at n).toNat (s.np.y.at n) (raw.getD n.val 0).toInt)
  off : ∀ n : Fin 128, channelSampled s.fuses.grade n.val = false →
    p.raw.at n = s.np.raw.at n ∧ p.y.at n = s.np.y.at n ∧ p.val.at n = s.np.val.at n
  cap : p.cap = leastCap s.fuses.grade s.np
  clock : p.f = s.np.f ∧ p.gate = s.np.gate ∧ plannedClock p = plannedClock s.np
  free : stepAsked p = stepAsked s.np ∧ p.pendSteps = s.np.pendSteps

theorem roundTaken_sampled (s : State) (raw : List Word) : ∃ p, roundTaken s raw = { s with np := p } ∧ Sampled s raw p :=
  ⟨latchCaps s.fuses.grade (sampleAll s raw), by rw [roundTaken],
    { rounds := by simp only [latchCaps, sampleAll]
      on := fun _ on a b => sampleAll_sampled on raw a b
      off := fun _ off => sampleAll_other off raw
      cap := by simp only [latchCaps, sampleAll, leastCap]
      clock := by simp only [latchCaps, sampleAll, plannedClock, and_self]
      free := by simp only [latchCaps, sampleAll, stepAsked, and_self] }⟩

theorem filtered_eq (k : Nat) (y : Option Int) (x : Int) : filtered k y x = match y with
    | none => x
    | some y => y + (x - y) / 2 ^ k := by
  unfold filtered
  cases y with
  | none => rfl
  | some y => exact congrArg (fun z => y + (x - y) / z) (Int.natCast_pow 2 k)

/-- Settles O29: `roundTaken_sampled` for the filter, then `controller_planned`, `controller_down` and `controller_up` for the clock. -/
theorem samplesDriveTheClock : Obligations.SamplesDriveTheClock := by
  intro s raw up
  refine ⟨fun due => ?_, fun early => by rw [exec_sampleRound up, if_neg (Nat.not_le.mpr early)]⟩
  refine ⟨_, (exec_sampleRound up raw).trans (congrArg Host.Outcome.next (if_pos due)), ?_⟩
  obtain ⟨p, round, sampled⟩ := roundTaken_sampled s raw
  rw [round]
  have made := ((applyPlan_clock { s with np := p }).trans (tickController_only _)).trans (coolDown_clock _).1
  have clock (fixed : fixedLive s.desk = false) (timed : timedLive s.desk = false) (asked : stepAsked s.np = false)
      (none : s.np.pendSteps = none) :
      (coolDown (tickController (applyPlan { s with np := p }))).np.f = (controller s.fuses.grade p p.f false).f ∧
      (coolDown (tickController (applyPlan { s with np := p }))).np.gate = (controller s.fuses.grade p p.f false).gate := by
    rw [applyPlan_none (s := { s with np := p }) (sampled.free.2.trans none), (coolDown_clock _).2.1, (coolDown_clock _).2.2]
    exact tickController_free (s := { s with np := p }) (sampled.free.1.trans asked) timed fixed
  generalize coolDown (tickController (applyPlan { s with np := p })) = t at made clock ⊢
  obtain ⟨state, rounds, samples, y, val, cap⟩ := made
  have life : t.elec.life = .running := by
    rw [state]
    exact up
  have desk : t.desk = s.desk := by rw [state]
  have rest : t.locks = s.locks ∧ t.trng = s.trng ∧ t.sec = s.sec := by
    rw [state]
    exact ⟨rfl, rfl, rfl⟩
  simp only [settle_np_rounds, settle_np_raw, settle_np_y, settle_np_val, settle_np_cap, settle_np_gate, settle_desk_mem, settle_desk_sqs,
    settle_desk_slots, settle_locks, settle_trng, settle_sec, (settle_clock life).2, hottest]
  rw [rounds, samples, y, val, cap, desk]
  refine ⟨sampled.rounds, fun n on a b => ?_, sampled.off, sampled.cap, fun fixed timed asked none => ?_, rfl, rfl, rfl, rest⟩
  · obtain ⟨sample, filter⟩ := sampled.on n on a b
    exact ⟨sample, filter.trans (congrArg some (filtered_eq _ _ _))⟩
  · rw [if_neg (by rw [fixed]; rintro ⟨h, -⟩; exact absurd h (by decide))]
    obtain ⟨f, gate⟩ := clock fixed timed asked none
    obtain ⟨f', gate', plan⟩ := sampled.clock
    rw [f, gate, ← f', ← gate', ← plan]
    refine ⟨fun above => ?_, fun within => ⟨fun beyond => ?_, fun cap heat low cool => ?_⟩⟩
    · rw [controller_planned above]
      exact ⟨rfl, rfl⟩
    · exact controller_down within (beyond.imp overCap_iff.mpr overHeat_iff.mpr)
    · exact controller_up within (Bool.eq_false_iff.mpr fun h => Int.not_lt.mpr cap (overCap_iff.mp h))
        (Bool.eq_false_iff.mpr fun h => Int.not_le.mpr heat (overHeat_iff.mp h)) (mayRise_iff.mpr ⟨low, cool⟩)

end Sys2Proof.Machine
end
section
/-!
SUPPORT. Night Porter's messages as they are taken, the limiter and clock stops (R186, R335, R337), and trips (R338, R339).
-/
namespace Sys2Proof.Machine

/-! ## A message from Night Porter is taken -/

set_option Elab.async false in
theorem ackMail_np (s : State) (v : Word) : (ackMail s .npToFd v).np = s.np := by
  unfold ackMail
  cases takes v (boxAt s.mbx .npToFd) with
  | true =>
    simp only [receiverBell, bellAt, if_true]
    exact ring_np _ _ _
  | false =>
    simp only [receiverBell, bellAt, Bool.false_eq_true, if_false]

theorem takePorter_np (s : State) (code : Nat) : (takePorter s code).np = s.np := by
  rw [takePorter, takeMail_eq, ackMail_np]

theorem boxAt_npToFd (m : Mailboxes) : boxAt m .npToFd = m.npToFd := rfl

theorem takePorter_only (s : State) (code : Nat) : OnlyMail s (takePorter s code) := takeMail_only s .npToFd code

theorem takePorter_sqs (s : State) (code : Nat) : (takePorter s code).desk.sqs = s.desk.sqs := by
  rw [(takePorter_only s code).2.1.1]

theorem takePorter_aborts (s : State) (code : Nat) : (takePorter s code).desk.aborts = s.desk.aborts := by
  rw [(takePorter_only s code).2.1.1]

theorem takePorter_mem (s : State) (code : Nat) : (takePorter s code).desk.mem = s.desk.mem := by
  rw [(takePorter_only s code).2.1.1]

theorem takePorter_now (s : State) (code : Nat) : (takePorter s code).desk.now = s.desk.now := by
  rw [(takePorter_only s code).2.1.1]

theorem takePorter_elec (s : State) (code : Nat) : (takePorter s code).elec = s.elec := by
  rw [(takePorter_only s code).1]

theorem takePorter_box {s : State} {code : Nat} (small : code < 65536) (full : s.mbx.npToFd.full = true) :
    (takePorter s code).mbx.npToFd = { s.mbx.npToFd with full := false, ackValid := true, ack := takeWord code s.mbx.npToFd.seq } := by
  rw [takePorter, ← boxAt_npToFd, ← boxAt_npToFd]
  rw [← boxAt_npToFd] at full
  exact boxAt_takeMail small full

theorem takeWord_code {code : Nat} (small : code < 65536) (seq : BitVec 8) : (takeWord code seq).toNat % 65536 = code := by
  have := seq.isLt
  rw [takeWord_toNat small]
  omega

theorem porterMail_of {s : State} {type : Nat} (awake : Awake s) (full : s.mbx.npToFd.full = true) (mail : mailType s.mbx.npToFd = type) :
    porterMail s type = some s.mbx.npToFd := by
  refine if_pos ?_
  simp only [deskAwake_iff.mpr awake, full, mail, beq_self_eq_true, Bool.and_self]

/-! ## What the clock for fixed timing depends on -/

theorem fixedLive_congr {d e : Desk} (sqs : e.sqs = d.sqs) (aborts : e.aborts = d.aborts) : fixedLive e = fixedLive d := by
  unfold fixedLive liveCmds
  rw [sqs, aborts]

/-- A module whose TCLK has been set for the commands under way keeps its clock as what follows an event. -/
theorem settle_f_of_held {s : State} (up : Running s) (held : s.np.fixedHold = fixedLive s.desk) : (settle s).np.f = s.np.f := by
  rw [(settle_clock up).2, held]
  exact if_neg fun h => by rw [h.1] at h; exact absurd h.2 (by decide)

/-! ## Timed regions -/

/-- A command inside its timed region, told to stop. -/
def timedStop (now : Nat) (c : Cmd) : Cmd := if inTimed c then askStop now .timing c else c

theorem breakTiming_at (d : Desk) (n : Fin 64) :
    (breakTiming d).sqs.at n = { d.sqs.at n with cur := (d.sqs.at n).cur.map (timedStop d.now) } := Tab.at_map _ _ n

theorem askStop_fixed (now : Nat) (k : Stop) (c : Cmd) : (askStop now k c).fixed = c.fixed := by
  unfold askStop
  split <;> rfl

theorem timedStop_fixed (now : Nat) (c : Cmd) : (timedStop now c).fixed = c.fixed := by
  unfold timedStop
  split
  · exact askStop_fixed now .timing c
  · rfl

theorem any_toList_map (o : Option Cmd) (now : Nat) :
    ((o.map (timedStop now)).toList.any fun c => c.fixed) = o.toList.any fun c => c.fixed := by
  cases o with
  | none => rfl
  | some c => simp only [Option.map_some, Option.toList_some, List.any_cons, List.any_nil, timedStop_fixed]

theorem fixedLive_breakTiming (d : Desk) : fixedLive (breakTiming d) = fixedLive d := by
  have cmds : ((liveCmds (breakTiming d)).any fun x => x.2.fixed) = (liveCmds d).any fun x => x.2.fixed := by
    simp only [liveCmds, List.any_flatMap, List.any_map, Function.comp_def, breakTiming_at, List.any_append, any_toList_map]
  have launches : ((breakTiming d).sqs.toList.any fun q => q.launch.any fun l => l.cmd.fixed) =
      d.sqs.toList.any fun q => q.launch.any fun l => l.cmd.fixed := by
    simp only [breakTiming, Vector.toList_map, List.any_map, Function.comp_def]
  rw [fixedLive, cmds, launches]
  rfl

/-! ## The limiter and clock stops -/

theorem stepDown_unasked {s : State} (none : s.np.asked = none) (f gate : Nat) (cap heat : Bool) :
    (stepDown s f gate cap heat).np.asked = .none ∧ (stepDown s f gate cap heat).np.fixedHold = s.np.fixedHold ∧
    (stepDown s f gate cap heat).mbx.npToFd = s.mbx.npToFd := by
  unfold stepDown
  simp only
  split <;> exact ⟨none, rfl, rfl⟩

/-- The step that was asked for, made. -/
theorem makeStep_made {s : State} (up : Running s) {f gate t : Nat} {cap heat : Bool} (asked : s.np.asked = some (.clockStop f gate t cap heat))
    (held : s.np.fixedHold = fixedLive s.desk) : (settle (makeStep s)).np.f = f ∧ (settle (makeStep s)).np.gate = gate ∧
    (settle (makeStep s)).np.asked = none ∧ (settle (makeStep s)).mbx.npToFd = s.mbx.npToFd ∧ (settle (makeStep s)).desk.sqs = s.desk.sqs := by
  have step : makeStep s = stepDown { s with np := { s.np with asked := none } } f gate cap heat := by
    rw [makeStep, asked]
  obtain ⟨only, clock, gated⟩ := stepDown_clock { s with np := { s.np with asked := none } } f gate cap heat
  obtain ⟨free, same, box⟩ := stepDown_unasked (s := { s with np := { s.np with asked := none } }) rfl f gate cap heat
  rw [step]
  generalize stepDown { s with np := { s.np with asked := none } } f gate cap heat = u at only clock gated free same box ⊢
  have desk : u.desk = s.desk := by rw [only.state]
  have life : Running u := by
    rw [Running, only.state]
    exact up
  rw [settle_f_of_held life (by rw [same, desk]; exact held), settle_np_gate, settle_np_asked, settle_mbx, settle_desk_sqs, desk]
  exact ⟨clock, gated, free, box, rfl⟩

theorem exec_limiterEngage {s : State} (up : Running s) : exec .limiterEngage s = .next (if s.np.limiter = true then s else settle { s with
    np := { s.np with limiter := true, limiterAt := s.desk.now, limiterCount := min 0xFFFFFFFF (s.np.limiterCount + 1) }
    desk := breakTiming s.desk }) := by
  have life : s.elec.life = .running := up
  simp only [exec, execLimiterEngage, life, beq_self_eq_true, Bool.true_and]
  cases s.np.limiter <;> rfl

theorem exec_limiterRelease {s : State} (up : Running s) (engaged : s.np.limiter = true) : exec .limiterRelease s =
    .next (if s.np.limiterAt + 1000000 ≤ s.desk.now then settle { s with np := { s.np with limiter := false } } else s) := by
  have life : s.elec.life = .running := up
  simp only [exec, execLimiterRelease, life, engaged, beq_self_eq_true, Bool.true_and, decide_eq_true_eq]

theorem exec_clockStop {s : State} {x : Box} (mail : porterMail s 3 = some x) : exec .clockStop s =
    .next (if timedLive s.desk = true then settle { s with desk := breakTiming s.desk } else settle (makeStep (takePorter s 0))) := by
  simp only [exec, execClockStop, mail]

theorem exec_clockStopTimeout {s : State} (up : Running s) {f gate t : Nat} {cap heat : Bool}
    (asked : s.np.asked = some (.clockStop f gate t cap heat)) : exec .clockStopTimeout s =
      .next (if t + 2000000 ≤ s.desk.now then settle (makeStep { s with desk := breakTiming s.desk }) else s) := by
  have life : s.elec.life = .running := up
  simp only [exec, execClockStopTimeout, asked, life, beq_self_eq_true, Bool.true_and, decide_eq_true_eq]

/-- Settles O30: the limiter's two events, and `makeStep_made` for the step that was asked for. -/
theorem limiterAndClockStops : Obligations.LimiterAndClockStops := by
  intro s up
  refine ⟨fun free => by rw [exec_limiterEngage up, if_neg (by rw [free]; decide)], fun on => by rw [exec_limiterEngage up, if_pos on],
    fun on due => by rw [exec_limiterRelease up on, if_pos due],
    fun on early => by rw [exec_limiterRelease up on, if_neg (Nat.not_le.mpr early)],
    fun f gate t cap heat asked held => ⟨fun awake full mail => ⟨fun none => ?stop, fun timed => ?waits⟩, fun due => ?late,
      fun early => by rw [exec_clockStopTimeout up asked, if_neg (Nat.not_le.mpr early)]⟩, fun n c cur => ?region⟩
  case stop =>
    obtain ⟨clock, gated, free, box, sqs⟩ := makeStep_made (s := takePorter s 0) (f := f) (gate := gate) (t := t) (cap := cap) (heat := heat)
      (by rw [Running, takePorter_elec]; exact up) (by rw [takePorter_np]; exact asked)
      (by rw [takePorter_np, fixedLive_congr (takePorter_sqs s 0) (takePorter_aborts s 0)]; exact held)
    refine ⟨_, (exec_clockStop (porterMail_of awake full mail)).trans (congrArg Host.Outcome.next (if_neg (by rw [none]; decide))),
      clock, gated, free, ?_⟩
    rw [box, sqs, takePorter_sqs, takePorter_box (by decide) full]
    exact ⟨rfl, rfl, rfl⟩
  case waits => rw [exec_clockStop (porterMail_of awake full mail), if_pos timed]
  case late =>
    obtain ⟨clock, gated, free, -, sqs⟩ := makeStep_made (s := { s with desk := breakTiming s.desk }) up asked
      (held.trans (fixedLive_breakTiming s.desk).symm)
    exact ⟨_, (exec_clockStopTimeout up asked).trans (congrArg Host.Outcome.next (if_pos due)), clock, gated, free, sqs⟩
  case region =>
    rw [breakTiming_at, cur]
    rfl

end Sys2Proof.Machine
end
section
/-!
SUPPORT. Thermal trips (R338, R339).
-/
namespace Sys2Proof.Machine

set_option Elab.async false in
/-- A message that Front Desk has taken is gone from its mailbox, and its code is there. -/
theorem takePorter_full {s : State} {code : Nat} (small : code < 65536) (full : s.mbx.npToFd.full = true) :
    (takePorter s code).mbx.npToFd.full = false := by
  rw [takePorter_box small full]

theorem takePorter_code {s : State} {code : Nat} (small : code < 65536) (full : s.mbx.npToFd.full = true) :
    (takePorter s code).mbx.npToFd.ack.toNat % 65536 = code := by
  rw [takePorter_box small full]
  exact takeWord_code small _

/-! ## The queues, one after another -/

/-- Work on one queue after another, of which each step changes the command under way of its own queue alone. -/
theorem foldl_cur {f : Desk → Fin 64 → Desk} (others : ∀ d n m, m ≠ n → ((f d n).sqs.at m).cur = (d.sqs.at m).cur) (l : List (Fin 64))
    (d : Desk) {m : Fin 64} (out : m ∉ l) : ((l.foldl f d).sqs.at m).cur = (d.sqs.at m).cur := by
  induction l generalizing d with
  | nil => rfl
  | cons n l ih =>
    rw [List.foldl_cons, ih _ (List.not_mem_of_not_mem_cons out)]
    exact others d n m (List.ne_of_not_mem_cons out)

theorem foldl_keeps {f : Desk → Fin 64 → Desk} {held : Desk → Prop} (keeps : ∀ d n, held d → held (f d n)) (l : List (Fin 64)) {d : Desk}
    (h : held d) : held (l.foldl f d) := by
  induction l generalizing d with
  | nil => exact h
  | cons n l ih => exact ih (keeps d n h)

/-- What each step makes of the command of its queue, all queues done, while what all steps keep holds. -/
theorem foldl_queues_where {f : Desk → Fin 64 → Desk} {held : Desk → Prop} {made : Option Cmd → Option Cmd → Prop}
    (keeps : ∀ d n, held d → held (f d n)) (others : ∀ d n m, m ≠ n → ((f d n).sqs.at m).cur = (d.sqs.at m).cur)
    (own : ∀ d n, held d → made (d.sqs.at n).cur ((f d n).sqs.at n).cur) {d : Desk} (h : held d) (n : Fin 64) :
    made (d.sqs.at n).cur ((((List.range 64).map (fin 64)).foldl f d).sqs.at n).cur := by
  have all : n ∈ (List.range 64).map (fin 64) := List.mem_map.mpr ⟨n.val, List.mem_range.mpr n.isLt, Fin.ext (Nat.mod_eq_of_lt n.isLt)⟩
  have once : ((List.range 64).map (fin 64)).Nodup := by
    refine List.pairwise_map.mpr (List.Pairwise.imp_of_mem (fun {x y} xs ys apart same => apart ?_) List.nodup_range)
    have vals := congrArg Fin.val same
    exact (Nat.mod_eq_of_lt (List.mem_range.mp xs)).symm.trans (vals.trans (Nat.mod_eq_of_lt (List.mem_range.mp ys)))
  obtain ⟨a, b, split⟩ := List.append_of_mem all
  rw [split] at once ⊢
  obtain ⟨-, tail, apart⟩ := List.nodup_append.mp once
  rw [List.foldl_append, List.foldl_cons, foldl_cur others b _ (List.nodup_cons.mp tail).1,
    ← foldl_cur others a d fun mem => apart n mem n List.mem_cons_self rfl]
  exact own _ n (foldl_keeps keeps a h)

/-- What each step makes of the command of its queue, all queues done. -/
theorem foldl_queues_cur {f : Desk → Fin 64 → Desk} {made : Option Cmd → Option Cmd → Prop}
    (others : ∀ d n m, m ≠ n → ((f d n).sqs.at m).cur = (d.sqs.at m).cur)
    (own : ∀ d n, made (d.sqs.at n).cur ((f d n).sqs.at n).cur) (d : Desk) (n : Fin 64) :
    made (d.sqs.at n).cur ((((List.range 64).map (fin 64)).foldl f d).sqs.at n).cur :=
  foldl_queues_where (held := fun _ => True) (fun _ _ => id) others (fun d n _ => own d n) trivial n

theorem setCur_same (d : Desk) (n : Fin 64) (c : Option Cmd) : ((setCur d n c).sqs.at n).cur = c := by
  rw [setCur, Tab.at_upd_same]

theorem setCur_ne (d : Desk) {n m : Fin 64} (c : Option Cmd) (h : m ≠ n) : (setCur d n c).sqs.at m = d.sqs.at m := Tab.at_upd_ne _ _ _ _ h

/-! ## Held, freed and dropped -/

theorem holdCmd_due {d : Desk} {n : Fin 64} {c : Cmd} (cur : (d.sqs.at n).cur = some c)
    (due : (onTiles c && (c.stage == .dispatched || c.stage == .working)) = true) :
    (holdCmd d n).sqs = (setCur d n (some { c with stage := .held, resumedAt := d.now })).sqs := by
  simp only [holdCmd, cur, if_pos due]
  repeat' split
  all_goals rfl

theorem holdCmd_others (d : Desk) (n m : Fin 64) (h : m ≠ n) : ((holdCmd d n).sqs.at m).cur = (d.sqs.at m).cur := by
  cases cur : (d.sqs.at n).cur with
  | none => simp only [holdCmd, cur]
  | some c =>
    by_cases due : (onTiles c && (c.stage == .dispatched || c.stage == .working)) = true
    · rw [holdCmd_due cur due, setCur_ne _ _ h]
    · simp only [holdCmd, cur, if_neg due]

/-- A tile command with work before it is held; its packet and its stop stay. -/
def Holds (a b : Option Cmd) : Prop :=
  ∀ c, a = some c → onTiles c = true → c.stage = .dispatched ∨ c.stage = .working →
    ∃ c', b = some c' ∧ c'.stage = .held ∧ c'.pkt = c.pkt ∧ c'.stop = c.stop

theorem holdCmd_holds (d : Desk) (n : Fin 64) : Holds (d.sqs.at n).cur ((holdCmd d n).sqs.at n).cur := by
  intro c cur tile stage
  have due : (onTiles c && (c.stage == .dispatched || c.stage == .working)) = true := by
    rcases stage with h | h <;> simp only [tile, h] <;> rfl
  rw [holdCmd_due cur due, setCur_same]
  exact ⟨_, rfl, rfl, rfl, rfl⟩

/-- No command is held that Front Desk has freed. -/
def Frees (_ b : Option Cmd) : Prop := ∀ c, b = some c → c.stage ≠ .held

theorem askStop_stage (now : Nat) (k : Stop) (c : Cmd) : (askStop now k c).stage = c.stage := by
  unfold askStop
  split <;> rfl

theorem askStop_pkt (now : Nat) (k : Stop) (c : Cmd) : (askStop now k c).pkt = c.pkt := by
  unfold askStop
  split <;> rfl

/-- Under any stop that a caller makes of it, the command goes on. -/
theorem unholdCmd_cur (d : Desk) (n : Fin 64) : Frees (d.sqs.at n).cur ((unholdCmd d n).sqs.at n).cur := by
  intro c cur
  unfold unholdCmd at cur
  cases was : (d.sqs.at n).cur with
  | none =>
    simp only [was] at cur
    cases cur
  | some x =>
    simp only [was] at cur
    split at cur
    case isFalse other =>
      rw [was] at cur
      cases cur
      exact other
    case isTrue =>
      repeat' split at cur
      all_goals
        rw [setCur_same] at cur
        cases cur
        simp only [askStop_stage]
        decide

theorem unholdCmd_others (d : Desk) (n m : Fin 64) (h : m ≠ n) : ((unholdCmd d n).sqs.at m).cur = (d.sqs.at m).cur := by
  unfold unholdCmd
  simp only
  repeat' split
  all_goals first
    | rfl
    | exact congrArg Sq.cur (setCur_ne _ _ h)

/-- A held command of a module that has latched off is told to stop for good. -/
def Drops (a b : Option Cmd) : Prop :=
  ∀ c, a = some c → c.stage = .held → ∃ c' k, b = some c' ∧ c'.pkt = c.pkt ∧ c'.stop = some k ∧ terminal (some k) = true

theorem askStop_terminal (now : Nat) (c : Cmd) : ∃ k, (askStop now .lastSpare c).stop = some k ∧ terminal (some k) = true := by
  unfold askStop
  split
  · exact ⟨_, rfl, rfl⟩
  · exact ⟨_, rfl, rfl⟩
  · exact ⟨_, rfl, rfl⟩
  · next k slice replay stop =>
    refine ⟨k, stop, ?_⟩
    unfold terminal
    split
    · next h => cases h
    · next h => exact absurd (Option.some.inj h) slice
    · next h => exact absurd (Option.some.inj h) replay
    · rfl

theorem dropHeld_drops (d : Desk) (n : Fin 64) : Drops (d.sqs.at n).cur ((dropHeld d n).sqs.at n).cur := by
  intro c cur held
  obtain ⟨k, stop, final⟩ := askStop_terminal d.now c
  simp only [dropHeld, cur, held, true_or, if_true, setCur_same]
  exact ⟨_, k, rfl, askStop_pkt d.now .lastSpare c, stop, final⟩

theorem dropHeld_others (d : Desk) (n m : Fin 64) (h : m ≠ n) : ((dropHeld d n).sqs.at m).cur = (d.sqs.at m).cur := by
  unfold dropHeld
  split
  · rfl
  · split
    · rw [setCur_ne _ _ h]
    · rfl

/-! ## The events -/

theorem tripDies_told (s : State) : ∃ more, tripDies s = { s with
    desk := { s.desk with tclkOff := true }
    np := { s.np with
      tripHold := true, tripLatched := decide (3 ≤ (tripsNow s.np s.desk.now).length), trips := satAdd 8 s.np.trips 1
      tripTimes := tripsNow s.np s.desk.now, coolSince := none, asked := none }
    mbx := { s.mbx with npFdQueue := s.mbx.npFdQueue ++ ⟨5, 0, [0]⟩ :: more } } := by
  unfold tripDies
  simp only [porterSays_eq]
  split
  · exact ⟨[⟨5, 0, [2]⟩], by simp only [List.append_assoc]; rfl⟩
  · exact ⟨[], rfl⟩

theorem tripsNow_latch (p : Porter) (now : Nat) : decide (3 ≤ (tripsNow p now).length) =
    decide (2 ≤ (p.tripTimes.filter fun x => now ≤ x + 3600000000000).length) := by
  rw [tripsNow, List.length_cons, decide_eq_decide]
  omega

theorem exec_thermalTrip {s : State} (up : Running s) :
    exec .thermalTrip s = .next (if s.np.tripHold = true then s else settle (tripDies s)) := by
  have life : s.elec.life = .running := up
  simp only [exec, execThermalTrip, life, beq_self_eq_true, Bool.true_and]
  cases s.np.tripHold <;> rfl

theorem exec_tripRestore_due {s : State} (up : Running s) {since : Nat} (hold : s.np.tripHold = true) (latched : s.np.tripLatched = false)
    (cool : s.np.coolSince = some since) (due : since + 1000000000 ≤ s.desk.now) : exec .tripRestore s =
      .next (settle (wake 9 (porterSays { s with
        desk := { s.desk with tclkOff := false }, np := { s.np with tripHold := false, coolSince := none } } 5 [1]))) := by
  have life : s.elec.life = .running := up
  refine congrArg Host.Outcome.next (if_pos ?_)
  simp only [life, hold, latched, cool, due, beq_self_eq_true, Bool.and_self, Bool.not_false, decide_true]

theorem exec_tripRestore_not {s : State} (no : s.np.tripHold = false ∨ s.np.tripLatched = true ∨ s.np.coolSince = none) :
    exec .tripRestore s = .next s := by
  refine congrArg Host.Outcome.next (if_neg ?_)
  rcases no with h | h | h <;> simp only [h, Bool.and_false, Bool.false_and, Bool.not_true, Bool.false_eq_true, not_false_eq_true]

theorem wake_tripHold (code : BitVec 4) (s : State) : (wake code s).np.tripHold = s.np.tripHold := by
  unfold wake
  simp only
  repeat' split
  all_goals rfl

theorem exec_trip_tripped {s : State} {x : Box} (mail : porterMail s 5 = some x) (word : mailWord x 1 = 0) :
    exec .trip s = .next (settle { takePorter s 0 with desk := holdAll (takePorter s 0).desk }) := by
  simp only [exec, execTrip, mail, word]

theorem exec_trip_restored {s : State} {x : Box} (mail : porterMail s 5 = some x) (word : mailWord x 1 = 1) :
    exec .trip s = .next (settle { takePorter s 0 with desk := unholdAll (takePorter s 0).desk }) := by
  simp only [exec, execTrip, mail, word]

theorem exec_trip_latched {s : State} {x : Box} (mail : porterMail s 5 = some x) (word : mailWord x 1 = 2) : exec .trip s =
    .next (settle (noticeAll { takePorter s 0 with desk := latchTrip (takePorter s 0).desk } 1 0xFFFFFFFF none)) := by
  simp only [exec, execTrip, mail, word]

/-- What a fold over the queues leaves of Front Desk's own marks. -/
theorem foldl_desk {β : Type} {f : Desk → Fin 64 → Desk} {g : Desk → β} (same : ∀ d n, g (f d n) = g d) (l : List (Fin 64)) (d : Desk) :
    g (l.foldl f d) = g d := by
  induction l generalizing d with
  | nil => rfl
  | cons n l ih => rw [List.foldl_cons, ih, same]

theorem holdCmd_hold (d : Desk) (n : Fin 64) : (holdCmd d n).tripHold = d.tripHold := by
  unfold holdCmd
  simp only
  repeat' split
  all_goals rfl

theorem unholdCmd_hold (d : Desk) (n : Fin 64) : (unholdCmd d n).tripHold = d.tripHold := by
  unfold unholdCmd
  simp only
  repeat' split
  all_goals rfl

theorem dropHeld_latched (d : Desk) (n : Fin 64) : (dropHeld d n).tripLatched = d.tripLatched := by
  unfold dropHeld
  repeat' split
  all_goals rfl

theorem noticeAll_desk (s : State) (code arg : Nat) (but : Option (Fin 4)) : (noticeAll s code arg but).desk = s.desk := by
  rw [noticeAll]
  generalize List.filter _ _ = l
  induction l generalizing s with
  | nil => rfl
  | cons p l ih =>
    obtain ⟨q, post, -⟩ := noticeTo_post code arg s p
    rw [List.foldl_cons, ih, post]

theorem holdAll_hold (d : Desk) : (holdAll d).tripHold = true := by
  rw [holdAll, foldl_desk (g := Desk.tripHold) holdCmd_hold]

theorem unholdAll_hold (d : Desk) : (unholdAll d).tripHold = false := by
  rw [unholdAll, foldl_desk (g := Desk.tripHold) unholdCmd_hold]

theorem latchTrip_latched (d : Desk) : (latchTrip d).tripLatched = true := by
  rw [latchTrip, foldl_desk (g := Desk.tripLatched) dropHeld_latched]

theorem holdAll_holds (d : Desk) (n : Fin 64) : Holds (d.sqs.at n).cur ((holdAll d).sqs.at n).cur :=
  foldl_queues_cur (made := Holds) holdCmd_others holdCmd_holds { d with tripHold := true } n

theorem unholdAll_frees (d : Desk) (n : Fin 64) : Frees (d.sqs.at n).cur ((unholdAll d).sqs.at n).cur :=
  foldl_queues_cur (made := Frees) unholdCmd_others unholdCmd_cur { d with tripHold := false } n

theorem latchTrip_drops (d : Desk) (n : Fin 64) : Drops (d.sqs.at n).cur ((latchTrip d).sqs.at n).cur :=
  foldl_queues_cur (made := Drops) dropHeld_others dropHeld_drops { d with tripHold := false, tripLatched := true } n

/-- Settles O31: the trip and the restore by their conditions, and at the message what each queue's command becomes. -/
theorem tripsHoldTheDies : Obligations.TripsHoldTheDies := by
  intro s up
  refine ⟨fun free => ?trips, fun hold => by rw [exec_thermalTrip up, if_pos hold], fun since hold latched cool due => ?restores,
    fun no => exec_tripRestore_not no, fun awake full mail => ⟨fun zero => ?holds, fun one => ?frees, fun two => ?latches⟩⟩
  case trips =>
    obtain ⟨more, told⟩ := tripDies_told s
    refine ⟨_, (exec_thermalTrip up).trans (congrArg Host.Outcome.next (if_neg (by rw [free]; decide))), ?_⟩
    simp only [settle_np_tripHold, settle_np_trips, settle_desk_tclkOff, settle_np_asked, settle_np_tripLatched, settle_mbx, settle_desk_sqs,
      settle_desk_slots, settle_desk_mem]
    rw [told]
    exact ⟨rfl, rfl, rfl, rfl, tripsNow_latch s.np s.desk.now, ⟨more, rfl⟩, rfl, rfl, rfl⟩
  case restores =>
    refine ⟨_, exec_tripRestore_due up hold latched cool due, ?_⟩
    simp only [settle_np_tripHold, settle_desk_tclkOff, settle_mbx, settle_desk_sqs, wake_tripHold, wake_desk, wake_mbx]
    exact ⟨rfl, rfl, rfl, rfl⟩
  case holds =>
    refine ⟨_, exec_trip_tripped (porterMail_of awake full mail) zero, ?_⟩
    have sqs := takePorter_sqs s 0
    have taken := takePorter_full (code := 0) (by decide) full
    obtain ⟨u, same⟩ : ∃ u, takePorter s 0 = u := ⟨_, rfl⟩
    rw [same] at sqs taken ⊢
    rw [settle_desk_tripHold, settle_mbx, settle_desk_sqs]
    refine ⟨holdAll_hold u.desk, taken, fun n c cur tile stage => ?_⟩
    obtain ⟨o, op, on⟩ := tile
    have here : onTiles c = true := by simp only [onTiles, op, on]
    exact holdAll_holds u.desk n c (by rw [sqs]; exact cur) here stage
  case frees =>
    refine ⟨_, exec_trip_restored (porterMail_of awake full mail) one, ?_⟩
    simp only [settle_desk_tripHold, settle_desk_sqs]
    exact ⟨unholdAll_hold _, unholdAll_frees _⟩
  case latches =>
    have sqs := takePorter_sqs s 0
    have latched := latchTrip_latched (takePorter s 0).desk
    refine ⟨_, exec_trip_latched (porterMail_of awake full mail) two, ?_⟩
    simp only [tileServed, settle_desk_tripLatched, settle_desk_sqs, noticeAll_desk, latched, Bool.not_true, Bool.false_and, true_and,
      implies_true]
    generalize takePorter s 0 = u at sqs ⊢
    exact fun n c cur held => latchTrip_drops u.desk n c (by rw [sqs]; exact cur) held

end Sys2Proof.Machine
end
section
/-!
SUPPORT. Descents and wakes (R327 to R332), re-plans (R340 to R342), and the messages between Night Porter and Front Desk (R343).
-/
namespace Sys2Proof.Machine

/-! ## The descent timer -/

set_option Elab.async false in
/-- A timer that starts now counts from now when the event has settled. -/
theorem settle_timer_now {s : State} (up : s.elec.life = .running) (now : s.np.timer = s.desk.now) :
    (settle s).np.timer = s.desk.now := by
  obtain ⟨fab, sent, marks, keep, since, spoken⟩ := spoken_eq s
  rw [settle_of_running up, spoken]
  generalize state : settleClock _ = u
  have clock : u.np.timer = s.np.timer ∧ u.desk.now = s.desk.now := by
    rw [← state]
    unfold settleClock
    split
    · split <;> exact ⟨rfl, rfl⟩
    · exact ⟨rfl, rfl⟩
  have power : (settlePower u).np.timer = s.desk.now ∧ (settlePower u).desk.now = s.desk.now := by
    unfold settlePower
    split
    · split
      · exact ⟨clock.1.trans now, clock.2⟩
      · exact ⟨clock.2, clock.2⟩
    · split <;> exact ⟨clock.1.trans now, clock.2⟩
    · exact ⟨clock.1.trans now, clock.2⟩
  change (settleTimer (settlePower u)).np.timer = s.desk.now
  unfold settleTimer
  split
  · exact power.1
  · exact power.2

theorem exec_descentTimerExpiry_due {s : State} {k : Nat} (up : Running s) (free : s.np.asked = none) (still : s.np.waking = false)
    (due : descentDue s = some k) : exec .descentTimerExpiry s =
      .next (settle (porterSays { s with np := { s.np with asked := some (.descend k) } } 2 [k])) := by
  have life : s.elec.life = .running := up
  simp only [exec, execDescentTimerExpiry, life, free, still, due, beq_self_eq_true, Option.isNone_none, Bool.not_false, Bool.and_self,
    if_true]

theorem exec_descentTimerExpiry_not {s : State} (no : s.np.asked ≠ none ∨ s.np.waking = true ∨ descentDue s = none) :
    exec .descentTimerExpiry s = .next s := by
  refine congrArg Host.Outcome.next ?_
  rcases no with asked | waking | none
  · refine if_neg fun h => asked (Option.isNone_iff_eq_none.mp ?_)
    simp only [Bool.and_eq_true] at h
    exact h.1.2
  · refine if_neg fun h => ?_
    rw [waking, Bool.not_true, Bool.and_false] at h
    exact absurd h (by decide)
  · simp only [none, ite_self]

theorem descendTo_state (s : State) (target : Nat) : ∃ slots, descendTo s target = { s with
    np := { s.np with state := stateOf target, timer := s.desk.now, asked := none }, desk := { s.desk with slots := slots } } := by
  unfold descendTo
  simp only
  split
  · exact ⟨_, rfl⟩
  · exact ⟨s.desk.slots, rfl⟩

theorem exec_descend {s : State} {k : Nat} (up : Running s) (full : s.mbx.npToFd.full = true) (mail : mailType s.mbx.npToFd = 2)
    (word : (s.mbx.npToFd.msg.at 1).toNat = k) (asked : s.np.asked = some (.descend k)) : exec .descend s =
      .next (if descentHolds (takePorter s 0) k = true then settle (descendTo (takePorter s 0) k)
        else settle { takePorter s 3 with np := { s.np with asked := none, timer := s.desk.now } }) := by
  have life : s.elec.life = .running := up
  have target : mailWord s.mbx.npToFd 1 = k := word
  simp only [exec, execDescend, life, full, mail, target, asked, beq_self_eq_true, Bool.and_self, if_true]

/-- The descent that Front Desk allows. -/
theorem descendTo_settled {s : State} {k : Nat} (up : Running s) (low : 2 ≤ k) (high : k ≤ 4) :
    (settle (descendTo s k)).np.state = (match (generalizing := false) k with | 2 => .nap | 3 => .doze | _ => .night) ∧ (settle (descendTo s k)).np.asked = none ∧
    (settle (descendTo s k)).mbx = s.mbx ∧ (settle (descendTo s k)).desk.mem = s.desk.mem ∧ (settle (descendTo s k)).desk.sqs = s.desk.sqs := by
  obtain ⟨slots, made⟩ := descendTo_state s k
  rw [made, settle_state_below, settle_np_asked, settle_mbx, settle_desk_mem, settle_desk_sqs]
  · refine ⟨?_, rfl, rfl, rfl, rfl⟩
    obtain rfl | rfl | rfl : k = 2 ∨ k = 3 ∨ k = 4 := by omega
    all_goals rfl
  · exact up
  all_goals
    obtain rfl | rfl | rfl : k = 2 ∨ k = 3 ∨ k = 4 := by omega
    all_goals exact PState.noConfusion

/-- The refusal of a descent: the timer starts again. -/
theorem descent_refused {s : State} (up : Running s) (p : Porter) :
    let t := settle { s with np := { p with asked := none, timer := s.desk.now } }
    t.np.asked = none ∧ t.np.timer = s.desk.now ∧ t.mbx = s.mbx ∧ (p.state ≠ .active → p.state ≠ .idle → t.np.state = p.state) := by
  refine ⟨settle_np_asked _, settle_timer_now up rfl, settle_mbx _, fun active idle => ?_⟩
  rw [settle_state_below]
  · exact up
  · exact active
  · exact idle

/-! ## Wakes -/

theorem stillWakes {p : Porter} (no : p.waking = false ∨ (p.tripHold = true ∧ p.tripLatched = false ∧ p.left = 4)) : mayWake p = false := by
  rcases no with waking | ⟨hold, latched, left⟩
  · rw [mayWake, waking, Bool.false_and]
  · rw [mayWake, hold, latched, left]
    exact Bool.and_false _

theorem mayWake_of {p : Porter} (waking : p.waking = true) (free : p.tripHold = false ∨ p.tripLatched = true ∨ p.left ≠ 4) :
    mayWake p = true := by
  unfold mayWake
  rcases free with h | h | h
  · rw [waking, h]
    rfl
  · rw [waking, h, Bool.not_true, Bool.and_false, Bool.false_and]
    rfl
  · have left : (p.left == 4) = false := beq_eq_false_iff_ne.mpr h
    rw [waking, left, Bool.and_false]
    rfl

/-- Front Desk after a wake from a state. -/
def deskWoken (s : State) : Desk := drainAll (if s.np.left = 4 && !s.np.tripHold then afterNight s.desk else s.desk)

theorem exec_wakeComplete {s : State} (up : Running s) : exec .wakeComplete s = .next (if mayWake s.np = true then
    settle (porterSays { s with
      np := { s.np with state := .idle, waking := false, timer := s.desk.now, memPaths := [] }, desk := deskWoken s }
      7 [s.np.wakeCause.toNat, s.np.left]) else s) := by
  have life : s.elec.life = .running := up
  simp only [exec, execWakeComplete, life, beq_self_eq_true, Bool.true_and]
  rfl

theorem exec_memPathSleep {s : State} (up : Running s) : exec .memPathSleep s = .next { s with np := { s.np with
    memPaths := s.np.memPaths.filter fun x => decide (s.desk.now < x.2 + 1000000) } } := by
  have life : s.elec.life = .running := up
  simp only [exec, execMemPathSleep, life, beq_self_eq_true, if_true]

theorem settle_awake {s : State} (up : s.elec.life = .running) (idle : s.np.state = .idle) : Awake (settle s) := by
  refine ⟨(congrArg Electrical.life (settle_elec s)).trans up, ?_⟩
  rw [settle_state_awake up (.inr idle)]
  split
  · exact .inl rfl
  · exact .inr rfl

/-- Settles O32: `descendTo_settled`, `descent_refused` and `exec_wakeComplete`. -/
theorem descentsAndWakes : Obligations.DescentsAndWakes := by
  intro s up
  refine ⟨fun k free still due => ?asks, fun no => exec_descentTimerExpiry_not no,
    fun k low high full mail word asked => ⟨fun holds => ?down, fun refuses => ?refused⟩,
    fun waking free => ?wakes, fun no => by rw [exec_wakeComplete up, if_neg (by rw [stillWakes no]; decide)], exec_memPathSleep up⟩
  case asks =>
    refine ⟨_, exec_descentTimerExpiry_due up free still due, ?_⟩
    rw [settle_np_asked, settle_mbx, settle_desk_sqs, porterSays_eq]
    exact ⟨rfl, rfl, rfl⟩
  case down =>
    refine ⟨_, (exec_descend up full mail word asked).trans (congrArg Host.Outcome.next (if_pos holds)), ?_⟩
    have life : Running (takePorter s 0) := by rw [Running, takePorter_elec]; exact up
    have taken := takePorter_full (code := 0) (by decide) full
    have code := takePorter_code (code := 0) (by decide) full
    have mem := takePorter_mem s 0
    have sqs := takePorter_sqs s 0
    obtain ⟨u, same⟩ : ∃ u, takePorter s 0 = u := ⟨_, rfl⟩
    rw [same] at life taken code mem sqs ⊢
    obtain ⟨state, asked, mbx, mem', sqs'⟩ := descendTo_settled life low high
    rw [mbx, mem', sqs']
    exact ⟨state, asked, taken, code, mem, sqs⟩
  case refused =>
    refine ⟨_, (exec_descend up full mail word asked).trans (congrArg Host.Outcome.next (if_neg (by rw [refuses]; decide))), ?_⟩
    have life : Running (takePorter s 3) := by rw [Running, takePorter_elec]; exact up
    have taken := takePorter_full (code := 3) (by decide) full
    have code := takePorter_code (code := 3) (by decide) full
    have now := takePorter_now s 3
    obtain ⟨u, same⟩ : ∃ u, takePorter s 3 = u := ⟨_, rfl⟩
    rw [same] at life taken code now ⊢
    rw [← now]
    obtain ⟨asked, timer, mbx, state⟩ := descent_refused life s.np
    rw [mbx]
    exact ⟨asked, timer, taken, code, state⟩
  case wakes =>
    refine ⟨_, (exec_wakeComplete up).trans (congrArg Host.Outcome.next (if_pos (mayWake_of waking free))), ?_⟩
    rw [porterSays_eq]
    refine ⟨settle_awake up rfl, ?_⟩
    rw [settle_np_waking, settle_np_memPaths, settle_mbx]
    exact ⟨rfl, rfl, rfl⟩

end Sys2Proof.Machine
end
section
/-!
SUPPORT. Re-plans and Night Porter's restart (R340 to R342), and the messages between Night Porter and Front Desk (R343).
-/
namespace Sys2Proof.Machine

/-! ## The plan -/

/-- A plan that is within 30 mV and 1,500 MHz, in whole steps. -/
structure PlanFits (p : Plan) : Prop where
  volts : p.voff ≤ 30
  step : p.voff % 5 = 0
  clock : 1500 ≤ p.fp ∧ p.fp ≤ 2000 ∧ p.fp % 25 = 0

/-- A plan that relaxes nothing of another. -/
def NoRelax (p q : Plan) : Prop := PlanFits q ∧ p.voff ≤ q.voff ∧ q.fp ≤ p.fp

set_option Elab.async false in
theorem planVolts_fits (ms : List Nat) (fuel : Nat) {p : Plan} (fits : PlanFits p) : NoRelax p (planVolts ms fuel p) := by
  induction fuel generalizing p with
  | zero => exact ⟨fits, Nat.le_refl _, Nat.le_refl _⟩
  | succ fuel ih =>
    rw [planVolts]
    split
    · next more =>
      obtain ⟨volts, step, clock⟩ := fits
      obtain ⟨fits, up, down⟩ := ih (p := ⟨p.fp, p.voff + 5, p.n + 1, leastSlack ms p.fp (p.voff + 5) p.n⟩)
        ⟨show p.voff + 5 ≤ 30 by omega, show (p.voff + 5) % 5 = 0 by omega, clock⟩
      exact ⟨fits, Nat.le_of_add_right_le up, down⟩
    · exact ⟨fits, Nat.le_refl _, Nat.le_refl _⟩

theorem planClock_fits (ms : List Nat) (fuel : Nat) {p : Plan} (fits : PlanFits p) : NoRelax p (planClock ms fuel p) := by
  induction fuel generalizing p with
  | zero => exact ⟨fits, Nat.le_refl _, Nat.le_refl _⟩
  | succ fuel ih =>
    rw [planClock]
    split
    · next more =>
      obtain ⟨volts, step, low, high, whole⟩ := fits
      obtain ⟨fits, up, down⟩ := ih (p := ⟨p.fp - 25, p.voff, p.n + 1, leastSlack ms (p.fp - 25) p.voff p.n⟩)
        ⟨volts, step, show 1500 ≤ p.fp - 25 by omega, show p.fp - 25 ≤ 2000 by omega, show (p.fp - 25) % 25 = 0 by omega⟩
      exact ⟨fits, up, Nat.le_trans down (Nat.sub_le _ _)⟩
    · exact ⟨fits, Nat.le_refl _, Nat.le_refl _⟩

/-- R340: a plan as revised relaxes nothing of what it starts from. -/
theorem replan_fits (ms : List Nat) {voff steps : Nat} (n : Nat) (volts : voff ≤ 30) (step : voff % 5 = 0) (low : steps ≤ 20) :
    PlanFits (replan ms voff steps n) ∧ voff ≤ (replan ms voff steps n).voff ∧ (replan ms voff steps n).fp ≤ 2000 - 25 * steps := by
  obtain ⟨fits, up, down⟩ := planVolts_fits ms 6 (p := ⟨2000 - 25 * steps, voff, n + 1, leastSlack ms (2000 - 25 * steps) voff n⟩)
    ⟨volts, step, show 1500 ≤ 2000 - 25 * steps by omega, show 2000 - 25 * steps ≤ 2000 by omega, show (2000 - 25 * steps) % 25 = 0 by omega⟩
  obtain ⟨fits', up', down'⟩ := planClock_fits ms 20 fits
  exact ⟨fits', Nat.le_trans up up', Nat.le_trans down' down⟩

theorem planVolts_volts (ms : List Nat) (fuel : Nat) {p : Plan} (volts : p.voff ≤ 30) (step : p.voff % 5 = 0) :
    (planVolts ms fuel p).voff ≤ 30 ∧ p.voff ≤ (planVolts ms fuel p).voff := by
  induction fuel generalizing p with
  | zero => exact ⟨volts, Nat.le_refl _⟩
  | succ fuel ih =>
    rw [planVolts]
    split
    · next more =>
      obtain ⟨top, up⟩ := ih (p := ⟨p.fp, p.voff + 5, p.n + 1, leastSlack ms p.fp (p.voff + 5) p.n⟩)
        (show p.voff + 5 ≤ 30 by omega) (show (p.voff + 5) % 5 = 0 by omega)
      exact ⟨top, Nat.le_of_add_right_le up⟩
    · exact ⟨volts, Nat.le_refl _⟩

theorem planClock_voff (ms : List Nat) (fuel : Nat) (p : Plan) : (planClock ms fuel p).voff = p.voff := by
  induction fuel generalizing p with
  | zero => rfl
  | succ fuel ih =>
    rw [planClock]
    split
    · exact ih _
    · rfl

/-- Of any number of steps the voltage does not fall and stays within 30 mV. -/
theorem replan_volts (ms : List Nat) {voff : Nat} (steps n : Nat) (volts : voff ≤ 30) (step : voff % 5 = 0) :
    voff ≤ (replan ms voff steps n).voff ∧ (replan ms voff steps n).voff ≤ 30 := by
  obtain ⟨top, up⟩ := planVolts_volts ms 6 (p := ⟨2000 - 25 * steps, voff, n + 1, leastSlack ms (2000 - 25 * steps) voff n⟩) volts step
  rw [replan, planClock_voff]
  exact ⟨up, top⟩

/-- A lower clock that waits for a tick is a lower clock, within 20 steps. -/
theorem replan_steps (ms : List Nat) {voff steps : Nat} (n : Nat) (volts : voff ≤ 30) (step : voff % 5 = 0) (low : steps ≤ 20)
    (new : (replan ms voff steps n).steps ≠ steps) : steps < (replan ms voff steps n).steps ∧ (replan ms voff steps n).steps ≤ 20 := by
  obtain ⟨fits, -, down⟩ := replan_fits ms n volts step low
  obtain ⟨least, most, whole⟩ := fits.clock
  unfold Plan.steps at new ⊢
  omega

/-- Night Porter with a plan as revised. -/
def planMade (s : State) : State :=
  let p := replan (monitors s.fuses.grade s.desk) s.np.voff (s.np.pendSteps.getD s.np.steps) s.desk.freeCtr
  porterSays { s with
    desk := { s.desk with freeCtr := p.n }
    np := { s.np with
      voff := p.voff, worst := p.least.2, plans := satAdd 8 s.np.plans 1, planDue := false
      pendSteps := if p.steps = s.np.steps then none else some p.steps } } 4 [p.voff, p.fp]

theorem exec_ageingReplan {s : State} (up : Running s) :
    exec .ageingReplan s = .next (if s.np.planDue = true ∧ diesUp s.np = true then settle (planMade s) else s) := by
  have life : s.elec.life = .running := up
  simp only [exec, execAgeingReplan, life, beq_self_eq_true, Bool.true_and, Bool.and_eq_true]
  rfl

theorem exec_npWatchdog {s : State} (up : Running s) : exec .npWatchdog s = .next (settle (restartPorter s)) := by
  have life : s.elec.life = .running := up
  simp only [exec, execNpWatchdog, life, beq_self_eq_true, if_true]

theorem planMade_eq (s : State) : ∃ n worst fp, planMade s = { s with
    desk := { s.desk with freeCtr := n }
    np := { s.np with
      voff := (replan (monitors s.fuses.grade s.desk) s.np.voff (s.np.pendSteps.getD s.np.steps) s.desk.freeCtr).voff
      worst := worst, plans := min 255 (s.np.plans + 1), planDue := false
      pendSteps :=
        if (replan (monitors s.fuses.grade s.desk) s.np.voff (s.np.pendSteps.getD s.np.steps) s.desk.freeCtr).steps = s.np.steps then none
        else some (replan (monitors s.fuses.grade s.desk) s.np.voff (s.np.pendSteps.getD s.np.steps) s.desk.freeCtr).steps }
    mbx := { s.mbx with npFdQueue := s.mbx.npFdQueue ++ [⟨4, 0, fp⟩] } } := ⟨_, _, _, rfl⟩

/-- Settles O33: `replan_volts` and `replan_steps` for the plan; a restart touches neither the clock nor the values. -/
theorem replanNeverRelaxes : Obligations.ReplanNeverRelaxes := by
  intro s up
  refine ⟨fun due dies volts step => ?plan, fun no => ?still, ?dog⟩
  case plan =>
    obtain ⟨n, worst, fp, made⟩ := planMade_eq s
    refine ⟨_, (exec_ageingReplan up).trans (congrArg Host.Outcome.next (if_pos ⟨due, dies⟩)), ?_⟩
    rw [made]
    simp only [settle_np_voff, settle_np_planDue, settle_np_plans, settle_np_steps, settle_np_pendSteps, settle_mbx, settle_desk_sqs,
      settle_desk_mem]
    obtain ⟨rise, top⟩ := replan_volts (monitors s.fuses.grade s.desk) (s.np.pendSteps.getD s.np.steps) s.desk.freeCtr volts step
    refine ⟨rise, top, trivial, trivial, trivial, fun held => ?_, fun none low k pend => ?_, ⟨_, rfl, rfl⟩, trivial, trivial⟩
    · rw [settle_f_of_held]
      · exact up
      · exact held.trans (fixedLive_congr rfl rfl).symm
    · rw [none] at pend
      split at pend
      · cases pend
      · next new =>
        cases pend
        exact replan_steps (monitors s.fuses.grade s.desk) s.desk.freeCtr volts step low new
  case still =>
    rw [exec_ageingReplan up, if_neg]
    rintro ⟨due, dies⟩
    rcases no with h | h
    · rw [h] at due
      exact absurd due (by decide)
    · rw [h] at dies
      exact absurd dies (by decide)
  case dog =>
    refine ⟨_, exec_npWatchdog up, ?_⟩
    rw [restartPorter]
    simp only [settle_np_npRestart, settle_np_y, settle_np_val, settle_np_gate, settle_np_asked, settle_desk_sqs, settle_desk_mem,
      settle_mbx, Tab.at_all, true_and, implies_true, and_true]
    intro held
    rw [settle_f_of_held]
    · exact up
    · exact held

/-! ## Messages -/

theorem queueAt_takeMail (s : State) (b : BoxId) (code : Nat) (x : BoxId) : queueAt (takeMail s b code).mbx x = queueAt s.mbx x := by
  rw [takeMail_eq]
  generalize takeWord code (boxAt s.mbx b).seq = v
  cases took : takes v (boxAt s.mbx b) with
  | true =>
    rw [ackMail_mbx_of_takes took, queueAt_ring]
    unfold mailCleared
    split
    · exact queueAt_updBox _ _ _ _
    · rw [queueAt_setBell, queueAt_updBox]
    · exact queueAt_updBox _ _ _ _
  | false => rw [ackMail_mbx_of_stale took, queueAt_updBox]

theorem exec_sensorReq {s : State} (up : Running s) (full : s.mbx.fdToNp.full = true) (mail : mailType s.mbx.fdToNp = 1) :
    exec .sensorReq s = .next (settle (postMail (takeMail s .fdToNp 0) .npToFd
      ⟨0x81, mailTag s.mbx.fdToNp, sensorWords s (fin 128 (mailWord s.mbx.fdToNp 1))⟩)) := by
  have life : s.elec.life = .running := up
  simp only [exec, execSensorReq, life, full, mail, beq_self_eq_true, Bool.and_self, if_true]

theorem postMail_porter (s : State) (m : Mail) :
    postMail s .npToFd m = { s with mbx := { s.mbx with npFdQueue := s.mbx.npFdQueue ++ [m] } } := rfl

theorem postMail_host {s : State} {p : Fin 4} (room : ¬ 8 ≤ (s.mbx.f2hQueue.at p).length) (m : Mail) :
    postMail s (.f2h p) m = { s with mbx := { s.mbx with f2hQueue := s.mbx.f2hQueue.put p (s.mbx.f2hQueue.at p ++ [m]) } } := if_neg room

/-- What a partner's queue holds after a notice to all. -/
def noticed (s : State) (p : Fin 4) (code arg : Nat) : List Mail :=
  if (s.desk.ports.at p).guest.state = .bound ∧ repliesDue s.mbx p < 8 then
    s.mbx.f2hQueue.at p ++ [⟨0x82, 0, [BitVec.ofNat 32 code, BitVec.ofNat 32 arg]⟩]
  else s.mbx.f2hQueue.at p

theorem noticeTo_noticed (code arg : Nat) (s : State) (p : Fin 4) : (noticeTo code arg s p).mbx.f2hQueue.at p = noticed s p code arg := by
  have condition : ((s.desk.ports.at p).guest.state == .bound && decide (repliesDue s.mbx p < 8)) = true ↔
      (s.desk.ports.at p).guest.state = .bound ∧ repliesDue s.mbx p < 8 := by
    rw [Bool.and_eq_true, beq_iff_eq, decide_eq_true_eq]
  unfold noticeTo noticed
  by_cases due : (s.desk.ports.at p).guest.state = .bound ∧ repliesDue s.mbx p < 8
  · have room : ¬ 8 ≤ (s.mbx.f2hQueue.at p).length := by
      have := due.2
      unfold repliesDue at this
      omega
    rw [if_pos (condition.mpr due), if_pos due]
    rw [postMail_host room]
    exact Tab.at_put_same _ _ _
  · rw [if_neg (mt condition.mp due), if_neg due]

theorem noticed_other (code arg : Nat) (s : State) {p q : Fin 4} (ne : q ≠ p) :
    noticed (noticeTo code arg s p) q code arg = noticed s q code arg := by
  obtain ⟨queues, post, keep⟩ := noticeTo_post code arg s p
  rw [post]
  unfold noticed repliesDue
  simp only
  rw [keep q ne]

theorem foldl_noticed (code arg : Nat) {l : List (Fin 4)} (once : l.Nodup) (s : State) {p : Fin 4} (mem : p ∈ l) :
    (l.foldl (noticeTo code arg) s).mbx.f2hQueue.at p = noticed s p code arg := by
  induction l generalizing s with
  | nil => exact absurd mem List.not_mem_nil
  | cons x l ih =>
    obtain ⟨out, once⟩ := List.nodup_cons.mp once
    rw [List.foldl_cons]
    by_cases same : p = x
    · subst same
      obtain ⟨q, post, keep⟩ := foldl_noticeTo code arg l (noticeTo code arg s p) out
      rw [post]
      exact keep.trans (noticeTo_noticed code arg s p)
    · rw [ih once _ ((List.mem_cons.mp mem).resolve_left same), noticed_other code arg s same]

theorem noticeAll_noticed (s : State) (code arg : Nat) (p : Fin 4) :
    (noticeAll s code arg none).mbx.f2hQueue.at p = noticed s p code arg := by
  have once : ((List.range 4).map (fin 4)).Nodup := by decide
  rw [noticeAll, foldl_noticed code arg (once.filter _) s (List.mem_filter.mpr ⟨?_, rfl⟩)]
  exact List.mem_map.mpr ⟨p.val, List.mem_range.mpr p.isLt, Fin.ext (Nat.mod_eq_of_lt p.isLt)⟩

/-- Notices are posted, and that is all. -/
theorem noticeAll_posts (s : State) (code arg : Nat) (but : Option (Fin 4)) :
    ∃ q, noticeAll s code arg but = { s with mbx := { s.mbx with f2hQueue := q } } := by
  rw [noticeAll]
  generalize List.filter _ _ = l
  induction l generalizing s with
  | nil => exact ⟨_, rfl⟩
  | cons p l ih =>
    obtain ⟨q, post, -⟩ := noticeTo_post code arg s p
    obtain ⟨r, rest⟩ := ih (noticeTo code arg s p)
    exact ⟨r, by rw [List.foldl_cons, rest, post]⟩

theorem exec_sensorVal {s : State} {x : Box} (mail : porterMail s 0x81 = some x) :
    exec .sensorVal s = .next (settle (passValue (takePorter s 0) x)) := by
  simp only [exec, execSensorVal, mail]

theorem exec_plan {s : State} {x : Box} (mail : porterMail s 4 = some x) : exec .plan s = .next (settle (takePorter s 0)) := by
  simp only [exec, execPlan, mail]

theorem exec_woke {s : State} {x : Box} (mail : porterMail s 7 = some x) : exec .woke s = .next (settle (takePorter s 0)) := by
  simp only [exec, execWoke, mail]

theorem exec_noticeReq {s : State} {x : Box} (mail : porterMail s 6 = some x) :
    exec .noticeReq s = .next (settle (noticeAll (takePorter s 0) (mailWord x 1) (mailWord x 2) none)) := by
  simp only [exec, execNoticeReq, mail]

end Sys2Proof.Machine
end
section
/-!
SUPPORT. Messages between Night Porter and Front Desk (O34).
-/
namespace Sys2Proof.Machine

set_option Elab.async false in
/-- A message that Night Porter has taken, and what it answers. -/
theorem boxAt_fdToNp (m : Mailboxes) : boxAt m .fdToNp = m.fdToNp := rfl

theorem takeMail_fdToNp {s : State} {code : Nat} (small : code < 65536) (full : s.mbx.fdToNp.full = true) :
    (takeMail s .fdToNp code).mbx.fdToNp.full = false ∧ (takeMail s .fdToNp code).mbx.fdToNp.ackValid = true ∧
    (takeMail s .fdToNp code).mbx.fdToNp.ack.toNat % 65536 = code := by
  rw [← boxAt_fdToNp] at full
  rw [← boxAt_fdToNp (takeMail s .fdToNp code).mbx, boxAt_takeMail small full]
  exact ⟨rfl, rfl, takeWord_code small _⟩

theorem takeMail_npFdQueue (s : State) (b : BoxId) (code : Nat) : (takeMail s b code).mbx.npFdQueue = s.mbx.npFdQueue :=
  queueAt_takeMail s b code .npToFd

theorem takePorter_queues (s : State) (code : Nat) :
    (takePorter s code).mbx.f2hQueue = s.mbx.f2hQueue ∧ (takePorter s code).mbx.asks = s.mbx.asks := by
  obtain ⟨f2h, _, asks, _⟩ := takeMail_posts s .npToFd code
  exact ⟨f2h, asks⟩

/-- A value that a host has asked for goes to its queue. -/
theorem passValue_found {s : State} {x : Box} {p : Fin 4} {tag : Nat} (found : s.mbx.asks.find? (fun a => a.1 == mailTag x) = some (mailTag x, p, tag))
    (room : (s.mbx.f2hQueue.at p).length < 8) : ∃ asks, passValue s x = { s with mbx := { s.mbx with
      asks := asks
      f2hQueue := s.mbx.f2hQueue.put p (s.mbx.f2hQueue.at p ++ [⟨0x81, tag, [x.msg.at 1, x.msg.at 2, x.msg.at 3, x.msg.at 4, x.msg.at 5]⟩]) } } := by
  refine ⟨s.mbx.asks.filter fun y => y.1 != mailTag x, ?_⟩
  unfold passValue
  rw [found]
  exact postMail_host (s := { s with mbx := { s.mbx with asks := s.mbx.asks.filter fun y => y.1 != mailTag x } }) (Nat.not_le.mpr room) _

/-- Front Desk takes a message of Night Porter's that asks nothing of it. -/
theorem takePorter_settled {s : State} (full : s.mbx.npToFd.full = true) : (settle (takePorter s 0)).mbx.npToFd.full = false ∧
    (settle (takePorter s 0)).mbx.npToFd.ack.toNat % 65536 = 0 ∧ (settle (takePorter s 0)).mbx.f2hQueue = s.mbx.f2hQueue ∧
    OnlyMail s (settle (takePorter s 0)) := by
  rw [settle_mbx]
  exact ⟨takePorter_full (by decide) full, takePorter_code (by decide) full, (takePorter_queues s 0).1, (takePorter_only s 0).settled⟩

theorem sensorValue_passed {s u : State} {p : Fin 4} {q : Tab 4 (List Mail)} {l : List Mail} {asks : List (Nat × Fin 4 × Nat)}
    (only : OnlyMail s u) (taken : u.mbx.npToFd.full = false) (queues : u.mbx.f2hQueue = q) :
    let t := settle { u with mbx := { u.mbx with asks := asks, f2hQueue := u.mbx.f2hQueue.put p l } }
    t.mbx.npToFd.full = false ∧ t.mbx.f2hQueue.at p = l ∧ (∀ x, x ≠ p → t.mbx.f2hQueue.at x = q.at x) ∧ OnlyMail s t := by
  simp only
  rw [settle_mbx]
  refine ⟨taken, Tab.at_put_same _ _ _, fun x ne => ?_, (only.trans (OnlyMail.mbx u _)).settled⟩
  rw [← queues]
  exact Tab.at_put_ne _ _ _ _ ne

theorem notices_sent {s u : State} (only : OnlyMail s u) (taken : u.mbx.npToFd.full = false) (queues : u.mbx.f2hQueue = s.mbx.f2hQueue)
    (asks : u.mbx.asks = s.mbx.asks) (code arg : Nat) : let t := settle (noticeAll u code arg none)
    t.mbx.npToFd.full = false ∧ (∀ p, t.mbx.f2hQueue.at p = noticed s p code arg) ∧ OnlyMail s t := by
  have told := noticeAll_noticed u code arg
  obtain ⟨q, posted⟩ := noticeAll_posts u code arg none
  simp only
  rw [settle_mbx]
  refine ⟨by rw [posted]; exact taken, fun p => ?_, ?_⟩
  · rw [told p]
    unfold noticed repliesDue
    rw [queues, asks, only.2.1.2 p]
  · rw [posted]
    exact (only.trans (OnlyMail.mbx u _)).settled

/-- Settles O34: each message is taken, and what follows of it is posted. -/
theorem porterMessagesAreServed : Obligations.PorterMessagesAreServed := by
  intro s
  refine ⟨fun up full mail => ?req, fun awake full => ⟨fun p tag mail found room => ?val, fun mail => ?plan, fun mail => ?woke, fun mail => ?notice⟩⟩
  case req =>
    refine ⟨_, exec_sensorReq up full mail, ?_⟩
    obtain ⟨taken, valid, code⟩ := takeMail_fdToNp (code := 0) (by decide) full
    have queue := takeMail_npFdQueue s .fdToNp 0
    have only := takeMail_only s .fdToNp 0
    obtain ⟨u, same⟩ : ∃ u, takeMail s .fdToNp 0 = u := ⟨_, rfl⟩
    rw [same] at taken valid code queue only ⊢
    rw [postMail_porter, settle_mbx, queue]
    exact ⟨taken, valid, code, rfl, (only.trans (OnlyMail.mbx u _)).settled⟩
  case val =>
    refine ⟨_, exec_sensorVal (porterMail_of awake full mail), ?_⟩
    have taken := takePorter_full (code := 0) (by decide) full
    have only := takePorter_only s 0
    obtain ⟨queues, asks⟩ := takePorter_queues s 0
    obtain ⟨u, same⟩ : ∃ u, takePorter s 0 = u := ⟨_, rfl⟩
    rw [same] at taken only queues asks ⊢
    obtain ⟨left, passed⟩ := passValue_found (s := u) (x := s.mbx.npToFd) (p := p) (tag := tag) (by rw [asks]; exact found)
      (by rw [queues]; exact room)
    rw [passed]
    have made := sensorValue_passed (p := p) (l := u.mbx.f2hQueue.at p ++ [⟨0x81, tag, [s.mbx.npToFd.msg.at 1, s.mbx.npToFd.msg.at 2,
      s.mbx.npToFd.msg.at 3, s.mbx.npToFd.msg.at 4, s.mbx.npToFd.msg.at 5]⟩]) (asks := left) only taken queues
    rw [queues] at made ⊢
    exact made
  case plan => exact ⟨_, exec_plan (porterMail_of awake full mail), takePorter_settled full⟩
  case woke => exact ⟨_, exec_woke (porterMail_of awake full mail), takePorter_settled full⟩
  case notice =>
    refine ⟨_, exec_noticeReq (porterMail_of awake full mail), ?_⟩
    have taken := takePorter_full (code := 0) (by decide) full
    have only := takePorter_only s 0
    obtain ⟨queues, asks⟩ := takePorter_queues s 0
    obtain ⟨u, same⟩ : ∃ u, takePorter s 0 = u := ⟨_, rfl⟩
    rw [same] at taken only queues asks ⊢
    obtain ⟨full', told, only'⟩ := notices_sent only taken queues asks (mailWord s.mbx.npToFd 1) (mailWord s.mbx.npToFd 2)
    refine ⟨full', fun p bound due => ?_, fun p no => ?_, only'⟩
    · rw [told p, noticed, if_pos ⟨bound, due⟩, mailWord, mailWord, BitVec.ofNat_toNat, BitVec.ofNat_toNat, BitVec.setWidth_eq, BitVec.setWidth_eq]
    · rw [told p, noticed, if_neg]
      rintro ⟨bound, due⟩
      exact no.elim (fun h => h bound) fun h => absurd due (Nat.not_lt.mpr h)

end Sys2Proof.Machine
end
section
/-!
SUPPORT. The secure region: wipes (R321, R322), slot confirmation (R374) and alias keys (R376).
-/
namespace Sys2Proof.Machine

/-! ## Wipes -/

/-- What the triggers of a wipe record, beside what was recorded, and what they leave. -/
structure WipeRecorded (l : List WipeTrigger) (x y : Secure) : Prop where
  case_ : y.wipeCase = (x.wipeCase || decide (.case ∈ l))
  vglitch : y.wipeV = (x.wipeV || decide (.vglitch ∈ l))
  cglitch : y.wipeC = (x.wipeC || decide (.cglitch ∈ l))
  tampered : y.tampered = (x.tampered || decide (.case ∈ l))
  rest : y = { x with wipeCase := y.wipeCase, wipeV := y.wipeV, wipeC := y.wipeC, tampered := y.tampered }

set_option Elab.async false in
theorem recordWipe_recorded (x : Secure) (t : WipeTrigger) : WipeRecorded [t] x (recordWipe x t) := by
  cases t <;> exact ⟨by simp [recordWipe], by simp [recordWipe], by simp [recordWipe], by simp [recordWipe], rfl⟩

theorem WipeRecorded.cons {t : WipeTrigger} {l : List WipeTrigger} {x y z : Secure} (h : WipeRecorded [t] x y) (k : WipeRecorded l y z) :
    WipeRecorded (t :: l) x z := by
  have one (a : WipeTrigger) (b : Bool) : ((b || decide (a ∈ [t])) || decide (a ∈ l)) = (b || decide (a ∈ t :: l)) := by
    rw [Bool.or_assoc, ← Bool.decide_or]
    simp only [List.mem_cons, List.not_mem_nil, or_false]
  refine ⟨?_, ?_, ?_, ?_, ?_⟩
  · rw [k.case_, h.case_, one]
  · rw [k.vglitch, h.vglitch, one]
  · rw [k.cglitch, h.cglitch, one]
  · rw [k.tampered, h.tampered, one]
  · rw [k.rest, h.rest]

theorem foldl_recordWipe (l : List WipeTrigger) (x : Secure) : WipeRecorded l x (l.foldl recordWipe x) := by
  induction l generalizing x with
  | nil => exact ⟨by simp, by simp, by simp, by simp, rfl⟩
  | cons t l ih => exact (recordWipe_recorded x t).cons (ih _)

theorem exec_secureWipe {s : State} (on : s.elec.life ≠ .off) (w : WipeTrigger) (more : List WipeTrigger) :
    exec (.secureWipe ⟨w, more⟩) s = .next (latchStatus (secureWipe w more s)) := by
  simp only [exec, execSecureWipe]

/-! ## Confirmation -/

theorem healthy_of {s : State} {since : Nat} (up : Running s) (idle : s.sec.idleSince = some since) (due : since + 1000000000 ≤ s.desk.now) :
    healthy s = true := by
  have life : s.elec.life = .running := up
  simp only [healthy, life, idle, due, beq_self_eq_true, decide_true, Bool.and_self]

theorem healthy_not {s : State} {since : Nat} (idle : s.sec.idleSince = some since) (early : s.desk.now < since + 1000000000) :
    healthy s = false := by
  simp only [healthy, idle, Nat.not_le.mpr early, decide_false, Bool.and_false]

theorem confirmSlot_pending {f : FwType} {k : Fin 2} (pending : f.pending = some k) : confirmSlot f = { f with
    active := k, pending := none, attempts := 0, fails := 0, reverted := false
    rollback := BitVec.ofNat 32 (max f.rollback.toNat (imageRollback (f.slots.at k).image)) } := by
  rw [confirmSlot, pending]

theorem leNat_lt (l : Bytes) : leNat l < 256 ^ l.length := by
  induction l with
  | nil => exact Nat.one_pos
  | cons x l ih =>
    have := x.isLt
    rw [leNat, List.length_cons, Nat.pow_succ]
    omega

/-- A version field has four bytes. -/
theorem imageRollback_lt (b : Bytes) : imageRollback b < 2 ^ 32 :=
  Nat.lt_of_lt_of_le (leNat_lt _) (Nat.pow_le_pow_right (n := 256) (by decide) (List.length_take_le 4 _))

/-! ## Alias keys -/

theorem aliasGeneration_wanted {s : State} {seed : Bytes} (key : s.sec.idKey = some seed) (leaf : s.sec.idLeaf < 1024)
    (wanted : s.sec.genWanted = true) (ready : s.trng.state = .ready) : aliasGeneration s =
      if (takeKeys s).sec.drawn.isEmpty then takeKeys s
      else { takeKeys s with sec := newAlias s.fuses.serial (takeKeys s).sec seed (takeKeys s).sec.drawn } := by
  have may : (s.sec.genWanted && certifiable s.sec) = true := by
    simp only [wanted, certifiable, key, leaf, Option.isSome_some, decide_true, Bool.and_self]
  simp only [aliasGeneration, key, may, ready]
  rfl

theorem takeKeys_room {s : State} (none : s.sec.drawn = []) (free : s.trng.waiting = []) : takeKeys s =
    if 24 ≤ s.trng.pool.length then
      { s with trng := { s.trng with pool := s.trng.pool.drop 24 }, sec := { s.sec with drawn := s.trng.pool.take 24 } }
    else { s with trng := { s.trng with waiting := [.keys] } } := by
  simp only [takeKeys, none, free, List.isEmpty_nil, Bool.not_true, List.any_nil, Bool.or_false, Bool.false_eq_true, if_false,
    Bool.true_and, decide_eq_true_eq, List.nil_append]

theorem exec_aliasKeyGeneration {s : State} (up : Running s) : exec .aliasKeyGeneration s = .next (aliasGeneration s) := by
  have life : s.elec.life = .running := up
  simp only [exec, execAliasKeyGeneration, life, beq_self_eq_true, if_true]

/-- Settles O38: `foldl_recordWipe`, `confirmSlot_pending` and `aliasGeneration_wanted`. -/
theorem secureRegionKeepsItsRules : Obligations.SecureRegionKeepsItsRules := by
  intro s
  refine ⟨fun on w more => ?wipe, fun k since up idle due pending running => ?confirm, fun since idle early => ?early,
    fun seed up key leaf wanted none ready free => ⟨fun full => ?drawn, fun short => ?waits⟩⟩
  case wipe =>
    refine ⟨_, exec_secureWipe on w more, ?_⟩
    have made := foldl_recordWipe (w :: more) (wipeSram s).sec
    unfold latchStatus secureWipe
    simp only
    generalize (w :: more).foldl recordWipe (wipeSram s).sec = y at made ⊢
    have rest := made.rest
    have same : y.sram = [] ∧ y.engineWarm = false ∧ y.wipeCount = min 0xFFFF (s.sec.wipeCount + 1) ∧ y.idKey = s.sec.idKey ∧
        y.lifecycle = s.sec.lifecycle := by
      rw [rest]
      exact ⟨rfl, rfl, rfl, rfl, rfl⟩
    obtain ⟨sram, warm, count, key, life⟩ := same
    exact ⟨sram, warm, count, made.case_, made.vglitch, made.cglitch, made.tampered, key, life, rfl, rfl⟩
  case confirm =>
    have due' : confirmDue s.sec.fd = true := by
      rw [confirmDue, pending, running]
      exact beq_self_eq_true _
    refine ⟨_, congrArg Host.Outcome.next (if_pos (healthy_of up idle due)), rfl, ?_⟩
    simp only [slotConfirm, due', if_true, confirmSlot_pending pending, Bool.not_true, Bool.and_false, Bool.false_and, true_and, and_true]
    have small := imageRollback_lt (s.sec.fd.slots.at k).image
    have old := s.sec.fd.rollback.isLt
    rw [BitVec.toNat_ofNat, Nat.mod_eq_of_lt (by omega)]
    omega
  case early =>
    exact congrArg Host.Outcome.next (if_neg (by rw [healthy_not idle early]; decide))
  case drawn =>
    refine ⟨_, (exec_aliasKeyGeneration up).trans (congrArg Host.Outcome.next (aliasGeneration_wanted key leaf wanted ready)), ?_⟩
    have some : (s.trng.pool.take 24).isEmpty = false := by
      rw [List.isEmpty_eq_false_iff, ← List.length_pos_iff, List.length_take]
      omega
    rw [takeKeys_room none free, if_pos full, if_neg (by rw [some]; decide)]
    exact ⟨rfl, rfl, rfl, rfl, rfl, _, rfl, rfl, rfl, rfl, by rw [keySeed, List.take_take]; rfl⟩
  case waits =>
    rw [exec_aliasKeyGeneration up, aliasGeneration_wanted key leaf wanted ready, takeKeys_room none free, if_neg (Nat.not_le.mpr short)]
    simp only [none, List.isEmpty_nil, if_true]

end Sys2Proof.Machine
end
section
/-!
SUPPORT. Housekeeping of the memories (R304 to R309, R316, R323).
-/
namespace Sys2Proof.Machine

/-! ## Counting -/

/-- What is counted and noted of sectors, and not the bytes, the sound sectors or where a scrub stands. -/
def CountsOnly (m n : Memory) : Prop :=
  n = { m with hbm := n.hbm, lp := n.lp, ueFound := n.ueFound, dueRows := n.dueRows, ceSeen := n.ceSeen, lpRows := n.lpRows }

set_option Elab.async false in
theorem CountsOnly.refl (m : Memory) : CountsOnly m m := rfl

theorem CountsOnly.trans {m n k : Memory} (h : CountsOnly m n) (g : CountsOnly n k) : CountsOnly m k := by
  rw [CountsOnly] at *
  rw [g, h]

theorem CountsOnly.cells {m n : Memory} (h : CountsOnly m n) : n.cells = m.cells := by rw [h]

theorem CountsOnly.ue {m n : Memory} (h : CountsOnly m n) : n.ue = m.ue := by rw [h]

theorem CountsOnly.scrub {m n : Memory} (h : CountsOnly m n) (u : DramUnit) : scrubAt n u = scrubAt m u := by
  rw [h]
  cases u <;> rfl

theorem markDue_counts (m : Memory) (h : Fin 12) (row : Nat) : CountsOnly m (markDue m h row) := by
  unfold markDue
  split <;> rfl

theorem markRow_counts (m : Memory) (l : Fin 32) (row : Nat) : CountsOnly m (markRow m l row) := by
  unfold markRow
  split <;> rfl

theorem markDue_hbm (m : Memory) (h : Fin 12) (row : Nat) : (markDue m h row).hbm = m.hbm := by
  unfold markDue
  split <;> rfl

theorem markDue_mem (m : Memory) (h : Fin 12) (row : Nat) : (h, row) ∈ (markDue m h row).dueRows := by
  unfold markDue
  split
  · exact List.contains_iff_mem.mp ‹_›
  · exact List.mem_append_right _ (List.mem_singleton.mpr rfl)

theorem findUe_counts (m : Memory) (a : Nat) : CountsOnly m (findUe m a) := by
  unfold findUe
  split
  · rfl
  · simp only
    split
    · exact CountsOnly.trans (n := { m with ueFound := m.ueFound ++ [a / 32] }) rfl (markDue_counts _ _ _)
    · rfl

theorem countUe_counts (m : Memory) (a : Nat) : CountsOnly m (countUe m a) := by
  have found := findUe_counts m a
  unfold countUe
  simp only
  split
  · exact found.trans rfl
  · exact found.trans rfl
  · exact found

theorem countUe_due (m : Memory) (a : Nat) : (countUe m a).dueRows = (findUe m a).dueRows := by
  unfold countUe
  simp only
  split <;> rfl

/-- A sector of a stack that is found uncorrectable for the first time makes its row due. -/
theorem findUe_due {m : Memory} {a : Nat} {h : Fin 12} (new : m.ueFound.contains (a / 32) = false) (unit : unitOf a = some (.hbm h)) :
    (h, Config.dramRow (a / 32)) ∈ (findUe m a).dueRows := by
  simp only [findUe, new, Bool.false_eq_true, if_false, unit]
  exact markDue_mem _ _ _

theorem findUe_again {m : Memory} {a : Nat} (known : m.ueFound.contains (a / 32) = true) : findUe m a = m := if_pos known

theorem sectorCorrected_counts (m : Memory) (u : DramUnit) (sector now : Nat) : CountsOnly m (sectorCorrected m u sector now) := by
  unfold sectorCorrected
  cases u with
  | hbm h =>
    simp only
    split
    · refine CountsOnly.trans ?_ (markDue_counts _ _ _)
      rfl
    · rfl
  | lp l =>
    simp only
    split
    · refine CountsOnly.trans ?_ (markRow_counts _ _ _)
      rfl
    · rfl

/-- A corrected sector of a stack advances the stack's count, and no other's. -/
theorem sectorCorrected_hbm (m : Memory) (h : Fin 12) (sector now : Nat) :
    (sectorCorrected m (.hbm h) sector now).hbm = m.hbm.upd h fun c => { c with ce := satAdd 32 c.ce 1 } := by
  unfold sectorCorrected
  simp only
  split
  · rw [markDue_hbm]
    rfl
  · rfl

/-! ## The scrub -/

theorem scrubNext_mem (m : Memory) (u : DramUnit) : scrubAt (scrubNext m u) u = (scrubAt m u + 32) % unitSize u := by
  cases u
  · exact Tab.at_put_same _ _ _
  · exact Tab.at_put_same _ _ _

theorem scrubNext_only (m : Memory) (u : DramUnit) :
    scrubNext m u = { m with hbmScrub := (scrubNext m u).hbmScrub, lpScrub := (scrubNext m u).lpScrub } := by
  cases u <;> rfl

/-- An address of a stack, within its size, is an address of that stack. -/
theorem unitOf_hbm {h : Fin 12} {off : Nat} (within : off < unitSize (.hbm h)) : unitOf (unitAddr (.hbm h) off) = some (.hbm h) := by
  have small : off < 51539607552 := within
  have low := h.isLt
  have span : dieSpan = 154618822656 := rfl
  have inside : (off / 4096 * 3 + h.val % 3) * 4096 + off % 4096 < 154618822656 := by omega
  have addr : unitAddr (.hbm h) off = 154618822656 * (h.val / 3) + ((off / 4096 * 3 + h.val % 3) * 4096 + off % 4096) := by
    rw [unitAddr, span]
    omega
  have die : unitAddr (.hbm h) off / 154618822656 = h.val / 3 := by
    rw [addr, Nat.mul_add_div (by decide), Nat.div_eq_of_lt inside, Nat.add_zero]
  have part : unitAddr (.hbm h) off % 154618822656 = (off / 4096 * 3 + h.val % 3) * 4096 + off % 4096 := by
    rw [addr, Nat.mul_add_mod, Nat.mod_eq_of_lt inside]
  have below : unitAddr (.hbm h) off < 4 * 154618822656 := by omega
  rw [unitOf, span, if_pos below, die, part]
  refine congrArg (fun k => some (DramUnit.hbm k)) (Fin.ext ?_)
  change (3 * (h.val / 3) + ((off / 4096 * 3 + h.val % 3) * 4096 + off % 4096) / 4096 % 3) % 12 = h.val
  omega

/-- Memory after a sector has been found uncorrectable. -/
theorem sectorLost_mem (d : Desk) (a : Nat) : (sectorLost d a).mem =
    countUe (if d.mem.ue.contains (a / 32) then d.mem else { d.mem with ue := d.mem.ue ++ [a / 32] }) a := rfl

theorem sectorLost_logCount (d : Desk) (a : Nat) : (sectorLost d a).errs.logCount = min 0xFFFF (d.errs.logCount + 1) := rfl

/-- The sector that the scrub of a unit visits now. -/
def scrubSectorOf (m : Memory) (u : DramUnit) : Nat := unitAddr u (scrubAt m u)

/-- Front Desk with the scrub of a unit gone on. -/
def scrubbed (d : Desk) (u : DramUnit) : Desk := { d with mem := scrubNext d.mem u }

theorem scrubSector_known {d : Desk} {u : DramUnit} {f : Finding} (read : f ≠ .readCorrected)
    (known : d.mem.ue.contains (unitAddr u (scrubAt d.mem u) / 32) = true) (x : Nat) :
    scrubSector d u x f = sectorLost (scrubbed d u) (unitAddr u (scrubAt d.mem u)) := by
  simp only [scrubSector, if_neg read, known, if_true]
  rfl

theorem scrubSector_sound {d : Desk} {u : DramUnit} (sound : d.mem.ue.contains (unitAddr u (scrubAt d.mem u) / 32) = false) (x : Nat) :
    scrubSector d u x .clean = scrubbed d u ∧
    scrubSector d u x .corrected = { scrubbed d u with
      mem := sectorCorrected (scrubNext d.mem u) u (unitAddr u (scrubAt d.mem u) / 32) d.now } ∧
    scrubSector d u x .uncorrectable = sectorLost (scrubbed d u) (unitAddr u (scrubAt d.mem u)) := by
  simp only [scrubSector, sound, Bool.false_eq_true, if_false]
  exact ⟨rfl, rfl, rfl⟩

theorem scrubSector_read {d : Desk} {u : DramUnit} {x : Nat} (sound : d.mem.ue.contains (unitAddr u (32 * x % unitSize u) / 32) = false) :
    scrubSector d u x .readCorrected = { d with mem := sectorCorrected d.mem u (unitAddr u (32 * x % unitSize u) / 32) d.now } := by
  simp only [scrubSector, readCorrected, sound, if_true, Bool.false_eq_true, if_false]

theorem exec_patrolScrub {s : State} {u : DramUnit} (serves : unitServes s u = true) (x : Nat) (f : Finding) :
    exec (.patrolScrub u x f) s = .next (settle { s with desk := scrubSector s.desk u x f }) :=
  congrArg Host.Outcome.next (if_pos serves)

/-- The scrub of a sound or an uncorrectable sector goes on to the next one and changes no byte. -/
theorem scrubSector_clean (d : Desk) (u : DramUnit) (x : Nat) :
    (scrubSector d u x .clean).mem.cells = d.mem.cells ∧
    scrubAt (scrubSector d u x .clean).mem u = (scrubAt d.mem u + 32) % unitSize u ∧
    (d.mem.ue.contains (unitAddr u (scrubAt d.mem u) / 32) = false → (scrubSector d u x .clean).mem.ue = d.mem.ue ∧
      (scrubSector d u x .clean).mem.hbm = d.mem.hbm ∧ (scrubSector d u x .clean).mem.lp = d.mem.lp) := by
  have next := scrubNext_only d.mem u
  by_cases sound : d.mem.ue.contains (unitAddr u (scrubAt d.mem u) / 32) = false
  · rw [(scrubSector_sound sound x).1]
    refine ⟨?_, scrubNext_mem d.mem u, fun _ => ?_⟩
    · rw [scrubbed, next]
    · rw [scrubbed, next]
      exact ⟨rfl, rfl, rfl⟩
  · have known := (Bool.not_eq_false _).mp sound
    have same : (scrubbed d u).mem.ue = d.mem.ue := by rw [scrubbed, next]
    have counts := countUe_counts (scrubNext d.mem u) (unitAddr u (scrubAt d.mem u))
    rw [scrubSector_known (by decide) known x, sectorLost_mem, same, if_pos known]
    refine ⟨counts.cells.trans (by rw [next]), (counts.scrub u).trans (scrubNext_mem d.mem u), fun no => absurd no sound⟩

/-- A sector that the scrub finds uncorrectable is bad from then on, and its row due when it is first found. -/
theorem sectorLost_found {d : Desk} {a : Nat} {h : Fin 12} (unit : unitOf a = some (.hbm h)) (sound : d.mem.ue.contains (a / 32) = false) :
    (sectorLost d a).mem.cells = d.mem.cells ∧ (sectorLost d a).mem.ue = d.mem.ue ++ [a / 32] ∧
    (d.mem.ueFound.contains (a / 32) = false → (h, Config.dramRow (a / 32)) ∈ (sectorLost d a).mem.dueRows) ∧
    (d.mem.ueFound.contains (a / 32) = true → (sectorLost d a).mem.dueRows = d.mem.dueRows) := by
  have counts := countUe_counts { d.mem with ue := d.mem.ue ++ [a / 32] } a
  rw [sectorLost_mem, if_neg (by rw [sound]; decide), countUe_due]
  refine ⟨counts.cells, counts.ue, fun new => findUe_due new unit, fun known => ?_⟩
  rw [findUe_again (m := { d.mem with ue := d.mem.ue ++ [a / 32] }) known]

/-- A corrected sector of a stack is counted, and no byte changes. -/
theorem sectorCorrected_counted (m : Memory) (h : Fin 12) (sector now : Nat) :
    (sectorCorrected m (.hbm h) sector now).cells = m.cells ∧
    ((sectorCorrected m (.hbm h) sector now).hbm.at h).ce = min 0xFFFFFFFF ((m.hbm.at h).ce + 1) ∧
    ∀ g, g ≠ h → (sectorCorrected m (.hbm h) sector now).hbm.at g = m.hbm.at g := by
  rw [sectorCorrected_hbm]
  refine ⟨(sectorCorrected_counts m (.hbm h) sector now).cells, ?_, fun g ne => Tab.at_upd_ne _ _ _ _ ne⟩
  rw [Tab.at_upd_same]
  rfl

/-! ## Rows and words -/

theorem exec_rowRepair {s : State} {h : Fin 12} (serves : unitServes s (.hbm h) = true) {row : Nat} (due : (h, row) ∈ s.desk.mem.dueRows)
    (n : Nat) : exec (.rowRepair h row n) s = .next { s with desk := { s.desk with mem := repairRow s.desk.mem h row n } } := by
  refine congrArg Host.Outcome.next (if_pos ?_)
  rw [serves, List.contains_iff_mem.mpr due]
  rfl

theorem exec_sramScrub {s : State} {u : SramUnit} {w : Nat} (up : sramUp s u = true) (word : w < sramWords u) :
    exec (.sramScrub u w .clean) s = .next { s with desk := { s.desk with mem := passDone s.desk.mem u w } } ∧
    exec (.sramScrub u w .corrected) s =
      .next { s with desk := { s.desk with mem := sramCorrected (passDone s.desk.mem u w) u } } := by
  simp only [exec, execSramScrub, up, word, decide_true, Bool.and_self, if_true]
  exact ⟨rfl, rfl⟩

/-- Settles O39: what each finding of a scrub counts, by `scrubSector_sound`, `scrubSector_known` and `scrubSector_read`. -/
theorem housekeepingKeepsTheBytes : Obligations.HousekeepingKeepsTheBytes := by
  intro s
  refine ⟨fun u up here awake => ?refresh, fun up low => ?burst, fun u x serves => ?clean, fun h x a serves within sector sound => ⟨?corrected, ?lost⟩,
    fun h x serves sound => ?read, fun h row serves due => ⟨?spare, fun n some => ?repaired⟩, fun h row n no => ?none,
    fun u w up word other => ?sram, fun d w up word => ?staging⟩
  case refresh =>
    have life : s.elec.life = .running := up
    refine congrArg Host.Outcome.next (if_pos ?_)
    simp only [life, here, awake, beq_self_eq_true, Bool.and_self]
  case burst =>
    have life : s.elec.life = .running := up
    refine congrArg Host.Outcome.next (if_pos ?_)
    rcases low with h | h <;> simp only [life, dramAwake, h, beq_self_eq_true] <;> decide
  case clean =>
    obtain ⟨cells, next, counts⟩ := scrubSector_clean s.desk u x
    exact ⟨_, (congrArg Memory.cells (settle_desk_mem _)).trans cells, exec_patrolScrub serves x .clean,
      (congrArg (scrubAt · u) (settle_desk_mem _)).trans next, by rw [settle_desk_mem]; exact counts⟩
  case corrected =>
    rw [sector] at sound
    obtain ⟨cells, ce, others⟩ := sectorCorrected_counted (scrubNext s.desk.mem (.hbm h)) h
      (unitAddr (.hbm h) (scrubAt s.desk.mem (.hbm h)) / 32) s.desk.now
    refine ⟨_, exec_patrolScrub serves x .corrected, ?_⟩
    rw [settle_desk_mem, (scrubSector_sound sound x).2.1]
    exact ⟨cells, ce, others⟩
  case lost =>
    have known := sound
    rw [sector] at known
    refine ⟨_, exec_patrolScrub serves x .uncorrectable, ?_⟩
    obtain ⟨cells, ue, due, again⟩ := sectorLost_found (d := scrubbed s.desk (.hbm h)) (unitOf_hbm within) known
    rw [settle_desk_mem, settle_desk_errs, (scrubSector_sound known x).2.2, sector]
    exact ⟨cells, ue, due, again, rfl⟩
  case read =>
    obtain ⟨cells, ce, -⟩ := sectorCorrected_counted s.desk.mem h (unitAddr (.hbm h) (32 * x % unitSize (.hbm h)) / 32) s.desk.now
    have counts := sectorCorrected_counts s.desk.mem (.hbm h) (unitAddr (.hbm h) (32 * x % unitSize (.hbm h)) / 32) s.desk.now
    refine ⟨_, exec_patrolScrub serves x .readCorrected, ?_⟩
    rw [settle_desk_mem, scrubSector_read sound]
    exact ⟨cells, by rw [counts], ce⟩
  case spare =>
    refine ⟨_, exec_rowRepair serves due 0, rfl, ?_⟩
    simp only [repairRow, if_true, Tab.at_upd_same, true_and]
  case repaired =>
    refine ⟨_, exec_rowRepair serves due n, ?_⟩
    simp only [repairRow, if_neg (Nat.pos_iff_ne_zero.mp some), and_self]
  case none =>
    refine congrArg Host.Outcome.next (if_neg ?_)
    rw [Bool.and_eq_true, List.contains_iff_mem]
    exact fun h => no h.2
  case sram =>
    rw [(exec_sramScrub up word).1]
    cases u with
    | staging d => exact absurd rfl (other d)
    | _ => rfl
  case staging =>
    refine ⟨_, (exec_sramScrub up word).2, ?_⟩
    by_cases last : w + 1 = 4194304
    · simp only [passDone, sramWords, sramCorrected, Tab.at_upd_same, last, if_true]
      exact ⟨trivial, rfl, rfl⟩
    · simp only [passDone, sramWords, sramCorrected, Tab.at_upd_same, last, if_false]
      exact ⟨trivial, rfl, trivial⟩

end Sys2Proof.Machine
end
section
/-!
SUPPORT. Lost data, failed tiles and link retries (R349, R351, R352, R186).
-/
namespace Sys2Proof.Machine

/-! ## A lost byte -/

set_option Elab.async false in
theorem exec_uncorrectableRead {s : State} (awake : Awake s) (l : Loss) (k : Nat) : exec (.uncorrectableRead l k) s =
    .next (settle (noteTile (lossTile l) (recoverLoss (envOf s) s.desk l k).1 { s with desk := (recoverLoss (envOf s) s.desk l k).2 })) :=
  congrArg Host.Outcome.next (if_pos (deskAwake_iff.mpr awake))

/-- A sector that is marked uncorrectable is so, and no byte changes. -/
theorem markUe_marked {d : Desk} {a : Nat} (unit : unitOf a ≠ none) :
    ∃ ue, markUe d a = { d with mem := { d.mem with ue := ue } } ∧ a / 32 ∈ ue := by
  have here : (unitOf a).isNone = false := Option.isNone_eq_false_iff.mpr (Option.isSome_iff_ne_none.mpr unit)
  unfold markUe
  rw [here, Bool.false_or]
  split
  · next known => exact ⟨d.mem.ue, rfl, List.contains_iff_mem.mp known⟩
  · exact ⟨_, rfl, List.mem_append_right _ (List.mem_singleton.mpr rfl)⟩

theorem readUe_stops {d : Desk} {n : Fin 64} {c : Cmd} {a : Nat} (cur : (d.sqs.at n).cur = some c)
    (stage : c.stage = .dispatched ∨ c.stage = .working) (unit : unitOf a ≠ none) :
    ((readUe d n a).sqs.at n).cur = some { askStop d.now (if inTimed c = true then .timing else .dataLost) c with fault := true } ∧
    a / 32 ∈ (readUe d n a).mem.ue ∧ (readUe d n a).mem.cells = d.mem.cells ∧
    (readUe d n a).errs.logCount = min 0xFFFF (d.errs.logCount + 1) ∧ ∀ m, m ≠ n → (readUe d n a).sqs.at m = d.sqs.at m := by
  have here : ((unitOf a).isNone || c.stage == .ended) = false := by
    rw [Option.isNone_eq_false_iff.mpr (Option.isSome_iff_ne_none.mpr unit)]
    rcases stage with h | h <;> rw [h] <;> rfl
  obtain ⟨ue, marked, mem⟩ := markUe_marked (d := d) unit
  simp only [readUe, cur, here, Bool.false_eq_true, if_false, marked]
  refine ⟨?_, ?_, ?_, rfl, fun m ne => ?_⟩
  · exact setCur_same { d with mem := { d.mem with ue := ue } } n _
  · rw [noteUe_ue]
    exact mem
  · rw [noteUe_cells]
    rfl
  · exact setCur_ne { d with mem := { d.mem with ue := ue } } _ ne

/-! ## A failed tile -/

theorem exec_tileLogicFault {s : State} (awake : Awake s) {l : Fin 256} (served : tileServed s.fuses.grade s.desk l.val = true)
    (row k : Nat) : exec (.tileLogicFault l row k) s =
      .next (settle (noteTile l (retireFor (envOf s) s.desk l 5 row k).1 { s with desk := (retireFor (envOf s) s.desk l 5 row k).2 })) := by
  refine congrArg Host.Outcome.next (if_pos ?_)
  rw [deskAwake_iff.mpr awake, served]
  rfl

theorem noteTile_desk (l : Fin 256) (served : Bool) (s : State) : (noteTile l served s).desk = s.desk := by
  unfold noteTile
  split
  · rfl
  · exact noticeAll_desk s 1 l.val none

/-- The queues and slots of Front Desk, and nothing else. -/
def OnlyQueues (d e : Desk) : Prop := e = { d with sqs := e.sqs, slots := e.slots }

theorem OnlyQueues.refl (d : Desk) : OnlyQueues d d := rfl

theorem OnlyQueues.trans {d e f : Desk} (h : OnlyQueues d e) (k : OnlyQueues e f) : OnlyQueues d f := by
  rw [OnlyQueues] at *
  rw [k, h]

theorem stopForFault_queues (e : Env) (d : Desk) (n : Fin 64) (c : Cmd) : OnlyQueues d (stopForFault e d n c) := rfl

theorem dropUnplaceable_queues (e : Env) (d : Desk) : OnlyQueues d (dropUnplaceable e d) := by
  unfold dropUnplaceable
  induction (List.range 64).map (fin 64) generalizing d with
  | nil => exact OnlyQueues.refl d
  | cons n l ih =>
    rw [List.foldl_cons]
    refine OnlyQueues.trans ?_ (ih _)
    split
    · split
      · rfl
      · exact OnlyQueues.refl d
    · exact OnlyQueues.refl d

theorem stopForFault_timed (e : Env) (d : Desk) (n : Fin 64) {c : Cmd} (timed : inTimed c = true) (free : c.stop = none) :
    ((stopForFault e d n c).sqs.at n).cur = some { c with stop := some .timing, stopAt := d.now, fault := true } := by
  have stop : askStop d.now (faultStop e d c) c = { c with stop := some .timing, stopAt := d.now } := by
    simp only [faultStop, timed, if_true, askStop, free]
  unfold stopForFault
  rw [stop]
  exact setCur_same d n _

/-- A command inside its timed region stops before its tile is retired (R186). -/
theorem retireFor_timed {e : Env} {d : Desk} {l : Fin 256} {n : Fin 64} {c : Cmd} (holder : tileHolder d l.val = some (n, c))
    (timed : inTimed c = true) (cls row k : Nat) : ∃ due, retireFor e d l cls row k =
      (true, { stopForFault e d n c with tiles := { (stopForFault e d n c).tiles with due := due } }) := by
  simp only [retireFor, holder, timed, if_true]
  exact ⟨_, rfl⟩

theorem retireFor_now {e : Env} {d : Desk} {l : Fin 256} (free : ∀ h, tileHolder d l.val = some h → inTimed h.2 = false) (cls row k : Nat) :
    ∃ sq, retireFor e d l cls row k = retireNow e d ⟨l, cls, row, k, sq⟩ := by
  cases holder : tileHolder d l.val with
  | none =>
    simp only [retireFor, holder]
    exact ⟨_, rfl⟩
  | some h =>
    have no := free h holder
    simp only [retireFor, holder, no, Bool.false_eq_true, if_false]
    exact ⟨_, rfl⟩

/-- Front Desk after a retirement at once, but for the queues and slots that stop for it. -/
theorem retireNow_tiles (e : Env) (d : Desk) (x : DueTile) :
    (retireNow e d x).2.tiles = (retireTile d x.tile x.bad).2.tiles ∧ (retireNow e d x).2.mem = (retireTile d x.tile x.bad).2.mem ∧
    (retireNow e d x).2.errs.remaps = (retireTile d x.tile x.bad).2.errs.remaps := by
  unfold retireNow
  simp only
  generalize (retireTile d x.tile x.bad).2 = f
  generalize (retireTile d x.tile x.bad).1 = served
  split
  · rw [dropUnplaceable_queues e (logFault (stopForFault e f _ _) _ _ _ _ _ _)]
    exact ⟨rfl, rfl, rfl⟩
  · rw [dropUnplaceable_queues e (logFault f _ _ _ _ _ _)]
    exact ⟨rfl, rfl, rfl⟩

theorem failSpares_none (d : Desk) (die : Fin 4) : failSpares d die 0 = d := rfl

theorem retireTile_next {d : Desk} {l : Fin 256} {x y : Nat} {rest : List Nat} (serves : d.tiles.serves.at l = some x)
    (spares : d.tiles.spares.at (fin 4 (l.val / 64)) = y :: rest) :
    (retireTile d l 0).2.tiles.serves = d.tiles.serves.put l (some y) ∧
    (retireTile d l 0).2.tiles.spares.at (fin 4 (l.val / 64)) = rest ∧
    (retireTile d l 0).2.tiles.retired = d.tiles.retired ++ [(fin 4 (l.val / 64), x)] ∧
    (retireTile d l 0).2.errs.remaps = min 0xFFFFFFFF (d.errs.remaps + 1) ∧ (retireTile d l 0).2.mem = d.mem := by
  simp only [retireTile, serves, failSpares_none, spares]
  exact ⟨rfl, Tab.at_put_same _ _ _, rfl, rfl, rfl⟩

theorem retireTile_none {d : Desk} {l : Fin 256} {x : Nat} (serves : d.tiles.serves.at l = some x)
    (spares : d.tiles.spares.at (fin 4 (l.val / 64)) = []) :
    (retireTile d l 0).2.tiles.serves = d.tiles.serves.put l none ∧
    (retireTile d l 0).2.tiles.retired = d.tiles.retired ++ [(fin 4 (l.val / 64), x)] ∧
    (retireTile d l 0).2.errs.remaps = d.errs.remaps := by
  simp only [retireTile, serves, failSpares_none, spares, and_self]

/-! ## A retry of a link -/

theorem usesDies_iff (c : Cmd) (x : Fin 5) :
    (decide (x.val = 4) || c.tiles.any fun l => l / 64 == x.val) = true ↔ x.val = 4 ∨ ∃ l ∈ c.tiles, l / 64 = x.val := by
  simp only [Bool.or_eq_true, decide_eq_true_eq, List.any_eq_true, beq_iff_eq]

/-- A command of fixed timing that uses both dies of a link, told to stop. -/
def retryStop (now : Nat) (a b : Fin 5) (c : Cmd) : Cmd :=
  if inTimed c && a != b && (decide (a.val = 4) || c.tiles.any fun l => l / 64 == a.val) &&
    (decide (b.val = 4) || c.tiles.any fun l => l / 64 == b.val) then askStop now .timing c else c

/-- What a retry makes of one queue. -/
def retryQueue (a b : Fin 5) (d : Desk) (n : Fin 64) : Desk :=
  match (d.sqs.at n).cur with
  | some c => if inTimed c && a != b && (decide (a.val = 4) || c.tiles.any fun l => l / 64 == a.val) &&
      (decide (b.val = 4) || c.tiles.any fun l => l / 64 == b.val) then setCur d n (some (askStop d.now .timing c)) else d
  | none => d

theorem dieLinkRetry_eq (d : Desk) (a b : Fin 5) : dieLinkRetry d a b = ((List.range 64).map (fin 64)).foldl (retryQueue a b) d := rfl

theorem retryQueue_queues (a b : Fin 5) (d : Desk) (n : Fin 64) : retryQueue a b d n = { d with sqs := (retryQueue a b d n).sqs } := by
  unfold retryQueue
  split
  · split <;> rfl
  · rfl

theorem retryQueue_others (a b : Fin 5) (d : Desk) (n m : Fin 64) (ne : m ≠ n) :
    ((retryQueue a b d n).sqs.at m).cur = (d.sqs.at m).cur := by
  unfold retryQueue
  split
  · split
    · rw [setCur_ne _ _ ne]
    · rfl
  · rfl

theorem retryQueue_own (a b : Fin 5) (d : Desk) (n : Fin 64) :
    ((retryQueue a b d n).sqs.at n).cur = (d.sqs.at n).cur.map (retryStop d.now a b) := by
  cases cur : (d.sqs.at n).cur with
  | none => simp only [retryQueue, cur, Option.map_none]
  | some c =>
    simp only [retryQueue, cur, Option.map_some, retryStop]
    split
    · exact setCur_same d n _
    · exact cur

/-- A retry breaks the timing of the commands that use both dies of the link, and does nothing else. -/
theorem dieLinkRetry_retried (d : Desk) (a b : Fin 5) : dieLinkRetry d a b = { d with sqs := (dieLinkRetry d a b).sqs } ∧
    ∀ n, ((dieLinkRetry d a b).sqs.at n).cur = (d.sqs.at n).cur.map (retryStop d.now a b) := by
  have only (l : List (Fin 64)) (e : Desk) : l.foldl (retryQueue a b) e = { e with sqs := (l.foldl (retryQueue a b) e).sqs } := by
    induction l generalizing e with
    | nil => rfl
    | cons n l ih =>
      rw [List.foldl_cons, ih, retryQueue_queues]
  rw [dieLinkRetry_eq]
  refine ⟨only _ d, fun n => ?_⟩
  refine foldl_queues_where (held := fun e => e.now = d.now) (made := fun x y => y = x.map (retryStop d.now a b))
    (fun e n now => ?_) (retryQueue_others a b) (fun e n now => ?_) rfl n
  · rw [retryQueue_queues]
    exact now
  · rw [retryQueue_own, now]

theorem linkThere_ne {g : Grade} {a b : Fin 5} (there : linkThere g a b = true) : (a != b) = true := by
  simp only [linkThere, Bool.and_eq_true] at there
  exact there.1.1

/-- Settles O40: `readUe_stops` for a lost byte, `retireFor_timed` and `retireTile_next` for a failed tile, `dieLinkRetry_retried`. -/
theorem lossesAreContained : Obligations.LossesAreContained := by
  intro s awake
  refine ⟨fun n c a k cur stage free unit => ?lost, fun i k some => ?suspension, fun l row n c served holder timed free => ?timed,
    fun l row x served serves free => ⟨fun y rest spares => ?next, fun spares => ?last⟩, fun a b => ⟨fun there => ?retry, fun no => ⟨?still, ?stays⟩⟩⟩
  case lost =>
    refine ⟨_, exec_uncorrectableRead awake (.otherRead n a) k, ?_⟩
    rw [settle_desk_sqs, settle_desk_mem, settle_desk_errs, noteTile_desk]
    obtain ⟨own, ue, cells, log, others⟩ := readUe_stops cur stage unit
    exact ⟨own, ue, cells, log, others⟩
  case suspension =>
    refine ⟨_, exec_uncorrectableRead awake (.suspension i) k, ?_⟩
    have here : (s.desk.slots.at i).susp.isSome = true := Option.isSome_iff_ne_none.mpr some
    rw [settle_desk_slots, noteTile_desk]
    simp only [recoverLoss, here, if_true]
    exact ⟨Tab.at_upd_same _ _ _, fun j ne => Tab.at_upd_ne _ _ _ _ ne⟩
  case timed =>
    obtain ⟨due, stops⟩ := retireFor_timed (e := envOf s) holder timed 5 row 0
    refine ⟨_, exec_tileLogicFault awake served row 0, ?_⟩
    rw [settle_desk_sqs, settle_desk_mem, settle_desk_tiles, noteTile_desk, stops]
    exact ⟨stopForFault_timed (envOf s) s.desk n timed free, rfl, rfl⟩
  case next =>
    obtain ⟨sq, now⟩ := retireFor_now (e := envOf s) free 5 row 0
    obtain ⟨tiles, mem, remaps⟩ := retireNow_tiles (envOf s) s.desk ⟨l, 5, row, 0, sq⟩
    obtain ⟨put, left, retired, count, same⟩ := retireTile_next serves spares
    refine ⟨_, exec_tileLogicFault awake served row 0, ?_⟩
    rw [settle_desk_mem, settle_desk_tiles, settle_desk_errs, noteTile_desk, now, tiles, mem, remaps]
    exact ⟨put, left, retired, count, congrArg Memory.cells same⟩
  case last =>
    obtain ⟨sq, now⟩ := retireFor_now (e := envOf s) free 5 row 0
    obtain ⟨tiles, -, remaps⟩ := retireNow_tiles (envOf s) s.desk ⟨l, 5, row, 0, sq⟩
    obtain ⟨put, retired, count⟩ := retireTile_none serves spares
    refine ⟨_, exec_tileLogicFault awake served row 0, ?_⟩
    rw [settle_desk_tiles, settle_desk_errs, noteTile_desk, now, tiles, remaps]
    exact ⟨put, retired, count⟩
  case retry =>
    obtain ⟨only, cur⟩ := dieLinkRetry_retried s.desk a b
    refine ⟨_, congrArg Host.Outcome.next (if_pos ?_), ?_⟩
    · rw [deskAwake_iff.mpr awake, there]
      rfl
    · rw [settle_desk_mem, settle_desk_slots, settle_desk_sqs]
      refine ⟨by rw [only], by rw [only], fun n => ?_⟩
      refine (cur n).trans (congrArg (fun f => (s.desk.sqs.at n).cur.map f) (funext fun c => ?_))
      simp only [retryStop, linkThere_ne there, Bool.and_true, Bool.and_eq_true, usesDies_iff, and_assoc]
  case still =>
    refine congrArg Host.Outcome.next (if_neg ?_)
    rw [no, Bool.and_false]
    decide
  case stays =>
    refine congrArg Host.Outcome.next (if_neg ?_)
    rw [no, Bool.and_false]
    decide

end Sys2Proof.Machine
end
section
/-!
SUPPORT. What the links carry: what sending, rerouting and an arriving flit leave of a port, of the inbox and of the words on the wires.
-/
namespace Sys2Proof.Machine

/-! ## Sending at a port -/

/-- A port that has sent and received: what it trains by, expects and counts is as it was. -/
def Carried (q r : FabPort) : Prop := ∃ queue replay txSeq turn credits ackAt given part, r = { q with
  queue := queue, replay := replay, txSeq := txSeq, turn := turn, credits := credits, ackAt := ackAt, given := given, part := part }

set_option Elab.async false in
theorem Carried.refl (q : FabPort) : Carried q q := ⟨_, _, _, _, _, _, _, _, rfl⟩

theorem Carried.trans {q r t : FabPort} (h : Carried q r) (k : Carried r t) : Carried q t := by
  obtain ⟨_, _, _, _, _, _, _, _, rfl⟩ := h
  obtain ⟨queue, replay, txSeq, turn, credits, ackAt, given, part, rfl⟩ := k
  exact ⟨queue, replay, txSeq, turn, credits, ackAt, given, part, rfl⟩

/-- Ports that have sent; one that is DOWN keeps all it holds. -/
def Sends (f g : Fabric) : Prop := g.far = f.far ∧ g.inbox = f.inbox ∧
  ∀ p, Carried (f.ports.at p) (g.ports.at p) ∧ ((f.ports.at p).link = .down → g.ports.at p = f.ports.at p)

theorem Sends.refl (f : Fabric) : Sends f f := ⟨rfl, rfl, fun _ => ⟨Carried.refl _, fun _ => rfl⟩⟩

theorem Sends.trans {f g h : Fabric} (a : Sends f g) (b : Sends g h) : Sends f h := by
  obtain ⟨far, inbox, ports⟩ := a
  obtain ⟨far', inbox', ports'⟩ := b
  refine ⟨far'.trans far, inbox'.trans inbox, fun p => ⟨(ports p).1.trans (ports' p).1, fun down => ?_⟩⟩
  have same := (ports p).2 down
  exact ((ports' p).2 (same ▸ down)).trans same

/-- Sending at one port, which is not DOWN. -/
theorem Sends.put {f g : Fabric} {p : Fin 16} {q : FabPort} (far : g.far = f.far) (inbox : g.inbox = f.inbox)
    (ports : g.ports = f.ports.put p q) (carried : Carried (f.ports.at p) q)
    (down : (f.ports.at p).link = .down → q = f.ports.at p) : Sends f g := by
  refine ⟨far, inbox, fun i => ?_⟩
  rw [ports]
  by_cases at_p : i = p
  · rw [at_p, Tab.at_put_same]
    exact ⟨carried, down⟩
  · rw [Tab.at_put_ne _ _ _ _ at_p]
    exact ⟨Carried.refl _, fun _ => rfl⟩

theorem pumpPort_carried (now : Nat) (p : Fin 16) (fuel : Nat) (q : FabPort) (out : List Out) :
    Carried q (pumpPort now p fuel (q, out)).1 := by
  induction fuel generalizing q out with
  | zero => exact Carried.refl q
  | succ fuel ih =>
    unfold pumpPort
    split
    · exact Carried.refl q
    · split
      · exact Carried.refl q
      · refine Carried.trans ?_ (ih _ _)
        exact ⟨_, _, _, _, _, _, _, _, rfl⟩

/-- A port that is not up sends nothing. -/
theorem pumpPort_of_not_up (now : Nat) (p : Fin 16) (fuel : Nat) {q : FabPort} (h : q.link ≠ .up) (out : List Out) :
    pumpPort now p fuel (q, out) = (q, out) := by
  cases fuel with
  | zero => rfl
  | succ fuel => exact if_pos (by simp [h])

/-- A port with no flit that may go sends nothing. -/
theorem pumpPort_of_none (now : Nat) (p : Fin 16) (fuel : Nat) {q : FabPort} (h : nextFlit q = none) (out : List Out) :
    pumpPort now p fuel (q, out) = (q, out) := by
  cases fuel with
  | zero => rfl
  | succ fuel =>
    unfold pumpPort
    rw [h]
    split <;> rfl

theorem pump_sends (now : Nat) (p : Fin 16) (f : Fabric) : Sends f (pump now p f).1 :=
  Sends.put rfl rfl rfl (pumpPort_carried _ _ _ _ _) fun down =>
    congrArg Prod.fst (pumpPort_of_not_up now p _ (by rw [down]; exact nofun) [])

/-- A port that sends nothing leaves the fabric and the wires. -/
theorem pump_idle {now : Nat} {p : Fin 16} {f : Fabric}
    (h : pumpPort now p (f.ports.at p).queue.length (f.ports.at p, []) = (f.ports.at p, [])) : pump now p f = (f, []) := by
  unfold pump
  simp only [h, Tab.put_at_self]

theorem pump_of_empty (now : Nat) {p : Fin 16} {f : Fabric} (empty : (f.ports.at p).queue = []) : pump now p f = (f, []) := by
  refine pump_idle ?_
  rw [empty]
  rfl

theorem emit_nil (s : State) : emit s [] = s := by
  unfold emit
  rw [List.append_nil]

theorem pumpState_of_empty {s : State} {p : Fin 16} (empty : (s.fab.ports.at p).queue = []) : pumpState s p = s := by
  unfold pumpState
  rw [pump_of_empty _ empty]
  exact emit_nil s

theorem queueOn_sends {p : Fin 16} (m : Msg) {f : Fabric} (h : (f.ports.at p).link ≠ .down) : Sends f (queueOn p m f) :=
  Sends.put rfl rfl rfl ⟨_, _, _, _, _, _, _, _, rfl⟩ fun down => absurd down h

/-! ## Routes leave by links that are there -/

theorem firstSome_some {α β : Type} {f : α → Option β} {y : β} : ∀ {l : List α}, firstSome f l = some y → ∃ x ∈ l, f x = some y
  | [], h => absurd h nofun
  | x :: l, h => by
    unfold firstSome at h
    split at h
    · next found => exact ⟨x, List.mem_cons_self, found.trans h⟩
    · obtain ⟨z, mem, found⟩ := firstSome_some h
      exact ⟨z, List.mem_cons_of_mem _ mem, found⟩

theorem directPort_there {f : Fabric} {id : Nat} {p : Fin 16} (h : directPort f id = some p) : (f.ports.at p).link ≠ .down := by
  have found := List.find?_some h
  intro down
  exact absurd found (by simp [down])

theorem hopOver_there {f : Fabric} {mid dst : Nat} {p : Fin 16} (h : hopOver f mid dst = some p) : (f.ports.at p).link ≠ .down := by
  unfold hopOver at h
  split at h
  · exact directPort_there h
  · exact absurd h nofun

theorem exitPort_there {self : Nat} {f : Fabric} {m : Msg} {p : Fin 16} (h : exitPort self f m = some p) :
    (f.ports.at p).link ≠ .down := by
  unfold exitPort at h
  split at h
  · exact directPort_there h
  · obtain ⟨x, mem, found⟩ := firstSome_some h
    simp only [List.mem_cons, List.not_mem_nil, or_false] at mem
    obtain rfl | rfl | rfl | rfl := mem
    · exact directPort_there found
    · split at found
      · exact hopOver_there found
      · exact absurd found nofun
    · split at found
      · exact hopOver_there found
      · exact absurd found nofun
    · split at found
      · obtain ⟨k, -, hop⟩ := firstSome_some found
        exact hopOver_there hop
      · exact absurd found nofun

/-! ## Messages go out -/

theorem queued_sends (now : Nat) {p : Fin 16} (m : Msg) {f : Fabric} (h : (f.ports.at p).link ≠ .down) :
    Sends f (pump now p (queueOn p m f)).1 := (queueOn_sends m h).trans (pump_sends now p _)

theorem sendMsg_sends (self now : Nat) (r : Fabric × List Out) (m : Msg) : Sends r.1 (sendMsg self now r m).1 := by
  unfold sendMsg
  simp only
  split
  · exact Sends.refl _
  · next exit =>
    split
    · exact Sends.refl _
    · exact Sends.trans (g := { r.1 with
        kept := r.1.kept ++ [{ m with mseq := seqOf r.1.outSeq m.dst m.cls }]
        outSeq := seqSet r.1.outSeq m.dst m.cls (seqAfter (seqOf r.1.outSeq m.dst m.cls)) })
        (Sends.refl r.1) (queued_sends now _ (exitPort_there exit))

theorem Sends.foldl {α : Type} {step : Fabric × List Out → α → Fabric × List Out} (one : ∀ r a, Sends r.1 (step r a).1) (l : List α)
    (r : Fabric × List Out) : Sends r.1 (l.foldl step r).1 := by
  induction l generalizing r with
  | nil => exact Sends.refl r.1
  | cons a l ih => exact (one r a).trans (ih _)

theorem sendAll_sends (self now : Nat) (f : Fabric) (ms : List Msg) : Sends f (sendAll self now f ms).1 :=
  Sends.foldl (sendMsg_sends self now) ms (f, [])

theorem retryUnsent_sends (self now : Nat) (f : Fabric) : Sends f (retryUnsent self now f).1 :=
  Sends.trans (g := { f with unsent := [] }) (Sends.refl f) (Sends.foldl (sendMsg_sends self now) f.unsent ({ f with unsent := [] }, []))

/-! ## States -/

/-- Messages have gone out: the fabric has sent, and words are on the wires. -/
def Spoke (s t : State) : Prop := ∃ fab sent, Sends s.fab fab ∧ t = emit { s with fab := fab } sent

theorem Spoke.refl (s : State) : Spoke s s := ⟨s.fab, [], Sends.refl _, (emit_nil s).symm⟩

theorem Spoke.trans {s t u : State} (h : Spoke s t) (k : Spoke t u) : Spoke s u := by
  obtain ⟨fab, sent, sends, rfl⟩ := h
  obtain ⟨fab', sent', sends', rfl⟩ := k
  refine ⟨fab', sent ++ sent', sends.trans sends', ?_⟩
  unfold emit
  simp only [List.append_assoc]

theorem pumpState_spoke (s : State) (p : Fin 16) : Spoke s (pumpState s p) := ⟨_, _, pump_sends s.desk.now p s.fab, rfl⟩

theorem reroute_spoke (s : State) (old : Fabric) : Spoke s (reroute s old) := by
  unfold reroute
  refine ⟨_, _, ?_, rfl⟩
  refine Sends.trans ?_ (retryUnsent_sends _ _ _)
  refine Sends.trans (g := reachPeers s.elec.moduleId.toNat s.desk.now s.fab) ⟨rfl, rfl, fun _ => ⟨Carried.refl _, fun _ => rfl⟩⟩ ?_
  refine Sends.foldl (fun r m => ?_) _ (_, [])
  split
  · next exit => exact queued_sends _ m (exitPort_there exit)
  · exact Sends.refl _

theorem resendOn_spoke {s : State} {p : Fin 16} (h : (s.fab.ports.at p).link ≠ .down) : Spoke s (resendOn s p) := by
  unfold resendOn
  refine Spoke.trans ?_ (pumpState_spoke _ p)
  suffices sends : Sends s.fab ((s.fab.kept.filter fun m => exitPort s.elec.moduleId.toNat s.fab m == some p).foldl
      (fun f m => queueOn p m f) s.fab) from ⟨_, [], sends, (emit_nil _).symm⟩
  generalize s.fab.kept.filter _ = l
  generalize s.fab = f at h ⊢
  induction l generalizing f with
  | nil => exact Sends.refl f
  | cons m l ih =>
    have one : Sends f (queueOn p m f) := queueOn_sends m h
    refine one.trans (ih _ ?_)
    obtain ⟨_, _, _, _, _, _, _, _, same⟩ := (one.2.2 p).1
    rw [same]
    exact h

/-! ## Settling -/

theorem settleClock_fab (s : State) : (settleClock s).fab = s.fab := by
  unfold settleClock
  split
  · split <;> rfl
  · rfl

theorem settlePower_fab (s : State) : (settlePower s).fab = s.fab := by
  unfold settlePower
  split
  · split <;> rfl
  · split <;> rfl
  · rfl

theorem settleTimer_fab (s : State) : (settleTimer s).fab = s.fab := by
  unfold settleTimer
  split <;> rfl

theorem latchStatus_fab (s : State) : (latchStatus s).fab = s.fab := rfl

theorem latchStatus_desk (s : State) : (latchStatus s).desk = s.desk := rfl

theorem settleNotes_fab (s : State) : (settleBlock (settleHeads s)).fab = s.fab := by
  obtain ⟨_, _, noted⟩ := settleHeads_eq s
  obtain ⟨_, blocked⟩ := settleBlock_eq (settleHeads s)
  rw [blocked, noted]

theorem settleNotes_out (s : State) : (settleBlock (settleHeads s)).desk.out = s.desk.out := by
  obtain ⟨_, _, noted⟩ := settleHeads_eq s
  obtain ⟨_, blocked⟩ := settleBlock_eq (settleHeads s)
  rw [blocked, noted]

theorem settle_fab_of_running {s : State} (up : s.elec.life = .running) : (settle s).fab = (flushTx s).fab := by
  rw [settle_of_running up, latchStatus_fab, settleTimer_fab, settlePower_fab, settleClock_fab, settleNotes_fab]

theorem settle_out_of_running {s : State} (up : s.elec.life = .running) : (settle s).desk.out = (flushTx s).desk.out := by
  rw [settle_of_running up, latchStatus_desk, settleTimer_desk, settlePower_desk, settleClock_desk, settleNotes_out]

/-- What settles sends. -/
theorem settle_sends (s : State) : Sends s.fab (settle s).fab := by
  by_cases up : s.elec.life = .running
  · rw [settle_fab_of_running up]
    unfold flushTx
    split
    · exact Sends.refl _
    · exact sendAll_sends _ _ _ _
  · rw [settle_of_not_running s up]
    exact Sends.refl _

/-- With nothing to send, what settles leaves the fabric and the wires. -/
theorem settle_quiet {s : State} (quiet : s.desk.tx = []) : (settle s).fab = s.fab ∧ (settle s).desk.out = s.desk.out := by
  by_cases up : s.elec.life = .running
  · have same : flushTx s = s := if_pos (by rw [quiet]; rfl)
    rw [settle_fab_of_running up, settle_out_of_running up, same]
    exact ⟨rfl, rfl⟩
  · rw [settle_of_not_running s up]
    exact ⟨rfl, rfl⟩

end Sys2Proof.Machine
end
section
/-!
SUPPORT. O41: flits over a link.
-/
namespace Sys2Proof.Machine

/-! ## What arrives -/

/-- An arrival: ports carry what they carry, and more words may be on the wires. -/
def Landed (s t : State) : Prop :=
  (∀ p, Carried (s.fab.ports.at p) (t.fab.ports.at p)) ∧ ∃ sent, t.desk.out = s.desk.out ++ sent

set_option Elab.async false in
theorem Landed.refl (s : State) : Landed s s := ⟨fun _ => Carried.refl _, [], (List.append_nil _).symm⟩

theorem Landed.trans {s t u : State} (h : Landed s t) (k : Landed t u) : Landed s u := by
  obtain ⟨ports, sent, out⟩ := h
  obtain ⟨ports', sent', out'⟩ := k
  exact ⟨fun p => (ports p).trans (ports' p), sent ++ sent', by rw [out', out, List.append_assoc]⟩

theorem Spoke.landed {s t : State} (h : Spoke s t) : Landed s t := by
  obtain ⟨fab, sent, sends, rfl⟩ := h
  exact ⟨fun p => (sends.2.2 p).1, sent, rfl⟩

theorem Landed.emit (s : State) (l : List Out) : Landed s (emit s l) := ⟨fun _ => Carried.refl _, l, rfl⟩

theorem Landed.settle (s : State) : Landed s (settle s) := ⟨fun p => ((settle_sends s).2.2 p).1, settle_out s⟩

/-- An arrival that changes one port as it carries, and the fabric beside its ports at will. -/
theorem Landed.put {s : State} {p : Fin 16} {q : FabPort} {f : Fabric} (ports : f.ports = s.fab.ports.put p q)
    (carried : Carried (s.fab.ports.at p) q) : Landed s { s with fab := f } := by
  refine ⟨fun i => ?_, [], (List.append_nil _).symm⟩
  show Carried _ (f.ports.at i)
  rw [ports]
  by_cases at_p : i = p
  · rw [at_p, Tab.at_put_same]
    exact carried
  · rw [Tab.at_put_ne _ _ _ _ at_p]
    exact Carried.refl _

theorem Landed.ports {s : State} {f : Fabric} (ports : f.ports = s.fab.ports) : Landed s { s with fab := f } :=
  ⟨fun i => by rw [show ({ s with fab := f } : State).fab.ports = s.fab.ports from ports]; exact Carried.refl _,
    [], (List.append_nil _).symm⟩

theorem wake_landed (code : BitVec 4) (s : State) : Landed s (wake code s) := by
  unfold wake
  simp only
  split
  · exact Landed.refl s
  · split
    · exact ⟨fun _ => Carried.refl _, [], (List.append_nil _).symm⟩
    · split <;> exact ⟨fun _ => Carried.refl _, [], (List.append_nil _).symm⟩

theorem freeRoom_landed (s : State) (p : Fin 16) (cls n : Nat) : Landed s (freeRoom s p cls n) := by
  unfold freeRoom
  simp only
  split
  · exact Landed.refl s
  · refine Landed.trans ?_ (Landed.emit _ _)
    exact Landed.put rfl ⟨_, _, _, _, _, _, _, _, rfl⟩

theorem deliverNext_ports (fuel : Nat) (p : Fin 16) (m : Msg) (f : Fabric) : (deliverNext fuel p m f).ports = f.ports := by
  induction fuel generalizing p m f with
  | zero => rfl
  | succ fuel ih =>
    unfold deliverNext
    simp only
    split
    · exact ih _ _ _
    · rfl

theorem arrive_landed (s : State) (p : Fin 16) (m : Msg) : Landed s (arrive s p m) := by
  have woken : Landed s (arrivalWakes m.cls s) := by
    unfold arrivalWakes
    split
    · exact wake_landed 5 s
    · exact Landed.refl s
  refine woken.trans ?_
  unfold arrive
  generalize arrivalWakes m.cls s = u
  simp only
  split
  · exact Landed.ports rfl
  split
  · exact Landed.refl u
  split
  · exact Landed.emit u _
  split
  · exact (Landed.ports (deliverNext_ports _ _ _ _)).trans (Landed.emit _ _)
  split
  · exact Landed.refl u
  · exact Landed.ports rfl

theorem landMsg_landed (s : State) (p : Fin 16) (m : Msg) : Landed s (landMsg s p m) := by
  unfold landMsg
  split
  · exact arrive_landed s p m
  split
  · exact Landed.refl s
  split
  · next q _ =>
    refine Landed.trans (t := { s with fab := queueOn q m s.fab }) ?_ (pumpState_spoke _ q).landed
    exact Landed.put rfl ⟨_, _, _, _, _, _, _, _, rfl⟩
  · exact Landed.refl s

theorem takeFlit_landed (s : State) (p : Fin 16) (f : Bytes) : Landed s (takeFlit s p f) := by
  have joined (k : Fin 5) (b : Bytes) : Landed s (updFab s p fun q => { q with part := q.part.put k b }) :=
    Landed.put rfl ⟨_, _, _, _, _, _, _, _, rfl⟩
  have landed (c : Bool) (u : State) (m : Msg) : Landed u (if c then landMsg u p m else u) := by
    split
    · exact landMsg_landed u p m
    · exact Landed.refl u
  unfold takeFlit
  simp only
  split
  · generalize (if flitFirst f then [] else _) ++ slice f 8 (flitLen f) = body
    have taken := (joined (fin 5 (flitClass f)) []).trans
      (landed (!(s.fab.ports.at p).refused && ((s.fab.ports.at p).accepted || field body 0 1 == 4)) _ (msgOf body))
    split
    · exact taken
    · exact taken.trans (freeRoom_landed _ _ _ _)
  · exact joined _ _

/-! ## Flits -/

theorem linkTakes_iff {s : State} {p : Fin 16} : linkTakes s p = true ↔ LinkUp s p := by
  simp [linkTakes, LinkUp, and_assoc]

theorem exec_dataFlit_up {s : State} {p : Fin 16} (up : LinkUp s p) (f : Bytes) (fec : Bool) :
    exec (.dataFlit p f fec) s = .next (settle (dataFlit s p f fec)) :=
  congrArg Host.Outcome.next (if_pos (linkTakes_iff.mpr up))

theorem satAdd_word (a d : Nat) : satAdd 32 a d = min 0xFFFFFFFF (a + d) := rfl

/-- Credits alone, and those of the class that the flit names. -/
theorem takeCredits_eq (f : Bytes) (q : FabPort) : takeCredits f q = { q with credits := (takeCredits f q).credits } := by
  unfold takeCredits
  simp only
  split <;> rfl

theorem takeCredits_credits (f : Bytes) (q : FabPort) (k : Fin 5) : (takeCredits f q).credits.at k =
    q.credits.at k + if fieldBits f 6 2 0 5 = k.val then fieldBits f 6 2 5 11 else 0 := by
  unfold takeCredits
  simp only
  split
  · next small =>
    by_cases same : fieldBits f 6 2 0 5 = k.val
    · have here : fin 5 (fieldBits f 6 2 0 5) = k := Fin.ext ((Nat.mod_eq_of_lt small).trans same)
      rw [here, if_pos same, Tab.at_upd_same]
    · have other : k ≠ fin 5 (fieldBits f 6 2 0 5) := fun e => same (by rw [e]; exact (Nat.mod_eq_of_lt small).symm)
      rw [if_neg same, Tab.at_upd_ne _ _ _ _ other]
      rfl
  · next large =>
    rw [if_neg fun same : fieldBits f 6 2 0 5 = k.val => large (by rw [same]; exact k.isLt)]
    rfl

theorem updFab_at (s : State) (p : Fin 16) (f : FabPort → FabPort) : (updFab s p f).fab.ports.at p = f (s.fab.ports.at p) :=
  Tab.at_upd_same _ _ _

/-- The acknowledgement of a data flit. -/
def ackOf (p : Fin 16) (seq : BitVec 12) : Out := .flit p (flitBytes 2 0 false false 0 seq.toNat 31 0 [])

theorem dataFlit_turn {s : State} {p : Fin 16} {f : Bytes} {fec : Bool} (good : flitGood f = true) (fecGood : fec = true)
    (data : flitType f = 1) (turn : flitSeq f = (s.fab.ports.at p).rxSeq) : dataFlit s p f fec =
    (if 5 ≤ flitClass f then
      emit (badFlit (updFab s p fun q => takeCredits f { q with rxSeq := q.rxSeq + 1, nacked := false }) p)
        [ackOf p (s.fab.ports.at p).rxSeq]
    else if (s.fab.ports.at p).given.at (fin 5 (flitClass f)) = 0 then s
    else pumpState (takeFlit (emit (updFab (updFab s p fun q => takeCredits f { q with rxSeq := q.rxSeq + 1, nacked := false }) p
      fun q => { q with given := q.given.upd (fin 5 (flitClass f)) fun c => c - 1 }) [ackOf p (s.fab.ports.at p).rxSeq]) p f) p) := by
  unfold dataFlit
  simp only [good, fecGood, data, turn, Bool.and_self, Bool.not_true, bne_self_eq_false, Bool.false_eq_true, if_false]
  rfl

/-- The port of a data flit in its turn, with its credit used. -/
theorem turned_port (s : State) (p : Fin 16) (f : Bytes) (g : Tab 5 Nat → Tab 5 Nat) :
    let t := updFab (updFab s p fun q => takeCredits f { q with rxSeq := q.rxSeq + 1, nacked := false }) p fun q => { q with given := g q.given }
    (t.fab.ports.at p).rxSeq = (s.fab.ports.at p).rxSeq + 1 ∧ (t.fab.ports.at p).nacked = false := by
  simp only [updFab_at]
  rw [takeCredits_eq]
  exact ⟨rfl, rfl⟩

theorem Carried.expects {q r : FabPort} (h : Carried q r) : r.rxSeq = q.rxSeq ∧ r.nacked = q.nacked ∧ r.errs = q.errs := by
  obtain ⟨_, _, _, _, _, _, _, _, rfl⟩ := h
  exact ⟨rfl, rfl, rfl⟩

/-- R286, R297: a good data flit in its turn, with credit. -/
theorem dataFlit_taken {s : State} {p : Fin 16} {f : Bytes} {fec : Bool} (up : LinkUp s p) (good : flitGood f = true)
    (fecGood : fec = true) (data : flitType f = 1) (turn : flitSeq f = (s.fab.ports.at p).rxSeq) (known : flitClass f < 5)
    (room : 0 < (s.fab.ports.at p).given.at (fin 5 (flitClass f))) :
    ∃ t more, exec (.dataFlit p f fec) s = .next t ∧ (t.fab.ports.at p).rxSeq = (s.fab.ports.at p).rxSeq + 1 ∧
      (t.fab.ports.at p).nacked = false ∧ t.desk.out = s.desk.out ++ ackOf p (flitSeq f) :: more := by
  rw [exec_dataFlit_up up, dataFlit_turn good fecGood data turn, if_neg (by omega), if_neg (by omega)]
  obtain ⟨rx, nacked⟩ := turned_port s p f fun g => g.upd (fin 5 (flitClass f)) fun c => c - 1
  generalize started : updFab (updFab s p _) p _ = u at rx nacked ⊢
  have out : u.desk.out = s.desk.out := by rw [← started]; rfl
  obtain ⟨ports, sent, more⟩ := ((takeFlit_landed (emit u [ackOf p (s.fab.ports.at p).rxSeq]) p f).trans
    (pumpState_spoke _ p).landed).trans (Landed.settle _)
  obtain ⟨rx', nacked', -⟩ := (ports p).expects
  refine ⟨_, sent, rfl, rx'.trans rx, nacked'.trans nacked, more.trans ?_⟩
  show (u.desk.out ++ _) ++ sent = _
  rw [out, turn, List.append_assoc]
  rfl

/-- R295, log entry 53: a flit of a reserved class. -/
theorem dataFlit_reserved {s : State} {p : Fin 16} {f : Bytes} {fec : Bool} (up : LinkUp s p) (good : flitGood f = true)
    (fecGood : fec = true) (data : flitType f = 1) (turn : flitSeq f = (s.fab.ports.at p).rxSeq) (reserved : 5 ≤ flitClass f) :
    ∃ t, exec (.dataFlit p f fec) s = .next t ∧ (t.fab.ports.at p).rxSeq = (s.fab.ports.at p).rxSeq + 1 ∧
      t.fab.inbox = s.fab.inbox ∧ (s.desk.tx = [] →
        (t.fab.ports.at p).errs = min 0xFFFFFFFF ((s.fab.ports.at p).errs + 1) ∧
        t.desk.out = s.desk.out ++ [ackOf p (flitSeq f)]) := by
  rw [exec_dataFlit_up up, dataFlit_turn good fecGood data turn, if_pos reserved]
  generalize dropped : emit (badFlit (updFab s p _) p) _ = u
  have port : (u.fab.ports.at p).rxSeq = (s.fab.ports.at p).rxSeq + 1 ∧
      (u.fab.ports.at p).errs = min 0xFFFFFFFF ((s.fab.ports.at p).errs + 1) := by
    rw [← dropped, emit_fab]
    unfold badFlit
    rw [updFab_at, updFab_at, takeCredits_eq]
    exact ⟨rfl, rfl⟩
  have rest : u.fab.inbox = s.fab.inbox ∧ u.desk.tx = s.desk.tx ∧ u.desk.out = s.desk.out ++ [ackOf p (flitSeq f)] := by
    rw [← dropped, turn]
    exact ⟨rfl, rfl, rfl⟩
  obtain ⟨rx, errs⟩ := port
  obtain ⟨inbox, tx, out⟩ := rest
  obtain ⟨-, inbox', ports⟩ := settle_sends u
  refine ⟨settle u, rfl, (ports p).1.expects.1.trans rx, inbox'.trans inbox, fun quiet => ?_⟩
  obtain ⟨fab, words⟩ := settle_quiet (tx.trans quiet)
  exact ⟨by rw [fab, errs], words.trans out⟩

/-! ## Control flits -/

/-- A control flit at a port with nothing to send: its port is changed and words go out, and no more follows. -/
theorem control_settled {s : State} {p : Fin 16} {g : FabPort → FabPort} {words : List Out} (quiet : s.desk.tx = [])
    (empty : (g (s.fab.ports.at p)).queue = []) :
    (settle (pumpState (emit (updFab s p g) words) p)).fab.ports.at p = g (s.fab.ports.at p) ∧
    (settle (pumpState (emit (updFab s p g) words) p)).desk.out = s.desk.out ++ words := by
  have at_p : (emit (updFab s p g) words).fab.ports.at p = g (s.fab.ports.at p) := updFab_at s p g
  rw [pumpState_of_empty (at_p ▸ empty)]
  obtain ⟨fab, out⟩ := settle_quiet (s := emit (updFab s p g) words) quiet
  exact ⟨by rw [fab, at_p], out⟩

/-- A flit that fails its check, and that is no data flit, is counted. -/
theorem badFlit_eq (s : State) (p : Fin 16) : badFlit s p = { s with fab := withLink s.fab p { s.fab.ports.at p with
    errs := min 0xFFFFFFFF ((s.fab.ports.at p).errs + 1) } } := rfl

theorem exec_ackFlit {s : State} {p : Fin 16} (up : LinkUp s p) (f : Bytes) (fec : Bool) : exec (.ackFlit p f fec) s = .next
    (if !(flitGood f && fec) then badFlit s p
    else if flitType f != 2 then s
    else settle (pumpState (updFab s p (takeAck s.desk.now f)) p)) :=
  congrArg Host.Outcome.next (if_neg (by rw [linkTakes_iff.mpr up]; exact nofun))

/-- A port after a nack: what it resends, and the credits of the flit. -/
def nackedPort (now : Nat) (f : Bytes) (n : Nat) (q : FabPort) : FabPort := takeCredits f { q with
  retries := satAdd 32 q.retries n, ackAt := now
  nackSeq := flitAck f, nackCount := if q.nackCount ≠ 0 ∧ q.nackSeq = flitAck f then q.nackCount + 1 else 1 }

theorem exec_nackFlit {s : State} {p : Fin 16} (up : LinkUp s p) (f : Bytes) (fec : Bool) : exec (.nackFlit p f fec) s = .next
    (if !(flitGood f && fec) then badFlit s p
    else if flitType f != 3 then s
    else settle (pumpState (emit (updFab s p (nackedPort s.desk.now f (fromNack (flitAck f) (s.fab.ports.at p).replay).length))
      ((fromNack (flitAck f) (s.fab.ports.at p).replay).map fun x => .flit p x.2)) p)) :=
  congrArg Host.Outcome.next (if_neg (by rw [linkTakes_iff.mpr up]; exact nofun))

theorem exec_idleFlit {s : State} {p : Fin 16} (up : LinkUp s p) (f : Bytes) (fec : Bool) : exec (.idleFlit p f fec) s = .next
    (if !(flitGood f && fec) then badFlit s p
    else if flitType f != 0 then s
    else settle (pumpState (updFab s p (takeCredits f)) p)) :=
  congrArg Host.Outcome.next (if_neg (by rw [linkTakes_iff.mpr up]; exact nofun))

/-- Credits of a port that has taken those of a flit, whatever else of it changed. -/
theorem creditsReturned_of {f : Bytes} {s t : State} {p : Fin 16} {q : FabPort} (h : t.fab.ports.at p = takeCredits f q)
    (same : q.credits = (s.fab.ports.at p).credits) : CreditsReturned f s t p := fun k => by
  rw [h, takeCredits_credits, same]

theorem takeCredits_queue (f : Bytes) (q : FabPort) : (takeCredits f q).queue = q.queue := by rw [takeCredits_eq]

/-- R286 step 1: an acknowledgement. -/
theorem ackFlit_taken {s : State} {p : Fin 16} {f : Bytes} {fec : Bool} (up : LinkUp s p) (good : flitGood f = true)
    (fecGood : fec = true) (empty : (s.fab.ports.at p).queue = []) (quiet : s.desk.tx = []) (kind : flitType f = 2) :
    ∃ t, exec (.ackFlit p f fec) s = .next t ∧ (t.fab.ports.at p).replay = afterAck (flitAck f) (s.fab.ports.at p).replay ∧
      (t.fab.ports.at p).nackCount = 0 ∧ t.desk.out = s.desk.out ∧ CreditsReturned f s t p := by
  obtain ⟨port, out⟩ := control_settled (words := []) (g := takeAck s.desk.now f) quiet (by
    unfold takeAck
    rw [takeCredits_queue]
    exact empty)
  rw [emit_nil] at port out
  refine ⟨_, ?_, ?_, ?_, out.trans (List.append_nil _), creditsReturned_of port rfl⟩
  · rw [exec_ackFlit up]
    simp [good, fecGood, kind]
  all_goals
    rw [port]
    unfold takeAck
    rw [takeCredits_eq]

/-- R286 step 3: a nack. -/
theorem nackFlit_taken {s : State} {p : Fin 16} {f : Bytes} {fec : Bool} (up : LinkUp s p) (good : flitGood f = true)
    (fecGood : fec = true) (empty : (s.fab.ports.at p).queue = []) (quiet : s.desk.tx = []) (kind : flitType f = 3) :
    ∃ t, exec (.nackFlit p f fec) s = .next t ∧ (t.fab.ports.at p).replay = (s.fab.ports.at p).replay ∧
      t.desk.out = s.desk.out ++ (fromNack (flitAck f) (s.fab.ports.at p).replay).map (fun x => .flit p x.2) ∧
      (t.fab.ports.at p).retries = min 0xFFFFFFFF ((s.fab.ports.at p).retries +
        (fromNack (flitAck f) (s.fab.ports.at p).replay).length) ∧ CreditsReturned f s t p := by
  obtain ⟨port, out⟩ := control_settled (p := p)
    (words := (fromNack (flitAck f) (s.fab.ports.at p).replay).map fun x => .flit p x.2)
    (g := nackedPort s.desk.now f (fromNack (flitAck f) (s.fab.ports.at p).replay).length) quiet (by
    unfold nackedPort
    rw [takeCredits_queue]
    exact empty)
  refine ⟨_, ?_, ?_, out, ?_, creditsReturned_of port rfl⟩
  · rw [exec_nackFlit up]
    simp [good, fecGood, kind]
  all_goals
    rw [port]
    unfold nackedPort
    rw [takeCredits_eq]
  rfl

/-- R284: an idle flit. -/
theorem idleFlit_taken {s : State} {p : Fin 16} {f : Bytes} {fec : Bool} (up : LinkUp s p) (good : flitGood f = true)
    (fecGood : fec = true) (empty : (s.fab.ports.at p).queue = []) (quiet : s.desk.tx = []) (kind : flitType f = 0) :
    ∃ t, exec (.idleFlit p f fec) s = .next t ∧ (t.fab.ports.at p).replay = (s.fab.ports.at p).replay ∧
      t.desk.out = s.desk.out ∧ CreditsReturned f s t p := by
  obtain ⟨port, out⟩ := control_settled (words := []) (g := takeCredits f) quiet ((takeCredits_queue f _).trans empty)
  rw [emit_nil] at port out
  refine ⟨_, ?_, ?_, out.trans (List.append_nil _), creditsReturned_of port rfl⟩
  · rw [exec_idleFlit up]
    simp [good, fecGood, kind]
  · rw [port, takeCredits_eq]

/-- A port changed and words sent, as one state. -/
theorem emit_updFab (s : State) (p : Fin 16) (g : FabPort → FabPort) (l : List Out) : emit (updFab s p g) l =
    { s with fab := withLink s.fab p (g (s.fab.ports.at p)), desk := withOut s.desk l } := rfl

theorem updFab_updFab (s : State) (p : Fin 16) (f g : FabPort → FabPort) : updFab (updFab s p f) p g = updFab s p (g ∘ f) := by
  show ({ s with fab := { s.fab with ports := (s.fab.ports.put p _).put p (g ((s.fab.ports.put p _).at p)) } } : State) = _
  rw [Tab.put_put, Tab.at_put_same]
  rfl

/-- R286 step 2: the first data flit that fails its check is nacked. -/
theorem dataFlit_bad {s : State} {p : Fin 16} {f : Bytes} {fec : Bool} (bad : flitGood f = false ∨ fec = false)
    (fresh : (s.fab.ports.at p).nacked = false) : dataFlit s p f fec = { s with
      fab := withLink s.fab p { s.fab.ports.at p with errs := min 0xFFFFFFFF ((s.fab.ports.at p).errs + 1), nacked := true }
      desk := withOut s.desk [.flit p (flitBytes 3 0 false false 0 (s.fab.ports.at p).rxSeq.toNat 31 0 [])] } := by
  have fails : (flitGood f && fec) = false := Bool.and_eq_false_iff.mpr bad
  unfold dataFlit
  simp only [fails, fresh, Bool.not_false, if_true, Bool.false_and, Bool.false_eq_true, if_false]
  unfold badFlit
  rw [updFab_updFab, emit_updFab]
  rfl

/-- A data flit out of its turn is nacked once. -/
theorem dataFlit_astray {s : State} {p : Fin 16} {f : Bytes} {fec : Bool} (good : flitGood f = true) (fecGood : fec = true)
    (data : flitType f = 1) (astray : flitSeq f ≠ (s.fab.ports.at p).rxSeq) : dataFlit s p f fec =
    if (s.fab.ports.at p).nacked then s else { s with
      fab := withLink s.fab p { s.fab.ports.at p with nacked := true }
      desk := withOut s.desk [.flit p (flitBytes 3 0 false false 0 (s.fab.ports.at p).rxSeq.toNat 31 0 [])] } := by
  unfold dataFlit
  simp only [good, fecGood, data, bne_iff_ne.mpr astray, Bool.and_self, Bool.not_true, bne_self_eq_false, Bool.false_eq_true, if_false,
    if_true]
  rfl

/-- A link that is not up takes no flit. -/
theorem flits_of_not_up {s : State} {p : Fin 16} (down : ¬ LinkUp s p) (f : Bytes) (fec : Bool) :
    exec (.dataFlit p f fec) s = .next s ∧ exec (.ackFlit p f fec) s = .next s ∧ exec (.nackFlit p f fec) s = .next s ∧
      exec (.idleFlit p f fec) s = .next s := by
  have no : linkTakes s p = false := Bool.eq_false_iff.mpr (mt linkTakes_iff.mp down)
  exact ⟨congrArg Host.Outcome.next (if_neg (by rw [no]; exact nofun)), congrArg Host.Outcome.next (if_pos (by rw [no]; rfl)),
    congrArg Host.Outcome.next (if_pos (by rw [no]; rfl)), congrArg Host.Outcome.next (if_pos (by rw [no]; rfl))⟩

/-- Settles O41: each kind of flit by the lemma of its outcome. -/
theorem flitsCrossInOrder : Obligations.FlitsCrossInOrder := by
  unfold Obligations.FlitsCrossInOrder
  intro s p f fec
  refine ⟨fun up => ⟨fun good fecGood data turn => ⟨fun known room => ?_, fun known full => ?_, fun reserved => ?_⟩, fun bad fresh _ => ?_,
    fun good fecGood data astray => ?_, fun good fecGood empty quiet => ⟨?_, ?_, ?_⟩, fun bad => ⟨_, rfl, ?_⟩⟩, fun down => flits_of_not_up down f fec⟩
  · exact dataFlit_taken up good fecGood data turn known room
  · rw [exec_dataFlit_up up, dataFlit_turn good fecGood data turn, if_neg (by omega), if_pos full]
  · exact dataFlit_reserved up good fecGood data turn reserved
  · rw [exec_dataFlit_up up, dataFlit_bad bad fresh]
  · rw [exec_dataFlit_up up, dataFlit_astray good fecGood data astray]
  · exact ackFlit_taken up good fecGood empty quiet
  · exact nackFlit_taken up good fecGood empty quiet
  · exact idleFlit_taken up good fecGood empty quiet
  · have fails : (!(flitGood f && fec)) = true := by
      rw [Bool.not_eq_true', Bool.and_eq_false_iff]
      exact bad
    rw [exec_ackFlit up, exec_nackFlit up, exec_idleFlit up, if_pos fails, if_pos fails, if_pos fails]
    exact ⟨rfl, rfl, rfl⟩

end Sys2Proof.Machine
end
section
/-!
SUPPORT. O42: links that train, retrain and fall.
-/
namespace Sys2Proof.Machine

/-! ## Training -/

set_option Elab.async false in
/-- A port without credit has no flit that may go. -/
theorem nextFlit_of_no_credit {q : FabPort} (spent : ∀ k, q.credits.at k = 0) : nextFlit q = none := by
  have ready (c : Nat) : readyOf q c = none := by
    unfold readyOf
    rw [List.find?_eq_none]
    intro f _
    simp [mayGo, spent]
  unfold nextFlit
  rw [ready, ready]
  refine (firstSome_none _).mpr fun k _ => ?_
  simp only [ready]
  rfl

theorem pumpState_of_none {s : State} {p : Fin 16} (none : nextFlit (s.fab.ports.at p) = none) : pumpState s p = s := by
  unfold pumpState
  rw [pump_idle (pumpPort_of_none _ _ _ none _)]
  exact emit_nil s

theorem exec_linkUp_trained {s : State} {p : Fin 16} (up : Running s) (there : slPresent (envOf s) s.desk p = true)
    (down : (s.fab.ports.at p).link ≠ .up) (fresh : inRetrain (s.fab.ports.at p) = false) : exec (.linkUp p) s = .next
    (settle (emit (updFab s p (freshLink (helloMsg s p) (freshCredits s.fab p))) (firstCredits p (freshCredits s.fab p)))) := by
  refine (congrArg Host.Outcome.next (if_pos ?_)).trans ?_
  · rw [there, fresh, show s.elec.life = .running from up]
    simp [down]
  · simp only
    rw [pumpState_of_none]
    refine nextFlit_of_no_credit fun k => ?_
    rw [emit_fab, updFab_at]
    exact Tab.at_all 0 k

/-- A port changed and words sent by a module that has nothing else to send. -/
theorem settle_changed {s : State} (p : Fin 16) (g : FabPort → FabPort) (words : List Out) (quiet : s.desk.tx = []) :
    (settle (emit (updFab s p g) words)).fab = (updFab s p g).fab ∧
    (settle (emit (updFab s p g) words)).desk.out = s.desk.out ++ words := settle_quiet (s := emit (updFab s p g) words) quiet

theorem updFab_at_ne (s : State) {p q : Fin 16} (f : FabPort → FabPort) (other : q ≠ p) :
    (updFab s p f).fab.ports.at q = s.fab.ports.at q := Tab.at_upd_ne _ _ _ _ other

theorem linkUp_trained {s : State} {p : Fin 16} (up : Running s) (there : slPresent (envOf s) s.desk p = true)
    (quiet : s.desk.tx = []) (down : (s.fab.ports.at p).link ≠ .up) (fresh : inRetrain (s.fab.ports.at p) = false) :
    ∃ t, exec (.linkUp p) s = .next t ∧
      (t.fab.ports.at p).link = .up ∧ (t.fab.ports.at p).accepted = false ∧ (t.fab.ports.at p).greeted = false ∧
      (t.fab.ports.at p).refused = false ∧ (t.fab.ports.at p).txSeq = 0 ∧ (t.fab.ports.at p).rxSeq = 0 ∧
      (t.fab.ports.at p).replay = [] ∧ (t.fab.ports.at p).queue = msgFlits (helloMsg s p) ∧
      (t.fab.ports.at p).given = freshCredits s.fab p ∧
      t.desk.out = s.desk.out ++ firstCredits p (freshCredits s.fab p) ∧ ∀ q, q ≠ p → t.fab.ports.at q = s.fab.ports.at q := by
  obtain ⟨fab, out⟩ := settle_changed p (freshLink (helloMsg s p) (freshCredits s.fab p)) (firstCredits p (freshCredits s.fab p)) quiet
  refine ⟨_, exec_linkUp_trained up there down fresh, ?_⟩
  rw [fab, updFab_at]
  exact ⟨rfl, rfl, rfl, rfl, rfl, rfl, rfl, rfl, rfl, out, fun q other => updFab_at_ne s _ other⟩

/-! ## Retrains -/

theorem exec_linkRetrain {s : State} {p : Fin 16} (up : Running s) (there : slPresent (envOf s) s.desk p = true)
    (may : mayRetrain (s.fab.ports.at p) = true) (b : Bool) : exec (.linkRetrain p b) s = .next (settle (retrain s p b)) :=
  congrArg Host.Outcome.next (if_pos (by rw [there, may, show s.elec.life = .running from up]; rfl))

/-- A port whose retrain has succeeded. -/
def retrained (now : Nat) (q : FabPort) : FabPort := { q with
  retrains := satAdd 32 q.retrains 1, retries := satAdd 32 q.retries q.replay.length
  link := .up, failedTrains := 0, nackCount := 0, nacked := false, ackAt := now }

theorem retrain_trained (s : State) (p : Fin 16) : retrain s p true = pumpState (emit (updFab s p (retrained s.desk.now))
    ((s.fab.ports.at p).replay.map fun x => .flit p x.2)) p := rfl

/-- A port whose retrain has failed, and that tries again. -/
def untrained (q : FabPort) : FabPort := { q with
  retrains := satAdd 32 q.retrains 1, link := .training, failedTrains := q.failedTrains + 1 }

theorem retrain_failed {s : State} {p : Fin 16} (early : (s.fab.ports.at p).failedTrains < 2) :
    retrain s p false = updFab s p untrained := by
  unfold retrain
  simp only [Bool.false_eq_true, if_false]
  exact if_pos (by omega)

theorem retrain_lost {s : State} {p : Fin 16} (late : 2 ≤ (s.fab.ports.at p).failedTrains) : retrain s p false =
    reroute (updFab s p fun q => downLink { q with retrains := satAdd 32 q.retrains 1, failedTrains := 0 }) s.fab := by
  unfold retrain
  simp only [Bool.false_eq_true, if_false]
  exact if_neg (by omega)

/-- A port that is DOWN keeps what it holds, whatever goes out by the others. -/
theorem Spoke.down {s t : State} (h : Spoke s t) {p : Fin 16} (down : (s.fab.ports.at p).link = .down) :
    t.fab.ports.at p = s.fab.ports.at p := by
  obtain ⟨fab, sent, sends, rfl⟩ := h
  exact (sends.2.2 p).2 down

theorem settle_down {s : State} {p : Fin 16} (down : (s.fab.ports.at p).link = .down) :
    (settle s).fab.ports.at p = s.fab.ports.at p := ((settle_sends s).2.2 p).2 down

/-- A link that goes DOWN, after the messages of other routes have gone. -/
theorem rerouted_down (s : State) (p : Fin 16) (g : FabPort → FabPort) :
    (settle (reroute (updFab s p fun q => downLink (g q)) s.fab)).fab.ports.at p = downLink (g (s.fab.ports.at p)) := by
  have here : (updFab s p fun q => downLink (g q)).fab.ports.at p = downLink (g (s.fab.ports.at p)) := updFab_at _ _ _
  have moved := (reroute_spoke (updFab s p fun q => downLink (g q)) s.fab).down (p := p) (by rw [here]; rfl)
  rw [settle_down (by rw [moved, here]; rfl), moved, here]

theorem linkRetrain_trained {s : State} {p : Fin 16} (up : Running s) (there : slPresent (envOf s) s.desk p = true)
    (quiet : s.desk.tx = []) (may : mayRetrain (s.fab.ports.at p) = true) (empty : (s.fab.ports.at p).queue = []) :
    ∃ t, exec (.linkRetrain p true) s = .next t ∧ (t.fab.ports.at p).link = .up ∧
      (t.fab.ports.at p).retrains = min 0xFFFFFFFF ((s.fab.ports.at p).retrains + 1) ∧
      (t.fab.ports.at p).retries = min 0xFFFFFFFF ((s.fab.ports.at p).retries + (s.fab.ports.at p).replay.length) ∧
      (t.fab.ports.at p).replay = (s.fab.ports.at p).replay ∧
      t.desk.out = s.desk.out ++ (s.fab.ports.at p).replay.map (fun x => .flit p x.2) := by
  obtain ⟨port, out⟩ := control_settled (p := p) (words := (s.fab.ports.at p).replay.map fun x => .flit p x.2)
    (g := retrained s.desk.now) quiet empty
  refine ⟨_, (exec_linkRetrain up there may true).trans (by rw [retrain_trained]), ?_⟩
  rw [port]
  exact ⟨rfl, rfl, rfl, rfl, out⟩

theorem linkRetrain_failed {s : State} {p : Fin 16} (up : Running s) (there : slPresent (envOf s) s.desk p = true)
    (quiet : s.desk.tx = []) (may : mayRetrain (s.fab.ports.at p) = true) (early : (s.fab.ports.at p).failedTrains < 2) :
    ∃ t, exec (.linkRetrain p false) s = .next t ∧ (t.fab.ports.at p).link = .training ∧
      (t.fab.ports.at p).failedTrains = (s.fab.ports.at p).failedTrains + 1 ∧
      (t.fab.ports.at p).replay = (s.fab.ports.at p).replay := by
  refine ⟨_, (exec_linkRetrain up there may false).trans (by rw [retrain_failed early]), ?_⟩
  rw [(settle_quiet (s := updFab s p untrained) quiet).1, updFab_at]
  exact ⟨rfl, rfl, rfl⟩

theorem linkRetrain_lost {s : State} {p : Fin 16} (up : Running s) (there : slPresent (envOf s) s.desk p = true)
    (may : mayRetrain (s.fab.ports.at p) = true) (late : 2 ≤ (s.fab.ports.at p).failedTrains) :
    ∃ t, exec (.linkRetrain p false) s = .next t ∧ (t.fab.ports.at p).link = .down ∧ (t.fab.ports.at p).accepted = false := by
  refine ⟨_, (exec_linkRetrain up there may false).trans (by rw [retrain_lost late]), ?_⟩
  rw [rerouted_down s p fun q => { q with retrains := satAdd 32 q.retrains 1, failedTrains := 0 }]
  exact ⟨rfl, rfl⟩

/-! ## Routes -/

theorem exec_routeChange_lost {s : State} {p : Fin 16} (up : Running s) (there : slPresent (envOf s) s.desk p = true)
    (link : (s.fab.ports.at p).link = .up) : exec (.routeChange (.own p) false) s = .next (settle (reroute (updFab s p downLink) s.fab)) :=
  congrArg Host.Outcome.next (if_pos (by rw [there, link, show s.elec.life = .running from up]; rfl))

theorem exec_routeChange_trained {s : State} {p : Fin 16} (up : Running s) (there : slPresent (envOf s) s.desk p = true)
    (link : (s.fab.ports.at p).link = .up) (accepted : (s.fab.ports.at p).accepted = true) :
    exec (.routeChange (.own p) true) s = .next (settle (resendOn (reroute s s.fab) p)) :=
  (congrArg Host.Outcome.next (if_pos (by rw [there, link, show s.elec.life = .running from up]; rfl))).trans
    (congrArg Host.Outcome.next ((if_pos rfl).trans (if_pos accepted)))

theorem exec_routeChange_none {s : State} {p : Fin 16} (link : (s.fab.ports.at p).link ≠ .up) (b : Bool) :
    exec (.routeChange (.own p) b) s = .next s := congrArg Host.Outcome.next (if_neg (by simp [link]))

theorem exec_routeChange_far {s : State} {x y : Fin 64} (up : Running s) (grade : gradeSl s.fuses.grade ≠ 0)
    (pair : cabledPair x.val y.val = true) (notX : x.val ≠ s.elec.moduleId.toNat) (notY : y.val ≠ s.elec.moduleId.toNat) (b : Bool) :
    exec (.routeChange (.far x y) b) s = .next (settle (reroute { s with fab := setFar x y b s.fab } s.fab)) :=
  congrArg Host.Outcome.next (if_pos (by rw [pair, show s.elec.life = .running from up]; simp [grade, notX, notY]))

theorem gradeSl_of_present {s : State} {p : Fin 16} (there : slPresent (envOf s) s.desk p = true) : gradeSl s.fuses.grade ≠ 0 := by
  unfold slPresent at there
  simp only [Bool.and_eq_true, decide_eq_true_eq] at there
  obtain ⟨inside, -⟩ := there
  have inside : p.val < gradeSl s.fuses.grade := inside
  omega

/-- What messages that go out leave of Front Desk. -/
theorem Spoke.desk {s t : State} (h : Spoke s t) : t.desk.sqs = s.desk.sqs ∧ t.desk.mem = s.desk.mem := by
  obtain ⟨fab, sent, -, rfl⟩ := h
  exact ⟨rfl, rfl⟩

theorem Spoke.port {s t : State} (h : Spoke s t) (p : Fin 16) : Carried (s.fab.ports.at p) (t.fab.ports.at p) := by
  obtain ⟨fab, sent, sends, rfl⟩ := h
  exact (sends.2.2 p).1

theorem Spoke.far {s t : State} (h : Spoke s t) : t.fab.far = s.fab.far := by
  obtain ⟨fab, sent, sends, rfl⟩ := h
  exact sends.1

theorem settle_desk_kept (s : State) : (settle s).desk.sqs = s.desk.sqs ∧ (settle s).desk.mem = s.desk.mem := by
  rw [settle_desk_eq]
  exact ⟨rfl, rfl⟩

theorem Carried.trained {q r : FabPort} (h : Carried q r) : r.link = q.link ∧ r.accepted = q.accepted := by
  obtain ⟨_, _, _, _, _, _, _, _, rfl⟩ := h
  exact ⟨rfl, rfl⟩

theorem routeChange_trained {s : State} {p : Fin 16} (up : Running s) (there : slPresent (envOf s) s.desk p = true)
    (link : (s.fab.ports.at p).link = .up) (accepted : (s.fab.ports.at p).accepted = true) :
    ∃ t, exec (.routeChange (.own p) true) s = .next t ∧ (t.fab.ports.at p).link = .up ∧ (t.fab.ports.at p).accepted = true ∧
      t.desk.sqs = s.desk.sqs ∧ t.desk.mem = s.desk.mem := by
  have moved := reroute_spoke s s.fab
  have still : ((reroute s s.fab).fab.ports.at p).link ≠ .down := by
    rw [(moved.port p).trained.1, link]
    exact nofun
  have sent := moved.trans (resendOn_spoke still)
  obtain ⟨link', accepted'⟩ := ((sent.port p).trans ((settle_sends _).2.2 p).1).trained
  obtain ⟨sqs, mem⟩ := settle_desk_kept (resendOn (reroute s s.fab) p)
  exact ⟨_, exec_routeChange_trained up there link accepted, link'.trans link, accepted'.trans accepted,
    sqs.trans sent.desk.1, mem.trans sent.desk.2⟩

/-- A link between two other modules, noted up or DOWN. -/
theorem mem_setFar {x y : Fin 64} (order : x.val < y.val) (b : Bool) (f : Fabric) :
    ((x, y) ∈ (setFar x y b f).far ↔ b = true) ∧ ∀ z, z ≠ (x, y) → (z ∈ (setFar x y b f).far ↔ z ∈ f.far) := by
  unfold setFar
  simp only [if_pos order]
  cases b with
  | false =>
    refine ⟨by simp, fun z other => ?_⟩
    simp [List.mem_filter, other]
  | true =>
    refine ⟨by simp, fun z other => ?_⟩
    simp [List.mem_append, List.mem_filter, other]

theorem routeChange_far {s : State} {x y : Fin 64} (up : Running s) (grade : gradeSl s.fuses.grade ≠ 0)
    (pair : cabledPair x.val y.val = true) (notX : x.val ≠ s.elec.moduleId.toNat) (notY : y.val ≠ s.elec.moduleId.toNat)
    (order : x.val < y.val) (b : Bool) : ∃ t, exec (.routeChange (.far x y) b) s = .next t ∧
      ((x, y) ∈ t.fab.far ↔ b = true) ∧ (∀ z, z ≠ (x, y) → (z ∈ t.fab.far ↔ z ∈ s.fab.far)) ∧
      t.desk.sqs = s.desk.sqs ∧ t.desk.mem = s.desk.mem := by
  have moved := reroute_spoke { s with fab := setFar x y b s.fab } s.fab
  obtain ⟨sqs, mem⟩ := settle_desk_kept (reroute { s with fab := setFar x y b s.fab } s.fab)
  have far := (settle_sends _).1.trans moved.far
  obtain ⟨noted, others⟩ := mem_setFar order b s.fab
  refine ⟨_, exec_routeChange_far up grade pair notX notY b, ?_⟩
  rw [far]
  exact ⟨noted, others, sqs.trans moved.desk.1, mem.trans moved.desk.2⟩

theorem linkUp_ignored {s : State} {p : Fin 16} (h : (s.fab.ports.at p).link = .up ∨ inRetrain (s.fab.ports.at p) = true) :
    exec (.linkUp p) s = .next s := by
  refine congrArg Host.Outcome.next (if_neg ?_)
  obtain up | train := h
  · simp [up]
  · simp [train]

theorem linkRetrain_ignored {s : State} {p : Fin 16} (may : mayRetrain (s.fab.ports.at p) = false) (b : Bool) :
    exec (.linkRetrain p b) s = .next s := congrArg Host.Outcome.next (if_neg (by simp [may]))

/-- Settles O42: training, retrains and routes, one lemma for each end. -/
theorem linksTrainAndFall : Obligations.LinksTrainAndFall := by
  unfold Obligations.LinksTrainAndFall
  intro s p up there quiet
  refine ⟨linkUp_trained up there quiet, linkUp_ignored, fun may => ⟨linkRetrain_trained up there quiet may,
    linkRetrain_failed up there quiet may, linkRetrain_lost up there may⟩, fun may b => linkRetrain_ignored may b,
    fun link => ⟨⟨_, exec_routeChange_lost up there link, ?_⟩, routeChange_trained up there link⟩,
    fun link b => exec_routeChange_none link b,
    fun x y order pair notX notY b => routeChange_far up (gradeSl_of_present there) pair notX notY order b⟩
  have port : (settle (reroute (updFab s p downLink) s.fab)).fab.ports.at p = downLink (s.fab.ports.at p) := rerouted_down s p id
  rw [port]
  exact ⟨rfl, rfl, rfl, rfl⟩

end Sys2Proof.Machine
end
section
/-!
SUPPORT. The work of a packet command: its start and its end, reads of the module's own memory, and O54.
-/
namespace Sys2Proof.Machine

/-! ## Work at hand -/

set_option Elab.async false in
theorem workOf_of {d : Desk} {n : Fin 64} {o : Op} {c : Cmd} (cur : (d.sqs.at n).cur = some c) (op : pktOp c.pkt = some o)
    (clock : d.tclkOff = false ∨ opTile o = false) (stage : c.stage = .dispatched ∨ c.stage = .working) (stop : c.stop = none) :
    workOf d n o = some c := by
  unfold workOf
  rw [cur]
  exact if_pos (by obtain off | own := clock <;> obtain at_hand | working := stage <;> simp [*])

theorem AtHand.work {s : State} {n : Fin 64} {o : Op} {c : Cmd} (h : AtHand s n o c) (own : opTile o = false) :
    workOf s.desk n o = some c := by
  obtain ⟨cur, op, stage, stop⟩ := h
  exact workOf_of cur op (.inr own) (.inl stage) stop

theorem beginWork_dispatched (d : Desk) {c : Cmd} (stage : c.stage = .dispatched) : beginWork d c =
    { c with stage := .working, began := true, startedAt := d.now, resumedAt := d.now, progressAt := d.now } :=
  if_pos (by rw [stage]; rfl)

theorem beginWork_working (d : Desk) {c : Cmd} (stage : c.stage = .working) : beginWork d c = c :=
  if_neg (by rw [stage]; exact nofun)

/-- A command that begins and ends in one event. -/
theorem endWork_begun (d e : Desk) (n : Fin 64) {c : Cmd} (stage : c.stage = .dispatched) (status : Nat) (result : Bytes) (limit : Nat) :
    endWork e n (beginWork d c) status result limit = withCur e n (workDone d.now c status result limit) := by
  rw [beginWork_dispatched d stage]
  rfl

/-- A command of Front Desk's own at hand begins, does its work and ends. -/
theorem frontDesk_atHand {s : State} {n : Fin 64} {o : Op} {c : Cmd} (h : AtHand s n o c) (own : opTile o = false) (f : Desk → Cmd → Desk)
    (result : Cmd → Bytes) : frontDesk s.desk n o f result =
    withCur (f s.desk (beginWork s.desk c)) n (workDone s.desk.now c stOk (result (beginWork s.desk c)) 0) := by
  unfold frontDesk
  rw [h.work own]
  obtain ⟨-, -, stage, -⟩ := h
  exact endWork_begun s.desk _ n stage _ _ _

/-! ## Reads of the module's own memory -/

theorem tableBase_lt_hostBase : tableBase < hostBase := by
  unfold tableBase hostBase
  decide

/-- A sound range of the module's own memory reads as its bytes. -/
theorem readRange_plain {s : State} {d : Desk} {addr len : Nat} (plain : PlainSpan s addr len) (mem : d.mem = s.desk.mem) (n : Fin 64)
    (cache : List Host.Cell) : readRange (envOf s) d n cache addr len = ⟨d, cellReads d.mem.cells (addrDevice addr) len, none⟩ := by
  obtain ⟨own, below, sound⟩ := plain
  rw [← mem] at sound
  have memory : addrDevice addr < hostBase := Nat.lt_of_le_of_lt (Nat.le_trans (Nat.le_add_right _ _) below) tableBase_lt_hostBase
  unfold readRange
  simp only [own, Bool.not_true, Bool.false_eq_true, if_false]
  rw [if_neg (Nat.not_le.mpr memory)]
  by_cases end_ : tableBase ≤ addrDevice addr
  · have empty : len = 0 := by
      generalize tableBase = top at below end_
      omega
    rw [if_pos end_, empty]
    simp only [cellReads, List.range_zero, List.map_nil]
  · rw [if_neg end_, sound]

/-- Own operands are asked of no other module. -/
theorem askOperands_own {e : Env} (d : Desk) {c : Cmd} (cls : Nat) {rs : List (Nat × Nat)} (fresh : c.asked = 0)
    (own : ∀ r ∈ rs, addrOwn e r.1 = true) : askOperands e d c cls rs = (d, { c with asked := 1 }) := by
  unfold askOperands
  rw [if_pos fresh]
  refine foldl_still fun r mem => ?_
  exact if_pos (own r mem)

theorem readRanges_one {s : State} {d : Desk} {n : Fin 64} {c : Cmd} {a len : Nat} (plain : PlainSpan s a len) (mem : d.mem = s.desk.mem) :
    readRanges (envOf s) d n c [(a, len)] = (d, [cellReads d.mem.cells (addrDevice a) len], none) := by
  unfold readRanges
  simp only [List.foldl_cons, List.foldl_nil, Option.isSome_none, Bool.false_eq_true, if_false, readRange_plain plain mem, List.nil_append]

theorem readRanges_two {s : State} {d : Desk} {n : Fin 64} {c : Cmd} {a len b more : Nat} (plain : PlainSpan s a len)
    (plain' : PlainSpan s b more) (mem : d.mem = s.desk.mem) : readRanges (envOf s) d n c [(a, len), (b, more)] =
    (d, [cellReads d.mem.cells (addrDevice a) len, cellReads d.mem.cells (addrDevice b) more], none) := by
  unfold readRanges
  simp only [List.foldl_cons, List.foldl_nil, Option.isSome_none, Bool.false_eq_true, if_false, readRange_plain plain mem,
    readRange_plain plain' mem, List.nil_append, List.singleton_append]

/-! ## Fences -/

theorem fenceTo_value (f : Fence) (v : Nat) : (fenceTo f v).value.toNat = max f.value.toNat (min v (2 ^ 64 - 1)) := by
  have below := f.value.isLt
  refine Nat.mod_eq_of_lt ?_
  omega

theorem signalled_value (clear : Bool) (v : Nat) (f : Fence) : (signalled clear v f).value.toNat =
    max f.value.toNat (min (if v = 0 then f.value.toNat + 1 else v) (2 ^ 64 - 1)) := by
  unfold signalled
  simp only
  split <;> exact fenceTo_value f _

theorem signalled_rest (clear : Bool) (v : Nat) (f : Fence) :
    (signalled clear v f).err = (f.err && !clear) ∧ (signalled clear v f).hiLatch = f.hiLatch := by
  unfold signalled
  cases clear
  · exact ⟨(Bool.and_true _).symm, rfl⟩
  · exact ⟨(Bool.and_false _).symm, rfl⟩

theorem fenceSignal_at {s : State} {n : Fin 64} {c : Cmd} (h : AtHand s n .fenceSignal c) : exec (.fenceSignal n) s = .next (settle { s with
    desk := withCur (withFence s.desk (fin 256 (field c.pkt 16 1))
      (signalled (bit (field c.pkt 17 1) 0) (field c.pkt 24 8) (s.desk.fences.at (fin 256 (field c.pkt 16 1))))) n
      (workDone s.desk.now c stOk [] 0) }) := by
  have made := frontDesk_atHand h rfl (fun d c =>
      let f := signalled (bit (field c.pkt 17 1) 0) (field c.pkt 24 8)
      { d with fences := d.fences.upd (fin 256 (field c.pkt 16 1)) f }) fun _ => []
  rw [beginWork_dispatched _ h.2.2.1] at made
  exact congrArg (fun d => Host.Outcome.next (settle { s with desk := d })) made

/-! ## Itineraries -/

/-- What an ITINERARY_STORE reads lies in sound memory. -/
theorem storeReads_plain {s : State} {n : Fin 64} {c : Cmd} {p : Bytes} (packets : PlainSpan s (field p 24 8) (128 * field p 18 2))
    (refs : field p 20 2 ≠ 0 → PlainSpan s (field p 32 8) (8 * field p 20 2)) :
    (∀ r ∈ storeReads p, addrOwn (envOf s) r.1 = true) ∧ ∃ bs, readRanges (envOf s) s.desk n c (storeReads p) = (s.desk, bs, none) ∧
      bs.getD 0 [] = cellReads s.desk.mem.cells (addrDevice (field p 24 8)) (128 * field p 18 2) ∧
      piecesOf 8 (field p 20 2) (bs.getD 1 []) =
        piecesOf 8 (field p 20 2) (cellReads s.desk.mem.cells (addrDevice (field p 32 8)) (8 * field p 20 2)) := by
  unfold storeReads
  by_cases none : field p 20 2 = 0
  · rw [if_pos none, none]
    refine ⟨fun r mem => ?_, _, readRanges_one packets rfl, rfl, rfl⟩
    obtain rfl : r = _ := by simpa using mem
    exact packets.1
  · rw [if_neg none]
    refine ⟨fun r mem => ?_, _, readRanges_two packets (refs none) rfl, rfl, rfl⟩
    obtain rfl | rfl : r = _ ∨ r = _ := by simpa using mem
    · exact packets.1
    · exact (refs none).1

theorem deskStore_at {s : State} {n : Fin 64} {c : Cmd} {ps rs : List Bytes} (h : AtHand s n .itineraryStore c) (fresh : Untouched c)
    (packets : PlainSpan s (field c.pkt 24 8) (128 * field c.pkt 18 2))
    (refs : field c.pkt 20 2 ≠ 0 → PlainSpan s (field c.pkt 32 8) (8 * field c.pkt 20 2))
    (ps_eq : ps = piecesOf 128 (field c.pkt 18 2) (cellReads s.desk.mem.cells (addrDevice (field c.pkt 24 8)) (128 * field c.pkt 18 2)))
    (rs_eq : rs = piecesOf 8 (field c.pkt 20 2) (cellReads s.desk.mem.cells (addrDevice (field c.pkt 32 8)) (8 * field c.pkt 20 2))) :
    deskStore (envOf s) s.desk n = storeItin s.desk n { beginWork s.desk c with asked := 1 } ps rs := by
  obtain ⟨-, asked, remote, -⟩ := fresh
  obtain ⟨own, bs, read, first, second⟩ := storeReads_plain (n := n) (c := { beginWork s.desk c with asked := 1 }) packets refs
  have begun : (beginWork s.desk c).asked = 0 ∧ (beginWork s.desk c).remote = [] := by
    rw [beginWork_dispatched _ h.2.2.1]
    exact ⟨asked, remote⟩
  have none : readsOut { beginWork s.desk c with asked := 1 } = false := by
    unfold readsOut
    rw [begun.2]
    rfl
  unfold deskStore
  rw [h.work rfl]
  simp only [askOperands_own s.desk 3 begun.1 own, none, read, first, second, Bool.false_eq_true, if_false]
  rw [← ps_eq, ← rs_eq]

theorem storeItin_sound {d : Desk} {n : Fin 64} {c : Cmd} {ps rs : List Bytes} (stage : c.stage = .dispatched)
    (packets : ps.all storable = true) (refs : rs.all (refOk ps) = true) : storeItin d n { beginWork d c with asked := 1 } ps rs =
    withCur { d with itins := d.itins.upd (fin 256 (field c.pkt 16 1)) fun x => { x with
      packets := ps, refs := rs.map refOf, owner := some (queuePort n) } } n { workDone d.now c stOk [] 0 with asked := 1 } := by
  unfold storeItin
  rw [packets, refs, beginWork_dispatched _ stage]
  rfl

theorem storeItin_unsound {d : Desk} {n : Fin 64} {c : Cmd} {ps rs : List Bytes} (stage : c.stage = .dispatched)
    (bad : ps.all storable = false ∨ rs.all (refOk ps) = false) : storeItin d n { beginWork d c with asked := 1 } ps rs =
    withCur d n { workDone d.now c stBad [] 0 with asked := 1 } := by
  unfold storeItin
  rw [Bool.and_eq_false_iff.mpr bad, beginWork_dispatched _ stage]
  rfl

theorem deskLaunch_at {s : State} {n : Fin 64} {c : Cmd} (h : AtHand s n .itineraryLaunch c) {k : Fin 256} (itin : c.itin = some k)
    (stored : (s.desk.itins.at k).packets ≠ []) : deskLaunch s.desk n = { s.desk with
      sqs := s.desk.sqs.upd n fun q => { q with cur := none, launch := some ⟨beginWork s.desk c, 0, 0, stOk, c.dispatchedAt⟩ } } := by
  have there : (s.desk.itins.at k).packets.isEmpty = false := by
    cases packets : (s.desk.itins.at k).packets with
    | nil => exact absurd packets stored
    | cons => rfl
  unfold deskLaunch
  rw [h.work rfl]
  simp only [itin, Option.map_some, Option.getD_some, there, Bool.false_eq_true, if_false]
  rw [beginWork_dispatched _ h.2.2.1]

/-- Settles O54: each command at hand begins and ends in its one event. -/
theorem fencesAndItineraries : Obligations.FencesAndItineraries := by
  unfold Obligations.FencesAndItineraries
  intro s n c
  refine ⟨fun f x h at_f is_x => ?signal, fun h => ?wait, fun h => ?patch, fun ps rs h fresh packets refs ps_eq rs_eq => ?store,
    fun k h itin stored => ?launch⟩
  case signal =>
    obtain ⟨err, latch⟩ := signalled_rest (bit (field c.pkt 17 1) 0) (field c.pkt 24 8) x
    have value := signalled_value (bit (field c.pkt 17 1) 0) (field c.pkt 24 8) x
    have below := x.value.isLt
    subst at_f
    subst is_x
    refine ⟨_, fenceSignal_at h, fun zero => ?_, fun more small => ?_, ?_, err, latch⟩
    · rw [value, if_pos zero]
      omega
    · rw [value, if_neg more]
      omega
    · rw [value]
      exact Nat.le_max_left _ _
  case wait =>
    have made := frontDesk_atHand h rfl (fun d _ => d) fun c => leBytes 8 c.done
    rw [beginWork_dispatched _ h.2.2.1] at made
    exact congrArg (fun d => Host.Outcome.next (settle { s with desk := d })) made
  case patch =>
    have made := frontDesk_atHand h rfl (fun d c => { d with itins := d.itins.upd (fin 256 (field c.pkt 16 1)) fun i =>
      { i with window := spliceBytes i.window (field c.pkt 17 1) (slice c.pkt 24 (field c.pkt 18 1)) } }) fun _ => []
    rw [beginWork_dispatched _ h.2.2.1] at made
    exact congrArg (fun d => Host.Outcome.next (settle { s with desk := d })) made
  case store =>
    have made := deskStore_at h fresh packets refs ps_eq rs_eq
    refine ⟨fun sound sound' => ?_, fun bad => ?_⟩
    · rw [storeItin_sound h.2.2.1 sound sound'] at made
      exact congrArg (fun d => Host.Outcome.next (settle { s with desk := d })) made
    · rw [storeItin_unsound h.2.2.1 bad] at made
      exact congrArg (fun d => Host.Outcome.next (settle { s with desk := d })) made
  case launch => exact congrArg (fun d => Host.Outcome.next (settle { s with desk := d })) (deskLaunch_at h itin stored)

end Sys2Proof.Machine
end
section
/-!
SUPPORT. Writes to the module's own memory, and O55.
-/
namespace Sys2Proof.Machine

/-! ## Writes -/

set_option Elab.async false in
theorem noneMeets_of_badSector {m : Memory} {a n : Nat} (sound : badSector m a n = none) : ∀ x ∈ m.ue, meets a n (32 * x) (32 * x + 32) = false := by
  unfold badSector at sound
  have empty := List.min?_eq_none_iff.mp sound
  intro x mem
  refine Bool.eq_false_iff.mpr fun hit => ?_
  have kept : x ∈ m.ue.filter fun s => meets a n (32 * s) (32 * s + 32) := List.mem_filter.mpr ⟨mem, hit⟩
  rw [empty] at kept
  exact absurd kept List.not_mem_nil

theorem narrowHits_of_sound {m : Memory} {a n : Nat} (sound : badSector m a n = none) : narrowHits m a n = [] := by
  unfold narrowHits
  rw [List.filter_eq_nil_iff]
  intro x mem
  rw [noneMeets_of_badSector sound x mem]
  exact nofun

theorem soundPrefix_of_sound {m : Memory} {a n : Nat} (sound : badSector m a n = none) : soundPrefix m a n = n := by
  unfold soundPrefix
  rw [narrowHits_of_sound sound]
  rfl

/-- A range in the module's own memory is written whole. -/
theorem writeRange_plain {s : State} {d : Desk} {addr : Nat} {bs : Bytes} (plain : PlainSpan s addr bs.length)
    (ue : d.mem.ue = s.desk.mem.ue) (n : Fin 64) :
    writeRange (envOf s) d n addr bs = ⟨{ d with mem := memStore d.mem (addrDevice addr) bs }, bs, none⟩ := by
  obtain ⟨own, below, sound⟩ := plain
  have sound : badSector d.mem (addrDevice addr) bs.length = none := by
    unfold badSector at sound ⊢
    rw [ue]
    exact sound
  have memory : addrDevice addr < hostBase := Nat.lt_of_le_of_lt (Nat.le_trans (Nat.le_add_right _ _) below) tableBase_lt_hostBase
  unfold writeRange
  simp only [own, Bool.not_true, Bool.false_eq_true, if_false]
  rw [if_neg (Nat.not_le.mpr memory), narrowHits_of_sound sound, soundPrefix_of_sound sound, List.take_length]
  rfl

/-- A command's write to sound memory of the module. -/
theorem cmdPut_plain {s : State} {d : Desk} {addr : Nat} {bs : Bytes} (plain : PlainSpan s addr bs.length)
    (ue : d.mem.ue = s.desk.mem.ue) (some_ : bs ≠ []) (n : Fin 64) (c : Cmd) (cls : Nat) :
    cmdPut (envOf s) d n c cls addr bs = ⟨{ d with mem := memStore d.mem (addrDevice addr) bs }, c, bs, true⟩ := by
  unfold cmdPut
  rw [if_neg (by simpa using some_), if_pos plain.1, writeRange_plain plain ue]

/-- What a write to sound memory leaves in it. -/
theorem memStore_cells {m : Memory} {a : Nat} {bs : Bytes} (sound : badSector m a bs.length = none) :
    (memStore m a bs).cells = cellWrites m.cells a bs := by
  unfold memStore
  rw [narrowHits_of_sound sound]
  rfl

theorem storedAt_of {d e : Desk} {a : Nat} {bs : Bytes} (cells : e.mem.cells = cellWrites d.mem.cells a bs) :
    StoredAt d e a bs.length fun i => bs.getD i 0 := by
  unfold StoredAt
  rw [cells]
  exact ⟨fun i inside => by rw [cellRead_writes_same _ _ _ _ inside]; simp [inside], fun x outside => cellRead_writes_ne _ _ outside⟩

/-! ## Front Desk after an event -/

theorem withCur_cur (d : Desk) (n : Fin 64) (c : Cmd) : ((withCur d n c).sqs.at n).cur = some c :=
  congrArg Sq.cur (Tab.at_upd_same _ _ _)

theorem withCur_ne (d : Desk) {n m : Fin 64} (c : Cmd) (other : m ≠ n) : (withCur d n c).sqs.at m = d.sqs.at m :=
  Tab.at_upd_ne _ _ _ _ other

/-- What settles keeps of Front Desk beside its queues. -/
theorem settle_desk_rest (s : State) : (settle s).desk.sqs = s.desk.sqs ∧ (settle s).desk.cqs = s.desk.cqs ∧
    (settle s).desk.slots = s.desk.slots ∧ (settle s).desk.fences = s.desk.fences ∧ (settle s).desk.mem = s.desk.mem ∧
    (settle s).desk.aborts = s.desk.aborts ∧ (settle s).desk.itins = s.desk.itins ∧ (settle s).desk.tiles = s.desk.tiles ∧
    (settle s).desk.ledger = s.desk.ledger := by
  rw [settle_desk_eq]
  exact ⟨rfl, rfl, rfl, rfl, rfl, rfl, rfl, rfl, rfl⟩

/-- A command whose work changes device memory and its own queue, after what follows it. -/
theorem onlyMemory_settled {s : State} {u : State} {n : Fin 64} (h : OnlyMemory s.desk u.desk n) : OnlyMemory s.desk (settle u).desk n := by
  obtain ⟨desk, others⟩ := h
  refine ⟨?_, fun m other => ?_⟩
  · rw [settle_desk_eq, desk]
  · rw [settle_desk_eq]
    exact others m other

theorem onlyMemory_withCur (d : Desk) (n : Fin 64) (m : Memory) (c : Cmd) : OnlyMemory d (withCur { d with mem := m } n c) n :=
  ⟨rfl, fun _ other => withCur_ne _ _ other⟩

/-! ## ABORT -/

theorem abortResult_eq (a b c d : Nat) : abortResult a b c d =
    leBytes 4 a ++ leBytes 4 b ++ leBytes 4 c ++ leBytes 4 d ++ List.replicate 12 0 := by
  unfold abortResult slice
  have len : (leBytes 4 a ++ leBytes 4 b ++ leBytes 4 c ++ leBytes 4 d).length = 16 := by simp [le_length]
  simp only [List.drop_zero, List.take_of_length_le (show _ ≤ 28 by rw [len]; omega), len]

/-- An ABORT that is decoded, ready and passes its checks is carried out. -/
theorem exec_abort {s : State} {n : Fin 64} {i : BitVec 12} (awake : Awake s) (on : (s.desk.sqs.at n).enable = true)
    (fresh : i ∈ freshIndices s.desk n) (op : pktOp (ringPacket s.desk (s.desk.sqs.at n) i) = some .abort)
    (ready : isReady s.desk n ⟨ringPacket s.desk (s.desk.sqs.at n) i, i, none, visibleAt (s.desk.sqs.at n) i s.desk.now⟩ = true)
    (early : earlyChecks s.desk ⟨ringPacket s.desk (s.desk.sqs.at n) i, i, none, visibleAt (s.desk.sqs.at n) i s.desk.now⟩ = none)
    (late : lateChecks (envOf s) s.desk n .abort (ringPacket s.desk (s.desk.sqs.at n) i) [] = none) :
    exec (.abort n i) s = .next (settle { s with desk := runAbort s.desk n (dispatchedCmd (envOf s) s.desk n
      ⟨ringPacket s.desk (s.desk.sqs.at n) i, i, none, visibleAt (s.desk.sqs.at n) i s.desk.now⟩ .abort []) }) := by
  have decoded : deskAbort (envOf s) s.desk n i = runAbort s.desk n (dispatchedCmd (envOf s) s.desk n
      ⟨ringPacket s.desk (s.desk.sqs.at n) i, i, none, visibleAt (s.desk.sqs.at n) i s.desk.now⟩ .abort []) := by
    unfold deskAbort
    simp only [on, fresh, op, ready, early, late, List.contains_eq_mem, decide_true, beq_self_eq_true, Bool.and_self, if_true]
  refine (congrArg Host.Outcome.next (if_pos (deskAwake_iff.mpr awake))).trans ?_
  exact congrArg (fun d => Host.Outcome.next (settle { s with desk := d })) decoded

theorem runAbort_none {d : Desk} {n : Fin 64} {c : Cmd}
    (none : (abortTargets d c.pkt).filter (fun j => !(pktSlot c.pkt == n && j == c.index)) = []) :
    runAbort d n c = commitCmd d n { c with
      stage := .ended, began := true, status := stDone, result := abortResult (pktSlot c.pkt).val 0 0xFF 0 } := by
  unfold runAbort
  simp only [none]

/-- The ABORT as it waits for its one target. -/
def abortWait (d : Desk) (n : Fin 64) (c : Cmd) (j : BitVec 12) : AbortWait :=
  ⟨n, { c with
    stage := .ended, began := true, status := stOk
    result := abortResult (pktSlot c.pkt).val (pktPseq (packetAt d (pktSlot c.pkt) j)) 0 1 }, pktSlot c.pkt, j, [j]⟩

theorem runAbort_one {d : Desk} {n : Fin 64} {c : Cmd} {j : BitVec 12}
    (one : (abortTargets d c.pkt).filter (fun j => !(pktSlot c.pkt == n && j == c.index)) = [j]) :
    runAbort d n c = reapSlots (releaseIdle
      (stopIndex { d with aborts := d.aborts ++ [abortWait d n c j] } (pktSlot c.pkt) .abort j) (pktSlot c.pkt)) := by
  unfold runAbort
  simp only [one]
  rfl

theorem askStop_going (now : Nat) (k : Stop) {c : Cmd} (going : c.stop = none) :
    askStop now k c = { c with stop := some k, stopAt := now } := by
  unfold askStop
  rw [going]

theorem stopCur_working {d : Desk} {m : Fin 64} {r : Cmd} (k : Stop) (cur : (d.sqs.at m).cur = some r) (working : r.stage = .working)
    (going : r.stop = none) : stopCur d m k = setCur d m (some { r with stop := some k, stopAt := d.now }) := by
  unfold stopCur
  rw [cur]
  simp only
  rw [if_neg (by rw [working]; exact nofun), if_neg (by rw [working]; exact nofun), askStop_going d.now k going]

/-- A command under way, at work, is told to stop. -/
theorem stopIndex_working {d : Desk} {m : Fin 64} {j : BitVec 12} {r : Cmd} (k : Stop) (idle : (d.sqs.at m).launch = none)
    (cur : (d.sqs.at m).cur = some r) (index : r.index = j) (working : r.stage = .working) (going : r.stop = none)
    (free : ∀ w ∈ d.aborts, w.sq ≠ m ∨ w.cmd.index ≠ j) :
    stopIndex d m k j = setCur d m (some { r with stop := some k, stopAt := d.now }) := by
  have waits : (d.aborts.any fun w => w.sq == m && w.cmd.index == j) = false := by
    rw [List.any_eq_false]
    intro w mem both
    rw [Bool.and_eq_true, beq_iff_eq, beq_iff_eq] at both
    exact (free w mem).elim (fun other => other both.1) fun other => other both.2
  subst index
  unfold stopIndex
  simp only [waits, idle, cur, Option.any_some, Option.any_none, beq_self_eq_true, Bool.false_eq_true, if_false, if_true]
  exact stopCur_working k cur working going

/-- Where every slot without an owner is EMPTY, none returns to it. -/
theorem reapSlots_still {d : Desk} (owned : ∀ k, (d.slots.at k).owner = none → (d.slots.at k).state = .empty) : reapSlots d = d := by
  refine foldl_still fun i _ => ?_
  unfold reapSlot
  refine if_neg ?_
  cases owner : (d.slots.at i).owner with
  | none => simp [owned i owner]
  | some p => simp

theorem releaseIdle_at (d : Desk) (m : Fin 64) : ∃ a, releaseIdle d m = { d with sqs := d.sqs.upd m fun q => { q with allot := a } } := by
  unfold releaseIdle
  split
  · refine ⟨(d.sqs.at m).allot, ?_⟩
    have same : (d.sqs.upd m fun q => { q with allot := (d.sqs.at m).allot }) = d.sqs := Tab.put_at_self _ _
    rw [same]
  · exact ⟨[], rfl⟩

/-- R231, R232: a command at work in another queue is told to stop, and the ABORT waits. -/
theorem runAbort_waits {d : Desk} {n : Fin 64} {c r : Cmd} {j : BitVec 12}
    (one : (abortTargets d c.pkt).filter (fun j => !(pktSlot c.pkt == n && j == c.index)) = [j]) (other : pktSlot c.pkt ≠ n)
    (idle : (d.sqs.at (pktSlot c.pkt)).launch = none) (cur : (d.sqs.at (pktSlot c.pkt)).cur = some r) (index : r.index = j)
    (working : r.stage = .working) (going : r.stop = none) (free : ∀ w ∈ d.aborts, w.sq ≠ pktSlot c.pkt ∨ w.cmd.index ≠ j)
    (owned : ∀ k, (d.slots.at k).owner = none → (d.slots.at k).state = .empty) : ∃ sqs, runAbort d n c =
      { d with sqs := sqs, aborts := d.aborts ++ [abortWait d n c j] } ∧
      (sqs.at (pktSlot c.pkt)).cur = some { r with stop := some .abort, stopAt := d.now } := by
  rw [runAbort_one one]
  have free' : ∀ w ∈ d.aborts ++ [abortWait d n c j], w.sq ≠ pktSlot c.pkt ∨ w.cmd.index ≠ j := fun w mem => by
    obtain old | new := List.mem_append.mp mem
    · exact free w old
    · rw [List.mem_singleton.mp new]
      exact .inl other.symm
  rw [stopIndex_working (d := { d with aborts := d.aborts ++ [abortWait d n c j] }) .abort idle cur index working going free']
  obtain ⟨a, released⟩ := releaseIdle_at (setCur { d with aborts := d.aborts ++ [abortWait d n c j] } (pktSlot c.pkt)
    (some { r with stop := some .abort, stopAt := d.now })) (pktSlot c.pkt)
  rw [released]
  refine ⟨_, reapSlots_still owned, ?_⟩
  rw [Tab.at_upd_same]
  exact congrArg Sq.cur (Tab.at_upd_same _ _ _)

/-! ## SEED_DRAW -/

theorem seedBytes_length {ws : List Word} (four : 4 ≤ ws.length) : (seedBytes (ws.take 4)).length = 16 := by
  unfold seedBytes
  rw [List.take_take, List.length_flatMap]
  simp only [le_length, List.map_const', List.sum_replicate_nat, List.length_take]
  omega

theorem seedBytes_take (ws : List Word) : seedBytes (ws.take 4) = (ws.take 4).flatMap fun w => leBytes 4 w.toNat := by
  unfold seedBytes
  rw [List.take_take, Nat.min_self]

/-- The source serves: it is neither in re-qualification nor off. -/
theorem serves_of {t : Trng} (h : t.state = .ready ∨ t.state = .startup) : (t.state == .requal || t.state == .off) = false := by
  obtain state | state := h <;> rw [state] <;> rfl

theorem seedDraw_taken {s : State} {n : Fin 64} {c : Cmd} (h : AtHand s n .seedDraw c)
    (serves : s.trng.state = .ready ∨ s.trng.state = .startup) (first : s.trng.waiting = []) (four : 4 ≤ s.trng.pool.length) :
    seedDraw s n = { s with
      desk := seedDone (envOf s) s.desk n (beginWork s.desk c) (s.trng.pool.take 4), trng := { s.trng with pool := s.trng.pool.drop 4 } } := by
  unfold seedDraw
  rw [h.work rfl]
  simp only [serves_of serves, first, four, List.any_nil, List.isEmpty_nil, decide_true, Bool.and_self, Bool.false_eq_true, if_false,
    if_true]

theorem seedDraw_waits {s : State} {n : Fin 64} {c : Cmd} (h : AtHand s n .seedDraw c)
    (serves : s.trng.state = .ready ∨ s.trng.state = .startup) (short : s.trng.waiting ≠ [] ∨ s.trng.pool.length < 4)
    (fresh : ∀ r ∈ s.trng.waiting, r ≠ .seed n) : seedDraw s n = { s with
      desk := withCur s.desk n (beginWork s.desk c), trng := { s.trng with waiting := s.trng.waiting ++ [.seed n] } } := by
  have out : (s.trng.waiting.any fun r => r == .seed n) = false := by
    rw [List.any_eq_false]
    intro r mem
    simpa using fresh r mem
  have none : (s.trng.waiting.isEmpty && decide (4 ≤ s.trng.pool.length)) = false := by
    obtain ahead | few := short
    · simp [ahead]
    · simp [few]
  unfold seedDraw
  rw [h.work rfl]
  simp only [serves_of serves, out, none, Bool.false_eq_true, if_false]
  rfl

theorem seedDraw_out {s : State} {n : Fin 64} {c : Cmd} (h : AtHand s n .seedDraw c)
    (out : s.trng.state = .requal ∨ s.trng.state = .off) : seedDraw s n = { s with
      desk := withCur s.desk n (workDone s.desk.now c stRng [] 0) } := by
  have shut : (s.trng.state == .requal || s.trng.state == .off) = true := by
    obtain state | state := out <;> rw [state] <;> rfl
  unfold seedDraw
  rw [h.work rfl]
  simp only [shut, if_true]
  rw [endWork_begun s.desk s.desk n h.2.2.1]

theorem seedDone_window {e : Env} {d : Desk} {n : Fin 64} {c : Cmd} (stage : c.stage = .dispatched) (ws : List Word)
    (window : bit (field c.pkt 16 1) 0 = true) : seedDone e d n (beginWork d c) ws =
    withCur { d with itins := d.itins.upd (fin 256 (field c.pkt 18 1)) fun x => { x with
      window := spliceBytes x.window (field c.pkt 19 1) (seedBytes ws) } } n (workDone d.now c stOk (seedBytes ws) 0) := by
  unfold seedDone
  rw [beginWork_dispatched _ stage]
  exact if_pos window

theorem seedDone_stored {s : State} {n : Fin 64} {c : Cmd} (stage : c.stage = .dispatched) (going : c.stop = none) {ws : List Word}
    (len : (seedBytes ws).length = 16) (dest : bit (field c.pkt 16 1) 0 = false) (plain : PlainSpan s (field c.pkt 24 8) 16) :
    seedDone (envOf s) s.desk n (beginWork s.desk c) ws = withCur { s.desk with
      mem := memStore s.desk.mem (addrDevice (field c.pkt 24 8)) (seedBytes ws) } n (workDone s.desk.now c stOk (seedBytes ws) 0) := by
  have put := cmdPut_plain (d := s.desk) (bs := seedBytes ws) (len.symm ▸ plain) rfl (fun empty => by rw [empty] at len; exact absurd len nofun) n
    (beginWork s.desk c) 3
  have moved := beginWork_dispatched s.desk stage
  unfold seedDone cmdWrite
  rw [moved] at put ⊢
  simp only [dest, Bool.false_eq_true, if_false]
  rw [put]
  exact if_neg (by simp [going])

theorem exec_seedDraw (s : State) (n : Fin 64) : exec (.seedDraw n) s = .next (settle (seedDraw s n)) := rfl

/-- Settles O55: QUERY and LEDGER_MARK at hand, the two ends of an ABORT, and the four of a SEED_DRAW. -/
theorem queriesMarksAbortsAndSeeds : Obligations.QueriesMarksAbortsAndSeeds := by
  unfold Obligations.QueriesMarksAbortsAndSeeds
  refine ⟨fun s n => ⟨fun c => ⟨fun h => ?query, fun h => ?mark⟩, fun i x p m ts awake on fresh is_p op ready early late is_m is_x is_ts =>
    ⟨fun none => ?none, fun j r one other launch cur index working going free owned => ?one⟩⟩, fun s n c bs h is_bs =>
    ⟨fun serves first four => ⟨fun window => ?window, fun dest plain => ?stored⟩, fun serves short fresh => ?waits, fun out => ?out⟩⟩
  case query =>
    exact congrArg (fun d => Host.Outcome.next (settle { s with desk := d })) (frontDesk_atHand h rfl (fun d _ => d) fun _ => [])
  case mark =>
    exact congrArg (fun d => Host.Outcome.next (settle { s with desk := d })) (frontDesk_atHand h rfl (fun d _ => d) fun _ => [])
  case none =>
    subst is_p
    have pkt : x.pkt = ringPacket s.desk (s.desk.sqs.at n) i ∧ x.index = i := by
      rw [is_x]
      exact ⟨rfl, rfl⟩
    rw [exec_abort awake on fresh op ready early late, ← is_x, runAbort_none (by rw [pkt.1, pkt.2, ← is_m, ← is_ts, none]), pkt.1, ← is_m,
      abortResult_eq]
  case one =>
    subst is_p
    have pkt : x.pkt = ringPacket s.desk (s.desk.sqs.at n) i ∧ x.index = i := by
      rw [is_x]
      exact ⟨rfl, rfl⟩
    have slot : pktSlot x.pkt = m := by rw [pkt.1, is_m]
    obtain ⟨sqs, made, told⟩ := runAbort_waits (d := s.desk) (n := n) (c := x) (r := r) (j := j)
      (by rw [slot, pkt.1, pkt.2, ← is_ts, one]) (by rwa [slot]) (by rwa [slot]) (by rwa [slot]) index working going (by rwa [slot]) owned
    rw [slot] at told
    rw [exec_abort awake on fresh op ready early late, ← is_x, made]
    obtain ⟨sqs', cqs, slots, fences, mem, aborts, -⟩ := settle_desk_rest { s with
      desk := { s.desk with sqs := sqs, aborts := s.desk.aborts ++ [abortWait s.desk n x j] } }
    refine ⟨_, abortWait s.desk n x j, rfl, ?_, aborts, rfl, slot, rfl, rfl, cqs, fences, slots, mem⟩
    rw [sqs']
    exact told
  case window =>
    rw [exec_seedDraw, seedDraw_taken h serves first four, seedDone_window h.2.2.1 _ window, seedBytes_take, ← is_bs]
  case stored =>
    have len := seedBytes_length four
    rw [exec_seedDraw, seedDraw_taken h serves first four, seedDone_stored h.2.2.1 h.2.2.2 len dest plain]
    rw [seedBytes_take, ← is_bs] at len ⊢
    obtain ⟨sqs, -, -, -, mem, -⟩ := settle_desk_rest { s with
      trng := { s.trng with pool := s.trng.pool.drop 4 }
      desk := withCur { s.desk with mem := memStore s.desk.mem (addrDevice (field c.pkt 24 8)) bs } n (workDone s.desk.now c stOk bs 0) }
    refine ⟨_, workDone s.desk.now c stOk bs 0, rfl, settle_trng _, ?_, ⟨rfl, rfl, rfl, rfl, rfl, rfl⟩, rfl, ?_,
      onlyMemory_settled (onlyMemory_withCur _ _ _ _)⟩
    · rw [sqs]
      exact withCur_cur _ _ _
    · rw [← len]
      refine storedAt_of ?_
      rw [mem]
      exact memStore_cells (len.symm ▸ plain.2.2)
  case waits => rw [exec_seedDraw, seedDraw_waits h serves short fresh]
  case out => rw [exec_seedDraw, seedDraw_out h out]

end Sys2Proof.Machine
end
section
/-!
SUPPORT. Time slices, stops and limits of a command under way: O59 and O60.
-/
namespace Sys2Proof.Machine

/-! ## Events of an awake Front Desk -/

set_option Elab.async false in
theorem onDesk_awake {s : State} (awake : Awake s) {f : Env → Desk → Desk} {d : Desk} (made : f (envOf s) s.desk = d) :
    (if deskAwake s then onDesk s f else s) = settle { s with desk := d } :=
  (if_pos (deskAwake_iff.mpr awake)).trans (congrArg (fun d => settle { s with desk := d }) made)

theorem retireDue_none {s : State} (none : s.desk.tiles.due = []) : retireDue s = s := by
  unfold retireDue
  rw [none]
  rfl

theorem retireDue_awake {s : State} (awake : Awake s) {d e : Desk} (made : d = e) (none : e.tiles.due = []) :
    (if deskAwake s then settle (retireDue { s with desk := d }) else s) = settle { s with desk := e } := by
  rw [if_pos (deskAwake_iff.mpr awake), made]
  exact congrArg settle (retireDue_none none)

/-- The command under way in a queue after an event that leaves it there. -/
theorem settle_cur {u : State} {n : Fin 64} {c : Cmd} (cur : (u.desk.sqs.at n).cur = some c) : ((settle u).desk.sqs.at n).cur = some c := by
  rw [(settle_desk_rest u).1]
  exact cur

/-! ## Time slices -/

theorem sliceExpiry_told {e : Env} {d : Desk} {n : Fin 64} {c : Cmd} {o : Op} (cur : (d.sqs.at n).cur = some c) (op : pktOp c.pkt = some o)
    (sliced : opSliced o = true) (working : c.stage = .working) (going : c.stop = none) (untimed : inTimed c = false)
    (spent : c.resumedAt + 100000 * max 1 (min 1000 d.slice.toNat) ≤ d.now)
    (needed : d.drain = true ∨ (d.tripHold = false ∧ tilesNeeded e d n = true)) :
    sliceExpiry e d n = withCur d n { c with stop := some .slice, stopAt := d.now } := by
  have wanted : (d.drain || (!d.tripHold && tilesNeeded e d n)) = true := by
    obtain drain | ⟨free, wants⟩ := needed
    · rw [drain]; rfl
    · rw [free, wants, Bool.or_comm]; rfl
  unfold sliceExpiry
  rw [cur]
  simp only [op]
  exact if_pos (by simp [sliced, working, going, untimed, wanted, sliceNs, spent])

theorem sliceExpiry_not {e : Env} {d : Desk} {n : Fin 64} {c : Cmd} {o : Op} (cur : (d.sqs.at n).cur = some c) (op : pktOp c.pkt = some o)
    (h : inTimed c = true ∨ d.now < c.resumedAt + 100000 * max 1 (min 1000 d.slice.toNat)) : sliceExpiry e d n = d := by
  unfold sliceExpiry
  rw [cur]
  simp only [op]
  refine if_neg ?_
  obtain timed | early := h
  · simp [timed]
  · have early : decide (c.resumedAt + sliceNs d ≤ d.now) = false := decide_eq_false (Nat.not_le.mpr early)
    simp only [early, Bool.and_false, Bool.false_and, Bool.false_eq_true, not_false_eq_true]

/-! ## Reloads -/

/-- A command that a read may have told to stop. -/
def Told (c c' : Cmd) : Prop := ∃ stop stopAt fault, c' = { c with stop := stop, stopAt := stopAt, fault := fault }

theorem Told.refl (c : Cmd) : Told c c := ⟨_, _, _, rfl⟩

theorem Told.trans {a b c : Cmd} (h : Told a b) (k : Told b c) : Told a c := by
  obtain ⟨_, _, _, rfl⟩ := h
  obtain ⟨stop, stopAt, fault, rfl⟩ := k
  exact ⟨stop, stopAt, fault, rfl⟩

theorem askStop_told (now : Nat) (k : Stop) (c : Cmd) : Told c (askStop now k c) := by
  unfold askStop
  split
  · exact ⟨_, _, _, rfl⟩
  · exact ⟨_, _, _, rfl⟩
  · exact ⟨_, _, _, rfl⟩
  · exact Told.refl c

theorem lostRead_told (d : Desk) (c : Cmd) : Told c (lostRead d c) :=
  (askStop_told d.now .dataLost c).trans ⟨_, _, _, rfl⟩

theorem readRecord_told (d : Desk) (n : Fin 64) (c : Cmd) (g : Image) (addr off len : Nat) : Told c (readRecord d n c g addr off len).2 := by
  unfold readRecord
  split
  · exact Told.refl c
  · split
    · exact lostRead_told d c
    · split
      · exact Told.refl c
      · exact lostRead_told d c

theorem readBlock_told (d : Desk) (n : Fin 64) (c : Cmd) (g : Image) (i : Nat) : Told c (readBlock d n c g i).2 := by
  unfold readBlock
  split
  · exact Told.refl c
  · exact readRecord_told _ _ _ _ _ _ _

theorem readBlocks_told (n : Fin 64) (g : Image) (l : List Nat) (d : Desk) (c : Cmd) : Told c (readBlocks d n c g l).2 := by
  unfold readBlocks
  induction l generalizing d c with
  | nil => exact Told.refl c
  | cons i l ih =>
    rw [List.foldl_cons]
    split
    · exact ih d c
    · exact (readBlock_told d n c g i).trans (ih _ _)

theorem reloadTiles_told (d : Desk) (n : Fin 64) (c : Cmd) (g : Image) : Told c (reloadTiles d n c g).cmd := by
  unfold reloadTiles
  simp only
  split
  · exact Told.refl c
  · split
    · exact readBlocks_told n g _ d c
    · split
      · exact (readBlocks_told n g _ d c).trans (lostRead_told _ _)
      · exact readBlocks_told n g _ d c

/-! ## Going on -/

/-- The command as it goes on, on these tiles. -/
def resumed (d : Desk) (c : Cmd) (tiles : List Nat) : Cmd := { c with
  tiles := tiles, stage := if c.began then .working else .dispatched, resumedAt := d.now
  progressAt := c.progressAt + (d.now - c.stopAt) }

theorem goOn_cur (d : Desk) (n : Fin 64) (c : Cmd) (tiles : List Nat) : ∃ c', ((goOn d n c tiles).sqs.at n).cur = some c' ∧
    Told (resumed d c tiles) c' ∧ ((goOn d n c tiles).sqs.at n).allot = tiles := by
  unfold goOn
  refine ⟨_, congrArg Sq.cur (Tab.at_upd_same _ _ _), ?_, congrArg Sq.allot (Tab.at_upd_same _ _ _)⟩
  split
  · split
    · exact reloadTiles_told d n (resumed d c tiles) _
    · exact Told.refl _
  · exact Told.refl _

theorem opRun_names {o : Op} (h : opNamesSlot o = false) : opRun o = false := by
  cases o <;> simp_all [opNamesSlot, opSlotWriter, opSlotUser, opSlotQuiet, opRun]

theorem goOn_plain {d : Desk} {n : Fin 64} {c : Cmd} {o : Op} {tiles : List Nat} (op : pktOp c.pkt = some o)
    (names : opNamesSlot o = false) : goOn d n c tiles = { takeTiles d tiles none with
      sqs := (takeTiles d tiles none).sqs.upd n fun q => { q with cur := some (resumed d c tiles), allot := tiles }, deadlockSince := none } := by
  unfold goOn
  simp only [op, names, Bool.false_eq_true, if_false]
  split
  · next o' g is_o _ =>
    have run : opRun o' = false := opRun_names (Option.some.inj is_o ▸ names)
    simp only [run, Bool.false_and, Bool.false_eq_true, if_false]
    rfl
  · rfl

theorem resumeRound_goes {e : Env} {d d0 : Desk} {n : Fin 64} {c : Cmd} {tiles : List Nat}
    (first : firstStart e (roundRobin d) d = (d0, some n)) (cur : (d0.sqs.at n).cur = some c) (at_ : resumeTiles e d0 n c = some tiles) :
    resumeRound e d goOn = { goOn d0 n c tiles with rr := n } := by
  unfold resumeRound
  simp only [first, cur, at_]

/-! ## Preemption points -/

theorem opTile_copy {o : Op} (h : o = .copy ∨ o = .fill) : opRun o = false ∧ opTensor o = false := by
  obtain rfl | rfl := h <;> exact ⟨rfl, rfl⟩

theorem atPoint_of_no_run {d : Desk} {c : Cmd} {o : Op} (op : pktOp c.pkt = some o) (run : opRun o = false) : atPoint d c = true := by
  unfold atPoint
  rw [op]
  split
  · simp_all
  · rfl

theorem deskStop_taken {e : Env} {d : Desk} {n : Fin 64} {c : Cmd} {k : Stop} (cur : (d.sqs.at n).cur = some c) (stop : c.stop = some k)
    (stage : c.stage = .working ∨ c.stage = .sliced) (still : stillOf d c = false) (point : atPoint d c = true) :
    deskStop e d n = takeStopNow e d n c k := by
  unfold deskStop
  rw [cur]
  simp only [stop]
  refine if_pos ?_
  rw [still, point]
  obtain stage | stage := stage <;> rw [stage] <;> rfl

/-- Tiles changed, and none of them due to be retired. -/
def OnlyUnits (d e : Desk) : Prop := e = { d with tiles := { d.tiles with units := e.tiles.units } }

theorem closeGroup_units (d : Desk) (c : Cmd) (g : Image) (a : Ann) : OnlyUnits d (closeGroup d c g a) := by
  unfold closeGroup
  split
  · generalize List.range c.tiles.length = l
    induction l generalizing d with
    | nil => rfl
    | cons t l ih =>
      rw [List.foldl_cons]
      generalize one : updUnit d _ _ = d1
      have first : OnlyUnits d d1 := by rw [← one]; rfl
      have rest := ih d1
      rw [OnlyUnits] at first rest ⊢
      rw [rest, first]
  · rfl

/-- The command as a time slice suspends it. -/
def suspended (now : Nat) (c : Cmd) : Cmd := { c with stage := .sliced, stop := none, stopAt := now, kept := [] }

/-- The queue of a command that a time slice suspends. -/
def slicedOff (d : Desk) (n : Fin 64) (c : Cmd) : Desk :=
  { d with sqs := d.sqs.upd n fun q => { q with cur := some (suspended d.now c), allot := [] } }

/-- A slot changed beside the units of tiles. -/
theorem OnlyUnits.slot {d e : Desk} (h : OnlyUnits d e) (i : Fin 64) (f : Slot → Slot) :
    ∃ units slots, updSlot e i f = { d with tiles := { d.tiles with units := units }, slots := slots } := by
  rw [OnlyUnits] at h
  unfold updSlot
  rw [h]
  exact ⟨_, _, rfl⟩

theorem suspendSlice_eq (d : Desk) (n : Fin 64) (c : Cmd) : ∃ units slots, suspendSlice d n c = { slicedOff d n c with
    tiles := { d.tiles with units := units }, slots := slots } := by
  unfold suspendSlice
  simp only
  split
  · next g _ _ =>
    split
    · refine OnlyUnits.slot (d := slicedOff d n c) ?_ _ _
      split
      · exact closeGroup_units (slicedOff d n c) c g _
      · rfl
    · exact ⟨d.tiles.units, d.slots, rfl⟩
  · exact ⟨d.tiles.units, d.slots, rfl⟩

theorem suspendSlice_plain {d : Desk} {n : Fin 64} {c : Cmd} {o : Op} (op : pktOp c.pkt = some o) (run : opRun o = false) :
    suspendSlice d n c = slicedOff d n c := by
  unfold suspendSlice
  rw [op]
  split
  · simp_all [slicedOff, suspended]
  · rfl

/-- A transfer that stops ends with its bytes written. -/
theorem takeStop_transfer {e : Env} {d : Desk} {n : Fin 64} {c : Cmd} {o : Op} {k : Stop} (op : pktOp c.pkt = some o)
    (transfer : o = .copy ∨ o = .fill) (stop : k = .abort ∨ k = .hang) : ∃ ctr limit, takeStopNow e d n c k =
    withCur { d with freeCtr := ctr } n { dropReads c with
      stage := .ended, status := stopStatus k, result := slice (leBytes 8 c.done) 0 28, limit := limit } := by
  obtain ⟨run, tensor⟩ := opTile_copy transfer
  have limited : ∃ ctr limit, transferLimit e d (dropReads c) (xferOf o (dropReads c).pkt) = (limit, { d with freeCtr := ctr }) := by
    unfold transferLimit
    simp only
    split
    · exact ⟨_, _, rfl⟩
    · exact ⟨_, _, rfl⟩
    · exact ⟨_, _, rfl⟩
  obtain ⟨ctr, limit, limited⟩ := limited
  refine ⟨ctr, limit, ?_⟩
  have ended : stopOther e d n o (dropReads c) (stopStatus k) = withCur { d with freeCtr := ctr } n { dropReads c with
      stage := .ended, status := stopStatus k, result := slice (leBytes 8 c.done) 0 28, limit := limit } := by
    unfold stopOther
    rw [tensor, limited]
    obtain rfl | rfl := transfer <;> rfl
  unfold takeStopNow
  obtain rfl | rfl := stop <;> simp only [op] <;> split <;> simp_all

/-! ## Stop waypoints -/

theorem updSlot_twice (d : Desk) (i : Fin 64) (f g : Slot → Slot) : updSlot (updSlot d i f) i g = updSlot d i (g ∘ f) := by
  unfold updSlot
  show { d with slots := (d.slots.put i _).put i (g ((d.slots.put i _).at i)) } = _
  rw [Tab.put_put, Tab.at_put_same]
  rfl

/-- R191, R194: a stop waypoint with no copy enters the buffers and the Ledger. -/
theorem takeWaypoint_stop {e : Env} {d : Desk} {n : Fin 64} {c : Cmd} {g : Image} {a : Ann} (plain : a.opcode ≠ 0x18)
    (no : (runParams a.opcode a.params).wpAddr = 0 ∨ (runParams a.opcode a.params).wpSlots = 0) : ∃ ledger,
    takeWaypoint e d n c g a true true = ({ updSlot d (cmdSlot c) (fun s => { s with buffers := (a :: s.buffers).take 2 }) with
      ledger := ledger }, { c with stopWp := true }) ∧ ledger.head = d.ledger.head + 1 := by
  have copy : copyAddr g (runParams a.opcode a.params) a.wpCount = none := if_pos no
  unfold takeWaypoint
  simp only [copy, if_true]
  unfold writeStats
  simp only [plain, if_false]
  exact ⟨_, rfl, rfl⟩

theorem takeFree_eq (d : Desk) : ∃ v ctr, takeFree d = (v, { d with freeCtr := ctr }) := ⟨_, _, rfl⟩

theorem timedCycles_eq (d : Desk) (c : Cmd) (g : Image) : ∃ v ctr, timedCycles d c g = (v, { d with freeCtr := ctr }) := by
  unfold timedCycles
  split
  · exact ⟨_, d.freeCtr, rfl⟩
  · split
    · exact ⟨_, d.freeCtr, rfl⟩
    · exact ⟨_, _, rfl⟩

theorem runLimit_eq (g : Image) (c : Cmd) (d : Desk) : ∃ v ctr, runLimit g c d = (v, { d with freeCtr := ctr }) := by
  unfold runLimit
  simp only
  split
  · exact ⟨_, d.freeCtr, rfl⟩
  · exact ⟨_, _, rfl⟩

/-- The end of a run that gathers no statistics. -/
theorem endRun_plain {d : Desk} {n : Fin 64} {c : Cmd} (g : Image) (status reason : Nat) (plain : (d.slots.at (cmdSlot c)).ann.opcode ≠ 0x18) :
    ∃ ctr result digest report limit, endRun d n c g status reason = withCur { d with freeCtr := ctr } n { c with
      stage := .ended, status := status, stopReason := reason, result := result, digest := digest, report := report, limit := limit } := by
  obtain ⟨cycles, ctr, timed⟩ := timedCycles_eq d c g
  obtain ⟨limit, ctr', limited⟩ := runLimit_eq g c { d with freeCtr := ctr }
  unfold endRun
  simp only [timed, limited]
  unfold closeGroup
  rw [if_neg plain]
  exact ⟨ctr', _, _, _, _, rfl⟩

/-- The slot of a run that stops with a waypoint, and of one that SUSPEND stops, with its suspension record. -/
def stoppedSlot (k : Stop) (c : Cmd) (x : Slot) : Slot :=
  match k with
  | .suspend _ => { x with
      buffers := (x.ann :: x.buffers).take 2, susp := some ⟨x.ann, c.sched, x.gen, x.piNext, x.rxDone, x.betasPrev⟩, suspLost := false }
  | _ => { x with buffers := (x.ann :: x.buffers).take 2 }

theorem stoppedSlot_ann (k : Stop) (c : Cmd) (x : Slot) : (stoppedSlot k c x).ann = x.ann := by
  unfold stoppedSlot
  split <;> rfl

theorem updSlot_updSlot_ledger (d : Desk) (i : Fin 64) (ledger : Ledger) (f g : Slot → Slot) :
    updSlot { updSlot d i f with ledger := ledger } i g =
    { d with ledger := ledger, slots := d.slots.put i (g (f (d.slots.at i))) } := by
  unfold updSlot
  show { d with ledger := ledger, slots := (d.slots.put i _).put i (g ((d.slots.put i _).at i)) } = _
  rw [Tab.put_put, Tab.at_put_same]

/-- The stop reason of an ABORT or a SUSPEND (Table 9.18). -/
def stopReasonOf (k : Stop) : Nat := match k with | .suspend _ => 4 | _ => 0

theorem stopRun_eq {e : Env} {d : Desk} {n : Fin 64} {c : Cmd} {k : Stop} (g : Image) (stop : k = .abort ∨ ∃ m, k = .suspend m)
    (sound : c.fault = false) {ledger : Ledger}
    (taken : takeWaypoint e d n c g (d.slots.at (cmdSlot c)).ann true true =
      ({ updSlot d (cmdSlot c) (fun s => { s with buffers := ((d.slots.at (cmdSlot c)).ann :: s.buffers).take 2 }) with ledger := ledger },
        { c with stopWp := true })) :
    stopRun e d n c g k = endRun { d with
      ledger := ledger, slots := d.slots.put (cmdSlot c) (stoppedSlot k c (d.slots.at (cmdSlot c))) } n { c with stopWp := true } g
      (stopStatus k) (stopReasonOf k) := by
  have whole : (c.fault || k == .dataLost || k == .lastSpare) = false := by
    rw [sound]
    obtain rfl | ⟨m, rfl⟩ := stop <;> rfl
  have host : (k != .windowFault) = true := by obtain rfl | ⟨m, rfl⟩ := stop <;> rfl
  unfold stopRun
  simp only [whole, host, Bool.false_eq_true, if_false, taken]
  obtain rfl | ⟨m, rfl⟩ := stop
  · rfl
  · simp only [if_true, updSlot_updSlot_ledger]
    rfl

theorem stopRun_waypoint {e : Env} {d : Desk} {n : Fin 64} {c : Cmd} {k : Stop} (g : Image) (stop : k = .abort ∨ ∃ m, k = .suspend m)
    (sound : c.fault = false) (plain : (d.slots.at (cmdSlot c)).ann.opcode ≠ 0x18)
    (no : (runParams (d.slots.at (cmdSlot c)).ann.opcode (d.slots.at (cmdSlot c)).ann.params).wpAddr = 0 ∨
      (runParams (d.slots.at (cmdSlot c)).ann.opcode (d.slots.at (cmdSlot c)).ann.params).wpSlots = 0) :
    ∃ ctr ledger result digest report limit, ledger.head = d.ledger.head + 1 ∧ stopRun e d n c g k =
      withCur { d with freeCtr := ctr, ledger := ledger, slots := d.slots.put (cmdSlot c) (stoppedSlot k c (d.slots.at (cmdSlot c))) } n
        { c with
          stopWp := true, stage := .ended, status := stopStatus k, stopReason := stopReasonOf k, result := result
          digest := digest, report := report, limit := limit } := by
  obtain ⟨ledger, taken, head⟩ := takeWaypoint_stop (e := e) (d := d) (n := n) (c := c) (g := g) plain no
  obtain ⟨ctr, result, digest, report, limit, ended⟩ := endRun_plain (n := n) (c := { c with stopWp := true })
    (d := { d with ledger := ledger, slots := d.slots.put (cmdSlot c) (stoppedSlot k c (d.slots.at (cmdSlot c))) })
    g (stopStatus k) (stopReasonOf k) (by
      show ((d.slots.put (cmdSlot c) _).at (cmdSlot c)).ann.opcode ≠ _
      rw [Tab.at_put_same, stoppedSlot_ann]
      exact plain)
  exact ⟨ctr, ledger, result, digest, report, limit, head, (stopRun_eq g stop sound taken).trans ended⟩

/-- A run between phases stops with a waypoint. -/
theorem takeStop_run {e : Env} {d : Desk} {n : Fin 64} {c : Cmd} {o : Op} {g : Image} {k : Stop} (op : pktOp c.pkt = some o)
    (image : (d.slots.at (cmdSlot c)).image = some g) (run : opRun o = true) (began : c.began = true)
    (stop : k = .abort ∨ ∃ m, k = .suspend m) : takeStopNow e d n c k = stopRun e d n (dropReads c) g k := by
  unfold takeStopNow
  obtain rfl | ⟨m, rfl⟩ := stop <;> simp only [op, image, run, if_true] <;> exact if_pos began

/-- Settles O59: expiry, going on, and the stops at a preemption point. -/
theorem stopsAndSlices : Obligations.StopsAndSlices := by
  unfold Obligations.StopsAndSlices
  intro s n c o awake cur op
  refine ⟨fun sliced working going untimed spent needed => ?told, fun h => ?early, fun d0 tiles first cur' at_ => ⟨?goes, fun d names is_d => ?plain⟩,
    fun due still => ⟨fun stop working point => ⟨?slice, fun run => ?sliced⟩, fun stop stage transfer => ?abort,
      fun g x k is_x image run began stop kind working sound between swept plain no => ?run⟩, fun h due => ?still⟩
  case told =>
    exact congrArg Host.Outcome.next (onDesk_awake awake (sliceExpiry_told cur op sliced working going untimed spent needed))
  case early => exact congrArg Host.Outcome.next (onDesk_awake awake (f := fun e d => sliceExpiry e d n) (sliceExpiry_not cur op h))
  case goes =>
    obtain ⟨c', has, ⟨_, _, _, is_c'⟩, allot⟩ := goOn_cur d0 n c tiles
    refine ⟨_, c', congrArg Host.Outcome.next (onDesk_awake awake (resumeRound_goes first cur' at_)), settle_cur has, ?_, ?_, ?_, ?_, ?_⟩
    · rw [is_c']; rfl
    · rw [is_c']; rfl
    · rw [is_c']; rfl
    · rw [(settle_desk_rest _).1]
      exact allot
    · rw [settle_desk_eq]
  case plain =>
    have goes := resumeRound_goes first cur' at_
    rw [goOn_plain op names, ← is_d] at goes
    exact congrArg Host.Outcome.next (onDesk_awake awake goes)
  case slice =>
    obtain ⟨units, slots, made⟩ := suspendSlice_eq s.desk n c
    have taken : deskStop (envOf s) s.desk n = suspendSlice s.desk n c :=
      (deskStop_taken cur stop (.inl working) still point).trans (if_pos (by rw [working]; rfl))
    refine ⟨_, congrArg Host.Outcome.next (retireDue_awake awake (taken.trans made) due), ?_, settle_cur ?_⟩
    · rw [(settle_desk_rest _).1]
      exact congrArg Sq.allot (Tab.at_upd_same _ _ _)
    · exact congrArg Sq.cur (Tab.at_upd_same _ _ _)
  case sliced =>
    have taken : deskStop (envOf s) s.desk n = slicedOff s.desk n c :=
      (deskStop_taken cur stop (.inl working) still point).trans ((if_pos (by rw [working]; rfl)).trans (suspendSlice_plain op run))
    exact congrArg Host.Outcome.next (retireDue_awake awake taken due)
  case abort =>
    obtain ⟨ctr, limit, made⟩ := takeStop_transfer (e := envOf s) (d := s.desk) (n := n) op transfer (.inl rfl)
    have taken := (deskStop_taken (e := envOf s) cur stop stage still (atPoint_of_no_run op (opTile_copy transfer).1)).trans made
    refine ⟨_, _, congrArg Host.Outcome.next (retireDue_awake awake taken due), settle_cur (withCur_cur _ _ _), rfl, rfl, rfl, ?_⟩
    exact (settle_desk_rest _).2.2.2.2.1
  case run =>
    have image' : (s.desk.slots.at (cmdSlot c)).image = some g := is_x ▸ image
    have point : atPoint s.desk c = true := by
      unfold atPoint
      simp only [op, image', run, began, Bool.true_and, Bool.not_eq_true', Bool.or_eq_false_iff]
      exact is_x ▸ ⟨between, swept⟩
    obtain ⟨ctr, ledger, result, digest, report, limit, head, made⟩ := stopRun_waypoint (e := envOf s) (d := s.desk) (n := n)
      (c := dropReads c) (k := k) g kind sound (is_x ▸ plain) (is_x ▸ no)
    have taken := (deskStop_taken (e := envOf s) cur stop (.inl working) still point).trans
      ((takeStop_run op image' run began kind).trans made)
    have slot (u : State) (slots : u.desk.slots = s.desk.slots.put (pktSlot c.pkt) (stoppedSlot k c (s.desk.slots.at (pktSlot c.pkt)))) :
        (settle u).desk.slots.at (pktSlot c.pkt) = stoppedSlot k c x := by
      rw [(settle_desk_rest u).2.2.1, slots, is_x]
      exact Tab.at_put_same _ _ _
    refine ⟨_, _, _, congrArg Host.Outcome.next (retireDue_awake awake taken due), rfl, settle_cur (withCur_cur _ _ _), rfl, rfl, ?_⟩
    rw [slot _ rfl, (settle_desk_rest _).2.2.2.2.2.2.2.2, (settle_desk_rest _).2.2.2.2.1]
    obtain rfl | ⟨m, rfl⟩ := kind
    · exact ⟨rfl, rfl, rfl, rfl, rfl, head, rfl⟩
    · exact ⟨rfl, rfl, rfl, rfl, rfl, head, rfl⟩
  case still =>
    have still : deskStop (envOf s) s.desk n = s.desk := by
      unfold deskStop
      rw [cur]
      simp only
      obtain stop | ended := h
      · rw [stop]
      · split
        · rfl
        · exact if_neg (by rw [ended]; exact nofun)
    exact congrArg Host.Outcome.next (retireDue_awake awake still due)

end Sys2Proof.Machine
end
section
/-!
SUPPORT. O60: deadlines, hang limits and fence deadlocks.
-/
namespace Sys2Proof.Machine

/-! ## Deadlines -/

set_option Elab.async false in
theorem deadlineExpiry_passed {e : Env} {d : Desk} {n : Fin 64} {cand : Cand} (idle : (d.sqs.at n).cur = none)
    (head : nextCand d n = some cand) (valid : pktDeadlineValid cand.pkt = true) (passed : pktDeadline cand.pkt < d.now)
    (waits : fenceBlocked d n = true ∨ waitsTiles e d n cand = true) : deadlineExpiry e d n =
    failPacket d n (freshCmd d (d.sqs.at n) cand.pkt cand.index cand.launch cand.visible) stExpired false := by
  unfold deadlineExpiry
  rw [idle, head]
  exact if_pos (by obtain blocked | tiles := waits <;> simp [*])

theorem deadlineExpiry_ahead {e : Env} {d : Desk} {n : Fin 64} {cand : Cand} (idle : (d.sqs.at n).cur = none)
    (head : nextCand d n = some cand) (ahead : d.now ≤ pktDeadline cand.pkt) : deadlineExpiry e d n = d := by
  unfold deadlineExpiry
  rw [idle, head]
  exact if_neg (by simp [Nat.not_lt.mpr ahead])

/-! ## Hang limits -/

theorem hangTimeout_told {d : Desk} {n : Fin 64} {c : Cmd} {o : Op} (cur : (d.sqs.at n).cur = some c) (op : pktOp c.pkt = some o)
    (tile : opTile o = true) (working : c.stage = .working) (going : c.stop = none) (limited : (d.sqs.at n).hang ≠ 0)
    (hung : c.progressAt + 1000000 * (d.sqs.at n).hang.toNat ≤ d.now) :
    hangTimeout d n = withCur d n { c with stop := some .hang, stopAt := d.now } := by
  unfold hangTimeout
  simp only [cur, op, tile]
  refine (if_pos (by rw [working, bne_iff_ne.mpr limited, decide_eq_true hung]; rfl)).trans ?_
  rw [askStop_going d.now .hang going]
  rfl

theorem hangTimeout_not {d : Desk} {n : Fin 64} {c : Cmd} (cur : (d.sqs.at n).cur = some c)
    (h : (d.sqs.at n).hang = 0 ∨ d.now < c.progressAt + 1000000 * (d.sqs.at n).hang.toNat) : hangTimeout d n = d := by
  unfold hangTimeout
  simp only [cur]
  refine if_neg ?_
  obtain off | early := h
  · simp [off]
  · simp [Nat.not_le.mpr early]

/-! ## Engines -/

theorem engineStop_transfer {e : Env} {d : Desk} {n : Fin 64} {c : Cmd} {o : Op} (cur : (d.sqs.at n).cur = some c)
    (op : pktOp c.pkt = some o) (transfer : o = .copy ∨ o = .fill) (stop : c.stop = some .hang) (working : c.stage = .working)
    (late : c.stopAt + 10000000 ≤ d.now) : engineStop e d n = takeStopNow e d n c .hang := by
  have run := (opTile_copy transfer).1
  unfold engineStop
  rw [cur]
  simp only [stop]
  refine (if_pos (by simp [working, late, resetsEngine])).trans ?_
  split
  · next o' _ is_o =>
    have same : o' = o := Option.some.inj (is_o.symm.trans op)
    rw [same, run]
    simp only [Bool.false_and, Bool.false_eq_true, if_false]
    split <;> rfl
  · rfl

theorem engineStop_not {e : Env} {d : Desk} {n : Fin 64} {c : Cmd} (cur : (d.sqs.at n).cur = some c)
    (h : d.now < c.stopAt + 10000000 ∨ c.stop = some .slice ∨ ∃ m, c.stop = some (.suspend m)) : engineStop e d n = d := by
  unfold engineStop
  rw [cur]
  simp only
  split
  · rfl
  · next k is_k =>
    refine if_neg ?_
    obtain early | slice | ⟨m, suspend⟩ := h
    · simp [Nat.not_le.mpr early]
    · rw [Option.some.inj (is_k.symm.trans slice)]
      simp [resetsEngine]
    · rw [Option.some.inj (is_k.symm.trans suspend)]
      simp [resetsEngine]

/-! ## Fence deadlocks -/

theorem breakDeadlock_at {d : Desk} {n : Fin 64} {cand : Cand} (blocked : firstBlocked d = some n) (head : nextCand d n = some cand) :
    breakDeadlock d = failPacket d n (freshCmd d (d.sqs.at n) cand.pkt cand.index cand.launch cand.visible) stDeadlock false := by
  unfold breakDeadlock
  simp only [blocked, head]

theorem exec_fenceDeadlock_early {s : State} (early : deadlockDue s.desk = false) : exec .fenceDeadlockExpiry s = .next s :=
  congrArg Host.Outcome.next (if_pos (by rw [early]; rfl))

theorem exec_fenceDeadlock_awake {s : State} (awake : Awake s) (due : deadlockDue s.desk = true) :
    exec .fenceDeadlockExpiry s = .next (settle { s with desk := breakDeadlock s.desk }) :=
  congrArg Host.Outcome.next ((if_neg (by rw [due]; exact nofun)).trans (if_pos (deskAwake_iff.mpr awake)))

theorem exec_fenceDeadlock_below {s : State} (below : ¬ Awake s) (due : deadlockDue s.desk = true) :
    exec .fenceDeadlockExpiry s = .next (settle (wake 10 s)) :=
  congrArg Host.Outcome.next ((if_neg (by rw [due]; exact nofun)).trans (if_neg (mt deskAwake_iff.mp below)))

/-- A wake from below IDLE, with none under way, carries its cause. -/
theorem wake_below {s : State} {code : BitVec 4} (up : s.elec.life = .running) (active : s.np.state ≠ .active) (idle : s.np.state ≠ .idle)
    (asleep : s.np.waking = false) : (wake code s).np.waking = true ∧ (wake code s).np.wakeCause = code ∧
    (wake code s).np.state = s.np.state := by
  have running : (s.elec.life != .running) = false := by rw [up]; rfl
  have below : (s.np.state == .active || s.np.state == .idle) = false := by simp [active, idle]
  simp only [wake, running, below, asleep, Bool.false_eq_true, if_false]
  exact ⟨trivial, trivial, trivial⟩

theorem settle_wake (s : State) : (settle s).np.waking = s.np.waking ∧ (settle s).np.wakeCause = s.np.wakeCause := by
  rw [settle_eq]
  exact ⟨rfl, rfl⟩

/-- Settles O60: each limit past its time, and before it. -/
theorem limitsExpire : Obligations.LimitsExpire := by
  unfold Obligations.LimitsExpire
  intro s n awake
  refine ⟨fun cand idle head valid => ⟨fun passed waits => ?expired, fun ahead => ?ahead⟩,
    fun c o cur op => ⟨fun tile working going limited hung => ?hung, fun h => ?unhung, fun due stop working late transfer => ?reset,
      fun due h => ?early⟩,
    fun cand due blocked head => ?deadlock, fun u up active idle asleep due => ?below, exec_fenceDeadlock_early⟩
  case expired => exact congrArg Host.Outcome.next (onDesk_awake awake (deadlineExpiry_passed idle head valid passed waits))
  case ahead =>
    exact congrArg Host.Outcome.next (onDesk_awake awake (f := fun e d => deadlineExpiry e d n) (deadlineExpiry_ahead idle head ahead))
  case hung =>
    exact congrArg Host.Outcome.next (onDesk_awake awake (f := fun _ d => hangTimeout d n)
      (hangTimeout_told cur op tile working going limited hung))
  case unhung => exact congrArg Host.Outcome.next (onDesk_awake awake (f := fun _ d => hangTimeout d n) (hangTimeout_not cur h))
  case reset =>
    obtain ⟨ctr, limit, made⟩ := takeStop_transfer (e := envOf s) (d := s.desk) (n := n) op transfer (.inr rfl)
    have stopped := (engineStop_transfer (e := envOf s) cur op transfer stop working late).trans made
    exact ⟨_, _, congrArg Host.Outcome.next (retireDue_awake awake stopped due), settle_cur (withCur_cur _ _ _), rfl, rfl, rfl⟩
  case early => exact congrArg Host.Outcome.next (retireDue_awake awake (engineStop_not cur h) due)
  case deadlock => rw [exec_fenceDeadlock_awake awake due, breakDeadlock_at blocked head]
  case below =>
    have asleep' : ¬ Awake u := fun h => h.2.elim active idle
    obtain ⟨waking, cause, state⟩ := wake_below (code := 10) up active idle asleep
    obtain ⟨waking', cause'⟩ := settle_wake (wake 10 u)
    refine ⟨_, exec_fenceDeadlock_below asleep' due, waking'.trans waking, cause'.trans cause, ?_, ?_⟩
    · rw [settle_state_below, state]
      · rw [wake_elec]
        exact up
      · rw [state]
        exact active
      · rw [state]
        exact idle
    · rw [(settle_desk_rest _).1, wake_desk]

end Sys2Proof.Machine
end
section
/-!
SUPPORT. O57: the dispatch of queue heads, and preloads.
-/
namespace Sys2Proof.Machine

/-! ## The checks of a packet -/

set_option Elab.async false in
theorem Verdict.both_ok {a b : Verdict} (unmapped : a.both b ≠ .unmapped) (absent : a.both b ≠ .absent) : a = .ok := by
  cases a <;> cases b <;> simp_all [Verdict.both]

theorem ite_some_ne_none {α : Type} {p : Prop} [Decidable p] {a : α} {x : Option α} (rest : x ≠ none) : (if p then some a else x) ≠ none := by
  split
  · exact Option.some_ne_none a
  · exact rest

/-- A packet that passes the checks 3 to 8 is mapped, and finds its units and its tiles. -/
theorem of_lateChecks_none {e : Env} {d : Desk} {n : Fin 64} {o : Op} {p : Bytes} (late : lateChecks e d n o p [] = none) :
    packetVerdict e d n o p = .ok ∧ (opTile o = true → lacksUnit e o p (cmdGeometry d n o p) [] = false) ∧
    (opTile o = true → serviceable e.fuses.grade d (cmdGeometry d n o p) = true) := by
  unfold lateChecks at late
  simp only at late
  split at late
  · exact absurd late nofun
  · next mapped =>
    split at late
    · exact absurd late nofun
    · next whole =>
      rw [Bool.or_eq_true, decide_eq_true_eq, not_or] at whole
      obtain ⟨there, units⟩ := whole
      refine ⟨Verdict.both_ok mapped there, fun tile => ?_, fun tile => ?_⟩
      · simpa [tile] using units
      · refine Bool.of_not_eq_false fun lost => ?_
        rw [if_pos (c := (opTile o && !serviceable e.fuses.grade d (cmdGeometry d n o p)) = true) (by simp [tile, lost])] at late
        exact absurd late (ite_some_ne_none (ite_some_ne_none (ite_some_ne_none (ite_some_ne_none (Option.some_ne_none _)))))

theorem gather_none {e : Env} {d : Desk} {n : Fin 64} (fetch : (d.sqs.at n).fetch = []) (sound : (d.sqs.at n).fetchErr = false) :
    gather e d n [] = .done d [] := by
  unfold gather
  simp only [fetch, sound, Bool.false_eq_true, if_false]
  rfl

/-- A packet that reads nothing and passes its checks comes to be started. -/
theorem tryPacket_decides {e : Env} {d : Desk} {n : Fin 64} {c : Cand} {o : Op} {preload : Bool} (op : pktOp c.pkt = some o)
    (other : o ≠ .abort) (early : earlyChecks d c = none) (late : lateChecks e d n o c.pkt [] = none)
    (fetch : (d.sqs.at n).fetch = []) (sound : (d.sqs.at n).fetchErr = false) (first : dispatchReads d o c.pkt 0 [] = [])
    (second : dispatchReads d o c.pkt 1 [] = []) (fresh : o ≠ .resume)
    (free : opTile o = true → tilesBarred d = false ∧ (tilesNow e d n o c.pkt).isSome = true) :
    tryPacket e d n c preload = decideStart e d n c o [] preload := by
  obtain ⟨mapped, units, -⟩ := of_lateChecks_none late
  have barred : (opTile o && serviceable e.fuses.grade d (cmdGeometry d n o c.pkt) && tilesBarred d) = false := by
    cases tile : opTile o with
    | false => rfl
    | true => rw [(free tile).1, Bool.and_false]
  have placed : (opTile o && serviceable e.fuses.grade d (cmdGeometry d n o c.pkt) && (tilesNow e d n o c.pkt).isNone) = false := by
    cases tile : opTile o with
    | false => rfl
    | true => rw [← Option.not_isSome, (free tile).2, Bool.not_true, Bool.and_false]
  have have_units : (opTile o && lacksUnit e o c.pkt (cmdGeometry d n o c.pkt) []) = false := by
    cases tile : opTile o with
    | false => rfl
    | true => rw [units tile, Bool.and_false]
  have verdict : readsVerdict e d (queuePort n) [] = .ok := rfl
  have resume : (o == .resume) = false := beq_eq_false_iff_ne.mpr fresh
  unfold tryPacket
  rw [op]
  split
  · next none => exact absurd none nofun
  · next abort => exact absurd (Option.some.inj abort) other
  · next same =>
    obtain rfl := Option.some.inj same
    simp only [early, barred, placed, have_units, mapped, verdict, resume, first, second, gather_none fetch sound, Bool.false_eq_true,
      if_false, reduceCtorEq, Bool.false_and, Bool.or_false, ne_eq, not_true, List.append_nil, decide_false]

theorem decideStart_passes {e : Env} {d : Desk} {n : Fin 64} {c : Cand} {o : Op} {preload : Bool}
    (late : lateChecks e d n o c.pkt [] = none) (desk : opMgmt o = false) (own : opTile o = false) :
    decideStart e d n c o [] preload = .starts (startPacket d n o (dispatchedCmd e d n c o []) (d.sqs.at n).allot preload) := by
  unfold decideStart
  simp only [late, desk, own, Bool.false_and, Bool.false_eq_true, if_false]

/-- A COPY or a FILL that passes its checks takes its tiles. -/
theorem decideStart_transfer {e : Env} {d : Desk} {n : Fin 64} {c : Cand} {o : Op} {tiles : List Nat}
    (late : lateChecks e d n o c.pkt [] = none) (transfer : o = .copy ∨ o = .fill) (placed : tilesNow e d n o c.pkt = some tiles) :
    decideStart e d n c o [] false = .starts (startPacket d n o (dispatchedCmd e d n c o []) tiles false) := by
  have short : stagingShort d (dispatchedCmd e d n c o []).staging = false := by
    unfold stagingShort
    rw [List.any_eq_false]
    intro die mem
    have none : getn (dispatchedCmd e d n c o []).staging die = 0 := by
      show getn [0, 0, 0, 0] die = 0
      exact (by decide : ∀ i < 4, getn [0, 0, 0, 0] i = 0) die (List.mem_range.mp mem)
    rw [none]
    simp
  unfold decideStart
  rw [late]
  obtain rfl | rfl := transfer
  · simp only [placed, short, opMgmt, opTile, opTensor, Bool.false_and, Bool.false_eq_true, if_false, if_true]
  · simp only [placed, short, opMgmt, opTile, opTensor, Bool.false_and, Bool.false_eq_true, if_false, if_true]

/-! ## What a dispatch leaves -/

theorem opTile_false {o : Op} (own : opTile o = false) : o ≠ .resume ∧ o ≠ .copy ∧ o ≠ .fill ∧ opRun o = false ∧
    (opSlotWriter o = true → o = .setSchedule ∨ o = .setPhaseMap) := by
  cases o <;> simp_all [opTile, opRun, opSlotWriter]

theorem leaveSlot_keeps (d : Desk) (i : Fin 64) : (leaveSlot d i).slots = d.slots := by
  unfold leaveSlot
  generalize List.range 256 = l
  induction l generalizing d with
  | nil => rfl
  | cons t l ih =>
    rw [List.foldl_cons, ih]
    split
    · split <;> rfl
    · rfl

/-- What the dispatch of a command that runs on no tile does to its slot. -/
theorem dispatchSlot_desk {d : Desk} {n : Fin 64} {o : Op} (own : opTile o = false) (p : Bytes) :
    ∃ tiles slots, dispatchSlot d n o p = { d with tiles := tiles, slots := slots } ∧
      (opSlotWriter o = false → slots = d.slots) ∧
      (opSlotWriter o = true → slots = d.slots.put (pktSlot p) (openSlot (queuePort n) (d.slots.at (pktSlot p)))) := by
  obtain ⟨resume, -, -, -, writes⟩ := opTile_false own
  cases writer : opSlotWriter o with
  | false =>
    refine ⟨d.tiles, d.slots, ?_, fun _ => rfl, nofun⟩
    cases o <;> simp_all [dispatchSlot, opSlotWriter]
  | true =>
    have opens : dispatchSlot d n o p = updSlot (leaveSlot d (pktSlot p)) (pktSlot p) (openSlot (queuePort n)) := by
      obtain rfl | rfl := writes writer <;> rfl
    have only := leaveSlot_slots d (pktSlot p)
    have kept := leaveSlot_keeps d (pktSlot p)
    generalize leaveSlot d (pktSlot p) = u at opens only kept
    rw [OnlySlots] at only
    refine ⟨u.tiles, d.slots.put (pktSlot p) (openSlot (queuePort n) (d.slots.at (pktSlot p))), opens.trans ?_, nofun, fun _ => rfl⟩
    unfold updSlot
    rw [only, kept]
    rfl

/-- The queue of a command that is dispatched, or preloaded behind the one under way. -/
def startedQueue (c : Cmd) (preload : Bool) (q : Sq) : Sq :=
  let r := launchNext (clearFetch q) c.launch
  if preload then { r with pre := some { c with tiles := q.allot, stage := .preloaded } }
  else { r with cur := some { c with tiles := q.allot, stage := .dispatched } }

theorem upd_upd {n : Nat} {α : Type} (t : Tab n α) (i : Fin n) (f g : α → α) : (t.upd i f).upd i g = t.upd i (g ∘ f) := by
  show (t.put i _).put i (g ((t.put i _).at i)) = _
  rw [Tab.put_put, Tab.at_put_same]
  rfl

theorem startPacket_desk {d : Desk} {n : Fin 64} {o : Op} (own : opTile o = false) (c : Cmd) (preload : Bool) :
    ∃ tiles slots, startPacket d n o c (d.sqs.at n).allot preload = { d with
        sqs := d.sqs.upd n (startedQueue c preload), deadlockSince := none, tiles := tiles, slots := slots } ∧
      (opSlotWriter o = false → slots = d.slots) ∧
      (opSlotWriter o = true → slots = d.slots.put (pktSlot c.pkt) (openSlot (queuePort n) (d.slots.at (pktSlot c.pkt)))) := by
  obtain ⟨tiles, slots, made, same, opened⟩ := dispatchSlot_desk (n := n)
    (d := { d with sqs := d.sqs.upd n (startedQueue c preload), deadlockSince := none }) own c.pkt
  refine ⟨tiles, slots, Eq.trans ?_ made, same, opened⟩
  unfold startPacket
  simp only [own, Bool.and_false, Bool.false_eq_true, if_false, upd_upd]
  congr 2
  unfold Tab.upd
  cases preload <;> rfl

theorem startedQueue_kept (c : Cmd) (preload : Bool) (q : Sq) : (startedQueue c preload q).cur =
    (if preload then q.cur else some { c with tiles := q.allot, stage := .dispatched }) ∧
    (preload = true → (startedQueue c preload q).pre = some { c with tiles := q.allot, stage := .preloaded }) := by
  unfold startedQueue launchNext clearFetch
  cases preload <;> simp only [Bool.false_eq_true, if_false, if_true] <;> split <;> simp

theorem onlyDesk_settled (s : State) (d : Desk) : OnlyDesk s (settle { s with desk := d }) := by
  rw [settle_eq]
  exact ⟨rfl, rfl, rfl⟩

/-! ## The round -/

theorem exec_dispatch {s : State} (awake : Awake s) {d : Desk} (made : dispatchRound (envOf s) s.desk = d) :
    exec (.dispatch none) s = .next (settle { s with desk := d }) :=
  congrArg Host.Outcome.next (onDesk_awake awake (f := fun e d => dispatchRound e d) made)

theorem dispatchRound_starts {e : Env} {d d0 d1 : Desk} {n : Fin 64} (first : firstStart e (roundRobin d) d = (d0, some n))
    (idle : (d0.sqs.at n).cur = none) (starts : examine e d0 n = .starts d1) : dispatchRound e d = { d1 with rr := n } := by
  unfold dispatchRound
  simp only [first, idle, starts]

theorem dispatchRound_none {e : Env} {d d1 : Desk} (h : firstStart e (roundRobin d) d = (d1, none) ∨
    ∃ n, firstStart e (roundRobin d) d = (d1, some n) ∧ (d1.sqs.at n).cur ≠ none) : dispatchRound e d = d1 := by
  unfold dispatchRound
  obtain none | ⟨n, first, busy⟩ := h
  · simp only [none]
  · obtain ⟨c, cur⟩ := Option.ne_none_iff_exists'.mp busy
    simp only [first, cur]

theorem examine_ready {e : Env} {d : Desk} {n : Fin 64} {c : Cand} (idle : (d.sqs.at n).cur = none) (head : nextCand d n = some c)
    (ready : isReady d n c = true) : examine e d n = tryPacket e d n c false := by
  unfold examine
  simp only [idle, head, ready, if_true]

theorem tryPacket_fails {e : Env} {d : Desk} {n : Fin 64} {c : Cand} {st : Nat} (other : pktOp c.pkt ≠ some .abort)
    (h : pktOp c.pkt = none ∧ st = stBad ∨ (∃ o, pktOp c.pkt = some o) ∧ earlyChecks d c = some st) :
    tryPacket e d n c false = .starts (failPacket d n (sampledCmd e d n c) st false) := by
  unfold tryPacket
  obtain ⟨unknown, rfl⟩ | ⟨⟨o, op⟩, early⟩ := h
  · rw [unknown]
  · rw [op]
    split
    · next none => exact absurd none nofun
    · next abort => exact absurd (op.trans abort) other
    · simp only [early]

theorem preloadNext_tries {e : Env} {d d1 : Desk} {n : Fin 64} {run : Cmd} {cand : Cand} {ro o : Op} (cur : (d.sqs.at n).cur = some run)
    (empty : (d.sqs.at n).pre = none) (idle : (d.sqs.at n).launch = none) (head : nextCand d n = some cand) (rop : pktOp run.pkt = some ro)
    (op : pktOp cand.pkt = some o) (own : run.launch = none) (working : run.stage = .working) (notLaunch : ro ≠ .itineraryLaunch)
    (plain : o ≠ .itineraryLaunch) (notAbort : o ≠ .abort) (tile : opTile o = false) (mgmt : opMgmt o = false)
    (ready : isReady d n cand = true) (free : slotClash o cand.pkt ro run.pkt = false)
    (starts : tryPacket e d n cand true = .starts d1) : preloadNext e d n = d1 := by
  have patch : patchClash o cand.pkt ro run.pkt = false := by
    unfold patchClash
    rw [beq_eq_false_iff_ne.mpr plain, Bool.false_and]
  unfold preloadNext
  simp only [cur, empty, idle, head, rop, op, starts]
  exact if_pos (by simp [own, working, notLaunch, notAbort, tile, mgmt, ready, free, patch])

theorem dispatchedCmd_own {e : Env} {d : Desk} {n : Fin 64} {c : Cand} {o : Op} (own : o ≠ .resume) :
    (dispatchedCmd e d n c o []).ckpt = d.gctl.ckpt.toNat := by
  unfold dispatchedCmd
  simp only [beq_eq_false_iff_ne.mpr own, Bool.false_eq_true, if_false]
  rfl

theorem startPacket_transfer {d : Desk} {n : Fin 64} {o : Op} (transfer : o = .copy ∨ o = .fill) (c : Cmd) (tiles : List Nat) :
    ((startPacket d n o c tiles false).sqs.at n).cur = some { c with tiles := tiles, stage := .dispatched } ∧
    ((startPacket d n o c tiles false).sqs.at n).allot = tiles := by
  unfold startPacket
  obtain rfl | rfl := transfer
  all_goals
    simp only [opTile, dispatchSlot, Bool.false_and, Bool.false_eq_true, if_false, if_true, Tab.at_upd_same]
    exact ⟨trivial, trivial⟩

theorem tilesNow_transfer {e : Env} {d : Desk} {n : Fin 64} {o : Op} {p : Bytes} {tiles : List Nat} (transfer : o = .copy ∨ o = .fill)
    (placed : allotFor e.fuses.grade d n none (max 1 (d.sqs.at n).allot.length) = some tiles) : tilesNow e d n o p = some tiles := by
  obtain rfl | rfl := transfer <;> exact placed

/-- Settles O57: the round by what its first start comes to, and the preload by its packet's checks. -/
theorem headsAreDispatched : Obligations.HeadsAreDispatched := by
  unfold Obligations.HeadsAreDispatched
  intro s awake
  refine ⟨fun n d0 cand first idle head ready => ⟨fun o op other early late fetch sound => ⟨fun own desk first0 first1 => ?own,
      fun tiles transfer free placed => ?transfer⟩, fun st other h => ?fails, fun d starts => ?starts⟩,
    fun d h => exec_dispatch awake (dispatchRound_none h),
    fun n run cand ro o cur empty noLaunch head rop op own working notLaunch plain notAbort tile mgmt writes ready free early first0 first1 late
      fetch sound => ?preload⟩
  case own =>
    obtain ⟨fresh, -, -, -, -⟩ := opTile_false own
    obtain ⟨tiles, slots, made, same, opened⟩ := startPacket_desk (d := d0) (n := n) own (dispatchedCmd (envOf s) d0 n cand o []) false
    have starts := ((examine_ready idle head ready).trans (tryPacket_decides (e := envOf s) op other early late fetch sound first0 first1 fresh
      (fun tile => absurd (own.symm.trans tile) nofun))).trans (decideStart_passes late desk own)
    rw [made] at starts
    obtain ⟨sqs, cqs, slots', -, mem, -⟩ := settle_desk_rest { s with desk := { d0 with
      sqs := d0.sqs.upd n (startedQueue (dispatchedCmd (envOf s) d0 n cand o []) false), deadlockSince := none, tiles := tiles
      slots := slots, rr := n } }
    refine ⟨_, { dispatchedCmd (envOf s) d0 n cand o [] with tiles := (d0.sqs.at n).allot, stage := .dispatched },
      exec_dispatch awake (dispatchRound_starts first idle starts), settle_cur ?_, ?_, rfl, rfl, rfl, rfl, rfl, rfl, rfl, rfl, rfl,
      dispatchedCmd_own fresh, fun reads => ?_, fun writes => ?_, mem, cqs, fun i away => ?_, onlyDesk_settled s _⟩
    · show ((d0.sqs.upd n _).at n).cur = _
      rw [Tab.at_upd_same, (startedQueue_kept _ _ _).1]
      rfl
    · rw [settle_desk_eq]
    · rw [slots', same reads]
    · rw [slots', opened writes]
      rfl
    · rw [sqs]
      exact Tab.at_upd_ne _ _ _ _ away
  case transfer =>
    have fresh : o ≠ .resume := by
      obtain rfl | rfl := transfer <;> exact nofun
    have reads : dispatchReads d0 o cand.pkt 0 [] = [] ∧ dispatchReads d0 o cand.pkt 1 [] = [] := by
      obtain rfl | rfl := transfer <;> exact ⟨rfl, rfl⟩
    have placed' := tilesNow_transfer (p := cand.pkt) (e := envOf s) transfer placed
    have starts := ((examine_ready idle head ready).trans (tryPacket_decides (e := envOf s) op other early late fetch sound reads.1 reads.2 fresh
      (fun _ => ⟨free, by rw [placed']; rfl⟩))).trans (decideStart_transfer late transfer placed')
    obtain ⟨cur, allot⟩ := startPacket_transfer (d := d0) (n := n) transfer (dispatchedCmd (envOf s) d0 n cand o []) tiles
    refine ⟨_, { dispatchedCmd (envOf s) d0 n cand o [] with tiles := tiles, stage := .dispatched },
      exec_dispatch awake (dispatchRound_starts first idle starts), settle_cur cur, ?_, rfl, rfl, rfl, ?_⟩
    · rw [settle_desk_eq]
    · rw [(settle_desk_rest _).1]
      exact allot
  case fails =>
    exact exec_dispatch awake (dispatchRound_starts first idle ((examine_ready idle head ready).trans (tryPacket_fails other h)))
  case starts => exact exec_dispatch awake (dispatchRound_starts first idle starts)
  case preload =>
    obtain ⟨fresh, -, -, -, -⟩ := opTile_false tile
    obtain ⟨tiles, slots, made, same, -⟩ := startPacket_desk (d := s.desk) (n := n) tile (dispatchedCmd (envOf s) s.desk n cand o []) true
    have starts := (tryPacket_decides (e := envOf s) (preload := true) op notAbort early late fetch sound first0 first1 fresh
      (fun yes => absurd (tile.symm.trans yes) nofun)).trans (decideStart_passes late mgmt tile)
    rw [made] at starts
    have preloaded := preloadNext_tries cur empty noLaunch head rop op own working notLaunch plain notAbort tile mgmt ready free starts
    obtain ⟨sqs, -, slots', -⟩ := settle_desk_rest { s with desk := { s.desk with
      sqs := s.desk.sqs.upd n (startedQueue (dispatchedCmd (envOf s) s.desk n cand o []) true), deadlockSince := none, tiles := tiles
      slots := slots } }
    obtain ⟨curs, pres⟩ := startedQueue_kept (dispatchedCmd (envOf s) s.desk n cand o []) true (s.desk.sqs.at n)
    refine ⟨_, { dispatchedCmd (envOf s) s.desk n cand o [] with tiles := (s.desk.sqs.at n).allot, stage := .preloaded },
      congrArg Host.Outcome.next (onDesk_awake awake (f := fun e d => preloadNext e d n) preloaded), ?_, rfl, rfl, settle_cur ?_, ?_, ?_,
      fun i away => ?_⟩
    · rw [sqs, Tab.at_upd_same]
      exact pres rfl
    · show ((s.desk.sqs.upd n _).at n).cur = _
      rw [Tab.at_upd_same, curs]
      exact cur
    · rw [settle_desk_eq]
    · rw [slots', same writes]
    · rw [sqs]
      exact Tab.at_upd_ne _ _ _ _ away

end Sys2Proof.Machine
end
section
/-!
SUPPORT. O56: management commands.
-/
namespace Sys2Proof.Machine

/-! ## Sources and destinations -/

set_option Elab.async false in
/-- A source in sound memory of the module is read at once. -/
theorem mgmtSource_plain {s : State} {n : Fin 64} {c : Cmd} {addr len : Nat} (fresh : c.asked = 0) (alone : c.remote = [])
    (plain : PlainSpan s addr len) (some_ : 0 < len) : mgmtSource (envOf s) s.desk n c addr len =
    (s.desk, { c with asked := 1, cache := [] }, some (cellReads s.desk.mem.cells (addrDevice addr) len)) := by
  have asks := askOperands_own (e := envOf s) s.desk (c := c) 3 (rs := [(addr, len)]) fresh fun r mem => by
    obtain rfl : r = _ := by simpa using mem
    exact plain.1
  have none : readsOut { c with asked := 1 } = false := by
    unfold readsOut
    rw [alone]
    rfl
  unfold mgmtSource
  rw [if_neg (by omega)]
  simp only [asks, none, Bool.false_eq_true, if_false, readRange_plain plain rfl]

/-- A report to sound memory of the module is written, and ends the command. -/
theorem attWrite_plain {s : State} {n : Fin 64} {c : Cmd} (going : c.stop = none) {report : Bytes}
    (plain : PlainSpan s (field c.pkt 24 8) report.length) : ∃ m, attWrite s n c report = { s with
      desk := endWork { s.desk with mem := m } n c stOk [] 0 } ∧ m.cells = cellWrites s.desk.mem.cells (addrDevice (field c.pkt 24 8)) report := by
  by_cases empty : report = []
  · refine ⟨s.desk.mem, ?_, by rw [empty]; rfl⟩
    unfold attWrite cmdWrite cmdPut
    rw [empty]
    simp only [List.isEmpty_nil, if_true, going, Option.isSome_none, Bool.false_eq_true, if_false]
  · refine ⟨memStore s.desk.mem (addrDevice (field c.pkt 24 8)) report, ?_, memStore_cells plain.2.2⟩
    unfold attWrite cmdWrite
    simp only [cmdPut_plain plain rfl empty n c 3, going, Option.isSome_none, Bool.false_eq_true, if_false]

/-- The report stands in memory once what follows it is done. -/
theorem report_stored {s u : State} {a : Nat} {report : Bytes} (cells : u.desk.mem.cells = cellWrites s.desk.mem.cells a report) :
    StoredAt s.desk (settle u).desk a report.length fun j => report.getD j 0 := by
  refine storedAt_of ?_
  rw [(settle_desk_rest u).2.2.2.2.1]
  exact cells

theorem endWork_cur (d : Desk) (n : Fin 64) (c : Cmd) (status : Nat) (result : Bytes) (limit : Nat) :
    ((endWork d n c status result limit).sqs.at n).cur =
      some { c with stage := .ended, status := status, result := slice result 0 28, limit := limit } :=
  congrArg Sq.cur (Tab.at_upd_same _ _ _)

theorem begun_endedAs {d : Desk} {c : Cmd} (stage : c.stage = .dispatched) (status : Nat) (result : Bytes) (limit : Nat) :
    EndedAs { beginWork d c with stage := .ended, status := status, result := slice result 0 28, limit := limit } c status := by
  rw [beginWork_dispatched d stage]
  exact ⟨rfl, rfl, rfl, rfl, rfl, rfl⟩

/-! ## Images -/

theorem imageStage_at {s : State} {n : Fin 64} {c : Cmd} (fresh : Untouched c) (h : AtHand s n .imageStage c)
    (plain : PlainSpan s (field c.pkt 24 8) (field c.pkt 40 8)) (some_ : 0 < field c.pkt 40 8) {k : Fin 2}
    (slot : stageSlotOf s.sec (field c.pkt 32 8) (cellReads s.desk.mem.cells (addrDevice (field c.pkt 24 8)) (field c.pkt 40 8)) = some k) :
    imageStage s n = { s with
      desk := withCur s.desk n { workDone s.desk.now c stOk [] 0 with asked := 1 }
      sec := { s.sec with
        stageSlot := k
        staging := s.sec.staging.upd k fun b => placeBytes b (field c.pkt 32 8)
          (cellReads s.desk.mem.cells (addrDevice (field c.pkt 24 8)) (field c.pkt 40 8)) } } := by
  obtain ⟨-, asked, remote, cache, -⟩ := fresh
  have begun := beginWork_dispatched s.desk h.2.2.1
  have source := mgmtSource_plain (n := n) (c := beginWork s.desk c) (by rw [begun]; exact asked) (by rw [begun]; exact remote) plain some_
  rw [begun] at source
  unfold imageStage
  rw [h.work rfl]
  simp only [begun, source]
  unfold stagePiece
  simp only [slot]
  unfold withCur workDone
  rw [cache]
  rfl

theorem fwOf_eq (x : Secure) (k : Nat) : fwOf x k = if k = 0 then x.fd else x.np := rfl

theorem imageInstall_at {s : State} {n : Fin 64} {c : Cmd} (h : AtHand s n .imageInstall c) {k : Nat} {b : Bytes} {f : FwType} {code : Nat}
    (is_k : k = field c.pkt 16 1) (is_b : b = s.sec.staging.at (fin 2 k)) (is_f : f = if k = 0 then s.sec.fd else s.sec.np)
    (is_code : code = imageVerdictCode s.fuses.vroot s.sec.lifecycle f.rollback (k + 1) b) : imageInstall s n = { s with
      desk := endWork s.desk n (beginWork s.desk c) (if code = 1 then stOk else stBad) [] 0
      sec := if code = 1 then
          setFw { s.sec with fwResult := BitVec.ofNat 8 code, fwImage := BitVec.ofNat 2 k } k (installSlot f b)
        else { s.sec with fwResult := BitVec.ofNat 8 code, fwImage := BitVec.ofNat 2 k } } := by
  have pkt : (beginWork s.desk c).pkt = c.pkt := by rw [beginWork_dispatched s.desk h.2.2.1]
  unfold imageInstall
  rw [h.work rfl]
  simp only [pkt, ← is_k, fwOf_eq, ← is_f, ← is_b, ← is_code]
  split <;> rfl

/-- What an installation leaves of the secure region. -/
theorem installed_sec (x : Secure) {k : Nat} (small : k ≤ 1) (b : Bytes) (code : Nat) {f : FwType} (is_f : f = if k = 0 then x.fd else x.np)
    {y : Secure} (is_y : y = if code = 1 then
        setFw { x with fwResult := BitVec.ofNat 8 code, fwImage := BitVec.ofNat 2 k } k (installSlot f b)
      else { x with fwResult := BitVec.ofNat 8 code, fwImage := BitVec.ofNat 2 k }) :
    y.fwResult = BitVec.ofNat 8 code ∧ y.fwImage = BitVec.ofNat 2 k ∧
    (if k = 0 then y.fd else y.np) = (if code = 1 then { f with
        slots := f.slots.put (f.active + 1) ⟨b.take (imageLen b), false⟩
        pending := some (f.active + 1)
        attempts := 0
        fails := 0 } else f) ∧
    (if k = 0 then y.np else y.fd) = (if k = 0 then x.np else x.fd) ∧ y.staging = x.staging := by
  obtain rfl | rfl : k = 0 ∨ k = 1 := by omega
  · by_cases good : code = 1
    · rw [is_y, is_f, if_pos good, if_pos good]
      exact ⟨rfl, rfl, rfl, rfl, rfl⟩
    · rw [is_y, is_f, if_neg good, if_neg good]
      exact ⟨rfl, rfl, rfl, rfl, rfl⟩
  · by_cases good : code = 1
    · rw [is_y, is_f, if_pos good, if_pos good]
      exact ⟨rfl, rfl, rfl, rfl, rfl⟩
    · rw [is_y, is_f, if_neg good, if_neg good]
      exact ⟨rfl, rfl, rfl, rfl, rfl⟩

/-! ## Reports -/

theorem attestRun_signs {s : State} {n : Fin 64} {c : Cmd} (fresh : Untouched c) (h : AtHand s n .attest c) {k : AttKey}
    (key : s.sec.attKey = some k) (serves : aliasServes s.sec = true) (idle : s.sec.genWanted = false) :
    attestRun s n = attSign s n (beginWork s.desk c) k := by
  have done : (beginWork s.desk c).done = 0 := by
    rw [beginWork_dispatched s.desk h.2.2.1]
    exact fresh.1
  have fresh2 : ¬ (0 : Nat) = 2 := by decide
  have fresh3 : ¬ (0 : Nat) = 3 := by decide
  unfold attestRun
  rw [h.work rfl]
  simp only [done, idle, key, serves, Bool.false_and, Bool.false_eq_true, if_false, if_true, fresh2, fresh3]

theorem attestRun_keyless {s : State} {n : Fin 64} {c : Cmd} (fresh : Untouched c) (h : AtHand s n .attest c) (key : s.sec.attKey = none)
    (none : certifiable s.sec = false) : attestRun s n = attWrite s n (beginWork s.desk c) (attBody s 1 (slice c.pkt 32 32)) := by
  have begun : (beginWork s.desk c).done = 0 ∧ (beginWork s.desk c).pkt = c.pkt := by
    rw [beginWork_dispatched s.desk h.2.2.1]
    exact ⟨fresh.1, rfl⟩
  have fresh2 : ¬ (0 : Nat) = 2 := by decide
  have fresh3 : ¬ (0 : Nat) = 3 := by decide
  unfold attestRun
  rw [h.work rfl]
  simp only [begun.1, begun.2, key, none, Bool.and_false, Bool.false_eq_true, if_false, fresh2, fresh3]

theorem attestRun_signed {s : State} {n : Fin 64} {c : Cmd} (cur : (s.desk.sqs.at n).cur = some c) (op : pktOp c.pkt = some .attest)
    (working : c.stage = .working) (going : c.stop = none) (signed : c.done = 2) : attestRun s n = attWrite s n c c.out := by
  unfold attestRun
  rw [workOf_of cur op (.inr rfl) (.inr working) going]
  simp only [beginWork_working s.desk working, signed, if_true]

/-! ## The lifecycle -/

/-- The secure region after the wipe of a transition. -/
def wipedSec (x : Secure) : Secure := { x with sram := [], engineWarm := false, wipeCount := satAdd 16 x.wipeCount 1, wipeLc := true }

theorem enterLifecycle_kept (x : Secure) (l : Lifecycle) : (enterLifecycle x l).lifecycle = l ∧
    (enterLifecycle x l).lcCount = x.lcCount + 1 ∧ (enterLifecycle x l).sram = x.sram ∧ (enterLifecycle x l).wipeLc = x.wipeLc ∧
    (enterLifecycle x l).idLeaf = x.idLeaf ∧
    (l = .retired → (enterLifecycle x l).idKey = none ∧ (enterLifecycle x l).attKey = none) ∧
    (l ≠ .retired → (enterLifecycle x l).idKey = x.idKey) := by
  unfold enterLifecycle
  simp only
  split
  · next retired => exact ⟨rfl, rfl, rfl, rfl, rfl, fun _ => ⟨rfl, rfl⟩, fun other => absurd retired other⟩
  · next other => exact ⟨rfl, rfl, rfl, rfl, rfl, fun retired => absurd retired other, fun _ => rfl⟩

theorem lifecycleRun_token {s : State} {n : Fin 64} {c : Cmd} (fresh : Untouched c) (h : AtHand s n .lifecycle c)
    (plain : PlainSpan s (field c.pkt 24 8) 2884) : lifecycleRun s n = lifecycleToken s n { beginWork s.desk c with asked := 1, cache := [] }
      (cellReads s.desk.mem.cells (addrDevice (field c.pkt 24 8)) 2884) := by
  obtain ⟨done, asked, remote, -⟩ := fresh
  have begun := beginWork_dispatched s.desk h.2.2.1
  have source := mgmtSource_plain (n := n) (c := beginWork s.desk c) (by rw [begun]; exact asked) (by rw [begun]; exact remote) plain
    (by omega)
  rw [begun] at source
  unfold lifecycleRun
  rw [h.work rfl]
  simp only [begun, source]
  exact if_neg (by rw [done]; exact Nat.zero_ne_one)

theorem exec_lifecycle (s : State) (n : Fin 64) : exec (.lifecycle n) s = .next (settle (lifecycleRun s n)) := rfl

/-- The identity key is generated at once from a ready source with 24 words. -/
theorem identityStep_ready {s : State} (n : Fin 64) (c : Cmd) (none : s.sec.drawn = []) (ready : s.trng.state = .ready)
    (first : s.trng.waiting = []) (words : 24 ≤ s.trng.pool.length) : ∃ d, identityStep s n c =
    lifecycleDone { s with
      desk := d, trng := { s.trng with pool := s.trng.pool.drop 24 }
      sec := { s.sec with idKey := some (keySeed (s.trng.pool.take 24)), idLeaf := 0, drawn := [] } } n c := by
  have serves : (s.trng.state == .requal || s.trng.state == .off) = false := by rw [ready]; rfl
  have takes : takeKeys { s with desk := setCur s.desk n (some { c with done := 1 }) } = { s with
      desk := setCur s.desk n (some { c with done := 1 }), trng := { s.trng with pool := s.trng.pool.drop 24 }
      sec := { s.sec with drawn := s.trng.pool.take 24 } } := by
    unfold takeKeys
    simp only [none, first, words, List.isEmpty_nil, List.any_nil, Bool.not_true, Bool.or_self, Bool.false_eq_true, if_false, decide_true,
      Bool.and_self, if_true]
  have drawn : (s.trng.pool.take 24).isEmpty = false := by
    cases pool : s.trng.pool with
    | nil => rw [pool] at words; exact absurd words (by simp)
    | cons => rfl
  unfold identityStep
  simp only [serves, takes, drawn, Bool.false_eq_true, if_false]
  exact ⟨_, rfl⟩

/-- What a transition leaves of the secure region. -/
def Entered (x y : Secure) (l : Lifecycle) : Prop := y.lifecycle = l ∧ y.lcCount = x.lcCount + 1 ∧ y.sram = [] ∧ y.wipeLc = true ∧
  (l = .retired → y.idKey = none ∧ y.attKey = none)

theorem lifecycleDone_entered {s : State} {x : Secure} (n : Fin 64) (c : Cmd) (sec : s.sec = { x with
    lifecycle := s.sec.lifecycle, idKey := s.sec.idKey, idLeaf := s.sec.idLeaf, drawn := s.sec.drawn, sram := [], wipeLc := true
    engineWarm := s.sec.engineWarm, wipeCount := s.sec.wipeCount }) :
    Entered x (lifecycleDone s n c).sec (lcOf (field c.pkt 16 1)) := by
  obtain ⟨lifecycle, count, sram, wiped, -, retired, -⟩ := enterLifecycle_kept s.sec (lcOf (field c.pkt 16 1))
  refine ⟨lifecycle, count.trans ?_, sram.trans ?_, wiped.trans ?_, retired⟩ <;> rw [sec]

/-- A transition whose token holds: the wipe, and the identity key of a blank module. -/
theorem lifecycleToken_holds {s : State} {n : Fin 64} {c : Cmd} {tok : Bytes} (holds : tokenOk s.fuses s.sec (field c.pkt 16 1) tok = true)
    (keys : s.sec.lifecycle = .blank ∧ lcOf (field c.pkt 16 1) = .provisioned → s.sec.drawn = [] ∧ s.trng.state = .ready ∧
      s.trng.waiting = [] ∧ 24 ≤ s.trng.pool.length) :
    ((lifecycleToken s n c tok).desk.sqs.at n).cur = some { c with stage := .ended, status := stOk, result := slice [] 0 28, limit := 0 } ∧
    Entered s.sec (lifecycleToken s n c tok).sec (lcOf (field c.pkt 16 1)) ∧
    (s.sec.lifecycle = .blank ∧ lcOf (field c.pkt 16 1) = .provisioned →
      (lifecycleToken s n c tok).sec.idKey = some ((s.trng.pool.take 24).flatMap fun w => leBytes 4 w.toNat) ∧
      (lifecycleToken s n c tok).sec.idLeaf = 0 ∧ (lifecycleToken s n c tok).trng = { s.trng with pool := s.trng.pool.drop 24 }) := by
  have passes : (!tokenOk s.fuses s.sec (field c.pkt 16 1) tok) = false := by rw [holds]; rfl
  by_cases blank : s.sec.lifecycle = .blank ∧ lcOf (field c.pkt 16 1) = .provisioned
  · obtain ⟨drawn, ready, first, words⟩ := keys blank
    obtain ⟨d, stepped⟩ := identityStep_ready (s := { wipeSram s with sec := { (wipeSram s).sec with wipeLc := true } }) n c drawn ready first
      words
    have made : lifecycleToken s n c tok = _ := (if_neg (by rw [passes]; exact nofun)).trans ((if_pos blank).trans stepped)
    rw [made]
    refine ⟨endWork_cur _ _ _ _ _ _, lifecycleDone_entered n c rfl, fun _ => ⟨?_, ?_, rfl⟩⟩
    · obtain ⟨-, -, -, -, -, -, key⟩ := enterLifecycle_kept { wipedSec s.sec with
        idKey := some (keySeed (s.trng.pool.take 24)), idLeaf := 0, drawn := [] } (lcOf (field c.pkt 16 1))
      refine (key (by rw [blank.2]; exact nofun)).trans ?_
      unfold keySeed
      rw [List.take_take, Nat.min_self]
    · exact (enterLifecycle_kept { wipedSec s.sec with idKey := some (keySeed (s.trng.pool.take 24)), idLeaf := 0, drawn := [] } _).2.2.2.2.1
  · have made : lifecycleToken s n c tok = _ := (if_neg (by rw [passes]; exact nofun)).trans (if_neg blank)
    rw [made]
    exact ⟨endWork_cur _ _ _ _ _ _, lifecycleDone_entered n c rfl, fun h => absurd h blank⟩

theorem lifecycleToken_fails {s : State} {n : Fin 64} {c : Cmd} {tok : Bytes} (fails : tokenOk s.fuses s.sec (field c.pkt 16 1) tok ≠ true) :
    lifecycleToken s n c tok = { s with desk := endWork s.desk n c stBad [] 0 } :=
  if_pos (by rw [Bool.eq_false_iff.mpr fails]; rfl)

/-- Settles O56: each management command by what its work comes to. -/
theorem managementCommands : Obligations.ManagementCommands := by
  unfold Obligations.ManagementCommands
  intro s n c fresh
  refine ⟨fun x k h plain some_ is_x slot => ?stage, fun k b f code h is_k small is_b is_f is_code => ?install,
    fun k i msg h key serves idle is_i is_msg => ?sign, fun h key none plain => ?keyless, fun c1 cur op working going signed plain => ?signed,
    fun tok l h plain is_tok is_l keys => ?lifecycle⟩
  case stage =>
    subst is_x
    exact congrArg (fun t => Host.Outcome.next (settle t)) (imageStage_at fresh h plain some_ slot)
  case install =>
    have made := imageInstall_at h is_k is_b is_f is_code
    obtain ⟨result, image, own, rest, staging⟩ := installed_sec s.sec small b code is_f rfl
    refine ⟨_, _, congrArg (fun t => Host.Outcome.next (settle t)) made, settle_cur (endWork_cur _ _ _ _ _ _),
      begun_endedAs h.2.2.1 _ _ _, ?_⟩
    rw [settle_sec]
    exact ⟨result, image, own, rest, staging, onlyMemory_settled ⟨rfl, fun m other => Tab.at_upd_ne _ _ _ _ other⟩⟩
  case sign =>
    have begun := beginWork_dispatched s.desk h.2.2.1
    have made := attestRun_signs fresh h key serves idle
    refine ⟨_, _, congrArg (fun t => Host.Outcome.next (settle t)) made, settle_cur (congrArg Sq.cur (Tab.at_upd_same _ _ _)), ?_, rfl, ?_,
      ?_, ?_, (settle_desk_rest _).2.2.2.2.1⟩
    · rw [begun]
    · rw [begun, is_msg, is_i]
    · rw [settle_sec, is_i]
      rfl
    · rw [settle_sec]
      rfl
  case keyless =>
    have begun := beginWork_dispatched s.desk h.2.2.1
    have pkt : (beginWork s.desk c).pkt = c.pkt := by rw [begun]
    obtain ⟨m, made, cells⟩ := attWrite_plain (s := s) (n := n) (c := beginWork s.desk c) (by rw [begun]; exact h.2.2.2)
      (report := attBody s 1 (slice c.pkt 32 32)) (by rw [pkt]; exact plain)
    rw [pkt] at cells
    exact ⟨_, _, congrArg (fun t => Host.Outcome.next (settle t)) ((attestRun_keyless fresh h key none).trans made),
      settle_cur (endWork_cur _ _ _ _ _ _), begun_endedAs h.2.2.1 _ _ _, settle_sec _, report_stored cells⟩
  case signed =>
    obtain ⟨m, made, cells⟩ := attWrite_plain (s := s) (n := n) going plain
    exact ⟨_, _, congrArg (fun t => Host.Outcome.next (settle t)) ((attestRun_signed cur op working going signed).trans made),
      settle_cur (endWork_cur _ _ _ _ _ _), rfl, rfl, settle_sec _, report_stored cells⟩
  case lifecycle =>
    rw [is_l] at keys ⊢
    have begun := beginWork_dispatched s.desk h.2.2.1
    have pkt : (beginWork s.desk c).pkt = c.pkt := by rw [begun]
    have run := lifecycleRun_token fresh h plain
    rw [← is_tok] at run
    have run := (exec_lifecycle s n).trans (congrArg (fun t => Host.Outcome.next (settle t)) run)
    have ended (status : Nat) : EndedAs { beginWork s.desk c with
        asked := 1, cache := [], stage := .ended, status := status, result := slice [] 0 28, limit := 0 } c status := by
      rw [begun]
      exact ⟨rfl, rfl, rfl, rfl, rfl, rfl⟩
    split
    · next holds =>
      obtain ⟨cur, ⟨lifecycle, count, sram, wiped, retired⟩, key⟩ := lifecycleToken_holds (s := s) (n := n)
        (c := { beginWork s.desk c with asked := 1, cache := [] }) (pkt.symm ▸ holds) (pkt.symm ▸ keys)
      refine ⟨_, _, run, settle_cur cur, ended stOk, ?_⟩
      rw [settle_sec, settle_trng]
      exact pkt ▸ ⟨lifecycle, count, sram, wiped, retired, key⟩
    · next fails =>
      have made := lifecycleToken_fails (s := s) (n := n) (c := { beginWork s.desk c with asked := 1, cache := [] }) (pkt.symm ▸ fails)
      rw [made] at run
      exact ⟨_, _, run, settle_cur (endWork_cur _ _ _ _ _ _), ended stBad, settle_sec _⟩

end Sys2Proof.Machine
end
section
/-!
SUPPORT. O58: commit points.
-/
namespace Sys2Proof.Machine

set_option Elab.async false in
theorem getD_of_lt {α : Type} {l : List α} {i : Nat} {z : α} (below : i < l.length) : l.getD i z = l[i] :=
  List.getD_eq_getElem?_getD.trans (congrArg (·.getD z) (List.getElem?_eq_getElem below))

/-! ## Completion queues -/

/-- Ports that wait for the same events, of partners in the same states. -/
def SamePartners (f g : Tab 4 Port) : Prop := ∀ p, (g.at p).events = (f.at p).events ∧ (g.at p).guest = (f.at p).guest

theorem SamePartners.refl (f : Tab 4 Port) : SamePartners f f := fun _ => ⟨rfl, rfl⟩

theorem SamePartners.trans {f g h : Tab 4 Port} (a : SamePartners f g) (b : SamePartners g h) : SamePartners f h :=
  fun p => ⟨(b p).1.trans (a p).1, (b p).2.trans (a p).2⟩

theorem SamePartners.put {f : Tab 4 Port} {p : Fin 4} {q : Port} (events : q.events = (f.at p).events) (guest : q.guest = (f.at p).guest) :
    SamePartners f (f.put p q) := fun i => by
  by_cases here : i = p
  · rw [here, Tab.at_put_same]
    exact ⟨events, guest⟩
  · rw [Tab.at_put_ne _ _ _ _ here]
    exact ⟨rfl, rfl⟩

theorem SamePartners.quiet {d e : Desk} (h : SamePartners d.ports e.ports) (quiet : PortsQuiet d) : PortsQuiet e := fun p => by
  rw [PortQuiet, (h p).1, (h p).2]
  exact quiet p

/-- What a completion queue's events change of Front Desk. -/
def Posted (d e : Desk) : Prop := ∃ cqs ports out, e = { d with cqs := cqs, ports := ports, out := out } ∧ SamePartners d.ports ports

theorem Posted.refl (d : Desk) : Posted d d := ⟨d.cqs, d.ports, d.out, rfl, SamePartners.refl _⟩

theorem Posted.trans {d e f : Desk} (h : Posted d e) (k : Posted e f) : Posted d f := by
  obtain ⟨_, _, _, rfl, same⟩ := h
  obtain ⟨cqs, ports, out, rfl, same'⟩ := k
  exact ⟨cqs, ports, out, rfl, same.trans same'⟩

theorem raiseMsix_posted (d : Desk) (p : Fin 4) (v : Nat) : Posted d (raiseMsix d p v) := by
  unfold raiseMsix
  simp only
  split
  · exact Posted.refl d
  · split
    · exact ⟨_, _, _, rfl, SamePartners.refl _⟩
    · exact ⟨_, _, _, rfl, SamePartners.put rfl rfl⟩

theorem hostStore_of_open {p : Port} {h : Nat} {bs : Bytes} {source : BitVec 2} (ok : transferOk p true h bs.length = true) :
    hostStore p h bs source = ({ p with host := cellWrites p.host h bs }, true) := if_pos ok

theorem hostStore_partner (p : Port) (h : Nat) (bs : Bytes) (source : BitVec 2) :
    (hostStore p h bs source).1.events = p.events ∧ (hostStore p h bs source).1.guest = p.guest := by
  unfold hostStore
  split <;> exact ⟨rfl, rfl⟩

/-- The queue after an entry that is written, with its place and its PHASE (R207). -/
def entered (c : Cq) : Cq := { c with
  tail := BitVec.ofNat 12 ((c.tail.toNat + 1) % 2 ^ c.log2.toNat)
  phase := if (c.tail.toNat + 1) % 2 ^ c.log2.toNat = 0 then !c.phase else c.phase }

/-- The port of a completion queue after the report of an entry, and whether its write passed. -/
def reportStored (d : Desk) (n : Fin 64) (report : Option Bytes) : Port × Bool :=
  match (if (d.cqs.at n).report then report else none) with
  | some r => hostStore (d.ports.at (queuePort n)) ((d.cqs.at n).rpt.toNat + 128 * (d.cqs.at n).tail.toNat) r 1
  | none => (d.ports.at (queuePort n), true)

/-- The same after the entry. -/
def entryStored (d : Desk) (n : Fin 64) (entry : Bytes) (report : Option Bytes) : Port × Bool :=
  if (reportStored d n report).2 then
    hostStore (reportStored d n report).1 ((d.cqs.at n).base.toNat + 64 * (d.cqs.at n).tail.toNat)
      (entryMarked entry (d.cqs.at n).phase (if (d.cqs.at n).report then report else none).isSome) 1
  else reportStored d n report

theorem cqWrite_eq (d : Desk) (n : Fin 64) (entry : Bytes) (report : Option Bytes) : cqWrite d n entry report =
    if (entryStored d n entry report).2 then
      if (d.cqs.at n).irq then
        raiseMsix { d with ports := d.ports.put (queuePort n) (entryStored d n entry report).1, cqs := d.cqs.put n (entered (d.cqs.at n)) }
          (queuePort n) (d.cqs.at n).vector.toNat
      else { d with ports := d.ports.put (queuePort n) (entryStored d n entry report).1, cqs := d.cqs.put n (entered (d.cqs.at n)) }
    else { d with
      ports := d.ports.put (queuePort n) (entryStored d n entry report).1
      cqs := d.cqs.put n { d.cqs.at n with enable := false, windowGone := true, waiting := [] } } := rfl

theorem entryStored_partner (d : Desk) (n : Fin 64) (entry : Bytes) (report : Option Bytes) :
    (entryStored d n entry report).1.events = (d.ports.at (queuePort n)).events ∧
    (entryStored d n entry report).1.guest = (d.ports.at (queuePort n)).guest := by
  have reported : (reportStored d n report).1.events = (d.ports.at (queuePort n)).events ∧
      (reportStored d n report).1.guest = (d.ports.at (queuePort n)).guest := by
    unfold reportStored
    split
    · exact hostStore_partner _ _ _ _
    · exact ⟨rfl, rfl⟩
  unfold entryStored
  split
  · obtain ⟨events, guest⟩ := hostStore_partner (reportStored d n report).1
      ((d.cqs.at n).base.toNat + 64 * (d.cqs.at n).tail.toNat)
      (entryMarked entry (d.cqs.at n).phase (if (d.cqs.at n).report then report else none).isSome) 1
    exact ⟨events.trans reported.1, guest.trans reported.2⟩
  · exact reported

theorem cqWrite_posted (d : Desk) (n : Fin 64) (entry : Bytes) (report : Option Bytes) : Posted d (cqWrite d n entry report) := by
  obtain ⟨events, guest⟩ := entryStored_partner d n entry report
  rw [cqWrite_eq]
  split
  · split
    · exact Posted.trans ⟨_, _, _, rfl, SamePartners.put events guest⟩ (raiseMsix_posted _ _ _)
    · exact ⟨_, _, _, rfl, SamePartners.put events guest⟩
  · exact ⟨_, _, _, rfl, SamePartners.put events guest⟩

theorem cqPost_posted (d : Desk) (n : Fin 64) (entry : Bytes) (report : Option Bytes) : Posted d (cqPost d n entry report) := by
  unfold cqPost
  simp only
  split
  · exact Posted.refl d
  · split
    · exact ⟨_, _, _, rfl, SamePartners.refl _⟩
    · exact cqWrite_posted d n entry report

/-- An entry of a queue that takes neither reports nor interrupts, with room and its window open. -/
theorem cqPost_written {d : Desk} {k : Fin 64} {entry : Bytes} {report : Option Bytes} (on : (d.cqs.at k).enable = true)
    (room : cqFull (d.cqs.at k) = false) (none : (d.cqs.at k).waiting = []) (plain : (d.cqs.at k).report = false)
    (silent : (d.cqs.at k).irq = false)
    (window : transferOk (d.ports.at (queuePort k)) true ((d.cqs.at k).base.toNat + 64 * (d.cqs.at k).tail.toNat) 64 = true)
    (len : (entryMarked entry (d.cqs.at k).phase false).length = 64) : cqPost d k entry report = { d with
      ports := d.ports.put (queuePort k) { d.ports.at (queuePort k) with
        host := cellWrites (d.ports.at (queuePort k)).host ((d.cqs.at k).base.toNat + 64 * (d.cqs.at k).tail.toNat)
          (entryMarked entry (d.cqs.at k).phase false) }
      cqs := d.cqs.put k (entered (d.cqs.at k)) } := by
  have open_ : (d.ports.at (queuePort k)).open_ = true := by
    unfold transferOk hostOpen at window
    simp only [Bool.and_eq_true] at window
    exact window.1.2
  have stored : entryStored d k entry report = ({ d.ports.at (queuePort k) with
      host := cellWrites (d.ports.at (queuePort k)).host ((d.cqs.at k).base.toNat + 64 * (d.cqs.at k).tail.toNat)
        (entryMarked entry (d.cqs.at k).phase false) }, true) := by
    unfold entryStored reportStored
    simp only [plain, Bool.false_eq_true, if_false, if_true, Option.isSome_none]
    exact hostStore_of_open (len.symm ▸ window)
  unfold cqPost
  simp only [on, open_, room, none, Bool.not_true, Bool.or_self, List.isEmpty_nil, Bool.false_eq_true, if_false]
  rw [cqWrite_eq, stored, if_pos rfl, silent, if_neg Bool.false_ne_true]

/-! ## Entries -/

/-- The flags of an entry before PHASE and REPORT. -/
def entryFlags (c : Cmd) : Nat := (if c.accLong then 2 else 0) + (if c.depError then 8 else 0) +
  (if pktSignal c.pkt && statusErr c.status then 16 else 0) + (if c.stopWp then 32 else 0)

theorem entryFlags_even (c : Cmd) : entryFlags c % 2 = 0 ∧ entryFlags c < 256 := by
  unfold entryFlags
  split <;> split <;> split <;> split <;> decide

/-- An entry by its fields (Table 9.17). -/
theorem entryBytes_fields (d : Desk) (n : Fin 64) {c : Cmd} (own : c.launch = none) : ∃ head waited taken ran : Nat, entryBytes d n c =
    BitVec.ofNat 8 c.status :: BitVec.ofNat 8 c.stopReason :: BitVec.ofNat 8 c.limit :: BitVec.ofNat 8 (entryFlags c) ::
    BitVec.ofNat 8 n.val :: 0 :: (leBytes 2 head ++ leBytes 2 (pktQtag c.pkt) ++ [0, 0] ++ leBytes 4 (pktPseq c.pkt) ++
      leBytes 8 c.digest.toNat ++ leBytes 4 waited ++ leBytes 4 taken ++ leBytes 4 ran ++ slice c.result 0 28) := by
  refine ⟨(d.sqs.at n).head.toNat, min ((c.dispatchedAt - c.visibleAt) / 1000) 0xFFFFFFFF,
    min ((if c.began then c.startedAt else d.now) - c.dispatchedAt) 0xFFFFFFFF,
    if c.began then min ((d.now - c.startedAt) / 1000) 0xFFFFFFFF else 0, ?_⟩
  unfold entryBytes
  rw [own]
  rfl

/-- What a completion entry reads (Table 9.17). -/
def EntryOf (e : Bytes) (n : Fin 64) (c : Cmd) (phase : Bool) : Prop :=
  e.length = 64 ∧ e.getD 0 0 = BitVec.ofNat 8 c.status ∧ e.getD 1 0 = BitVec.ofNat 8 c.stopReason ∧
  e.getD 2 0 = BitVec.ofNat 8 c.limit ∧ (e.getD 3 0).getLsbD 0 = phase ∧ e.getD 4 0 = BitVec.ofNat 8 n.val ∧
  slice e 8 2 = leBytes 2 (pktQtag c.pkt) ∧ slice e 10 2 = [0, 0] ∧ slice e 12 4 = leBytes 4 (pktPseq c.pkt) ∧
  slice e 16 8 = leBytes 8 c.digest.toNat ∧ slice e 36 28 = slice c.result 0 28

theorem flags_phase {f : Nat} (even : f % 2 = 0) (phase : Bool) :
    (BitVec.ofNat 8 f ||| (if phase then 1 else 0) ||| (if false then 4 else 0)).getLsbD 0 = phase := by
  have low : (BitVec.ofNat 8 f).getLsbD 0 = false := by
    rw [BitVec.getLsbD_ofNat, Nat.testBit_zero, even]
    rfl
  rw [BitVec.getLsbD_or, BitVec.getLsbD_or, low]
  cases phase <;> rfl

/-- A slice of its own length is the bytes. -/
theorem slice_all {r : Bytes} {n : Nat} (len : r.length = n) : slice r 0 n = r := by
  unfold slice
  rw [List.drop_zero, List.take_of_length_le (by omega)]
  show r ++ List.replicate (n - r.length) 0 = r
  rw [len, Nat.sub_self]
  exact List.append_nil r

theorem entryMarked_of (d : Desk) (n : Fin 64) {c : Cmd} (own : c.launch = none) (phase : Bool) :
    EntryOf (entryMarked (entryBytes d n c) phase false) n c phase := by
  obtain ⟨head, waited, taken, ran, fields⟩ := entryBytes_fields d n own
  have phased := flags_phase (entryFlags_even c).1 phase
  have len := slice_length c.result 0 28
  unfold EntryOf
  rw [fields]
  unfold entryMarked
  generalize BitVec.ofNat 8 (entryFlags c) = flags at phased
  generalize slice c.result 0 28 = result at len
  refine ⟨?_, rfl, rfl, rfl, phased, rfl, rfl, rfl, rfl, rfl, ?_⟩
  · simp [le_length, len]
  · exact slice_all len

/-! ## Ledger records -/

/-- The Ledger after the records of a completion. -/
theorem commitRecords_ledger (d : Desk) (n : Fin 64) (c : Cmd) : ∃ ledger, commitRecords d n c = { d with ledger := ledger } := by
  unfold commitRecords
  simp only
  generalize ran : runBody d c = body
  generalize made : commitBody d c = problem
  split
  case h_2 => exact ⟨d.ledger, rfl⟩
  case h_1 o _ =>
    obtain ⟨l, broken⟩ : ∃ l, (if (c.status == stTiming) = true then
        eventRecord d (if opNamesSlot o then (pktSlot c.pkt).val else 0xFF) n.val (pktQtag c.pkt) (pktPseq c.pkt) 4 0xFFFFFFFF
          (if opRun o && c.began then annStep (d.slots.at (pktSlot c.pkt)).ann else 0) 0
      else d) = { d with ledger := l } := by
      split
      · exact ⟨_, rfl⟩
      · exact ⟨d.ledger, rfl⟩
    rw [broken]
    split
    · exact ⟨_, rfl⟩
    · split
      · exact ⟨_, rfl⟩
      · split
        · exact ⟨_, rfl⟩
        · exact ⟨l, rfl⟩

/-- A command that names no slot records a mark alone, where it is one that ended OK (R200). -/
theorem commitRecords_head {d : Desk} {n : Fin 64} {c : Cmd} {o : Op} (op : pktOp c.pkt = some o) (names : opNamesSlot o = false)
    (timed : c.status ≠ stTiming) :
    (commitRecords d n c).ledger.head = d.ledger.head + if o = .ledgerMark ∧ c.status = stOk then 1 else 0 := by
  have run : opRun o = false := opRun_names names
  have commit : (o == .commitProblem || o == .coupleOut) = false := by
    rw [Bool.or_eq_false_iff, beq_eq_false_iff_ne, beq_eq_false_iff_ne]
    refine ⟨?_, ?_⟩ <;>
    · rintro rfl
      exact absurd names nofun
  unfold commitRecords
  rw [op]
  simp only [beq_eq_false_iff_ne.mpr timed, run, commit, Bool.false_eq_true, if_false]
  by_cases mark : o = .ledgerMark ∧ c.status = stOk
  · rw [if_pos mark, if_pos (by rw [mark.1, mark.2]; rfl)]
    rfl
  · rw [if_neg mark, if_neg (by simpa using mark)]
    rfl

/-- A run or a commit makes its record (R199, R200). -/
theorem commitRecords_recorded {d : Desk} {n : Fin 64} {c : Cmd} {o : Op} (op : pktOp c.pkt = some o)
    (kind : opRun o = true ∨ o = .commitProblem ∨ o = .coupleOut) (timed : c.status ≠ stTiming) :
    (commitRecords d n c).ledger.head = d.ledger.head + 1 ∧
    ((commitRecords d n c).ledger.ring.at (fin 256 d.ledger.head)).getD 8 0 = (if opRun o = true then 1 else 3) ∧
    ((commitRecords d n c).ledger.ring.at (fin 256 d.ledger.head)).getD 9 0 = BitVec.ofNat 8 (pktSlot c.pkt).val := by
  have wrote (type : Nat) (body : Bytes) :
      let e := ledgerWrite d type (pktSlot c.pkt).val n.val c.status (pktQtag c.pkt) (pktPseq c.pkt) body
      e.ledger.head = d.ledger.head + 1 ∧ (e.ledger.ring.at (fin 256 d.ledger.head)).getD 8 0 = BitVec.ofNat 8 type ∧
      (e.ledger.ring.at (fin 256 d.ledger.head)).getD 9 0 = BitVec.ofNat 8 (pktSlot c.pkt).val := by
    refine ⟨rfl, ?_, ?_⟩ <;>
    · show (((d.ledger.ring.put (fin 256 d.ledger.head) _).at _).getD _ 0) = _
      rw [Tab.at_put_same]
      rfl
  unfold commitRecords
  rw [op]
  simp only [beq_eq_false_iff_ne.mpr timed, Bool.false_eq_true, if_false]
  cases run : opRun o with
  | true =>
    simp only [if_true]
    exact wrote 1 _
  | false =>
    have commit : (o == .commitProblem || o == .coupleOut) = true := by
      obtain yes | rfl | rfl := kind
      · exact absurd (run.symm.trans yes) nofun
      · rfl
      · rfl
    simp only [commit, Bool.false_eq_true, if_false, if_true]
    exact wrote 3 _

/-! ## Commit points -/

theorem passEarly_idle (fuel : Nat) (q : Sq) : (passEarly fuel q).launch = q.launch := by
  induction fuel generalizing q with
  | zero => rfl
  | succ fuel ih =>
    unfold passEarly
    split
    · rw [ih]
    · rfl

/-- The head passes a command that is there, with none behind it done before its time. -/
theorem passIndex_head {q : Sq} {i : BitVec 12} (empty : q.early = []) (head : q.head = i) :
    passIndex q i = { q with
      visible := q.visible.filter fun v => v.1 != i
      head := BitVec.ofNat 12 ((i.toNat + 1) % q.len) } := by
  subst head
  unfold passIndex
  rw [empty]
  simp [passEarly, Sq.len]

/-- The fences after the signal of a completion. -/
def fencesAfter (d : Desk) (c : Cmd) : Tab 256 Fence :=
  if pktSignal c.pkt then (fenceSignal d (pktSignalFence c.pkt) (statusErr c.status)).fences else d.fences

/-- Front Desk once a command has signalled and its head has passed. -/
def passed (d : Desk) (n : Fin 64) (c : Cmd) : Desk :=
  { d with fences := fencesAfter d c, sqs := d.sqs.upd n fun q => passIndex q c.index }

/-- The count of lost bytes after a completion. -/
def lostAfter (d : Desk) (c : Cmd) : Nat := if c.status = stDataLost then satAdd 32 d.errs.dataLost 1 else d.errs.dataLost

/-- `passed` with the loss counted. -/
def noted (d : Desk) (n : Fin 64) (c : Cmd) : Desk := { passed d n c with errs := { d.errs with dataLost := lostAfter d c } }

theorem commitCore_own (d : Desk) (n : Fin 64) {c : Cmd} (own : c.launch = none) : commitCore d n c =
    commitRecords (cqPost (noted d n c) (fin 64 (d.sqs.at n).cq.toNat) (entryBytes (passed d n c) n c) c.report) n c := by
  have signalled : (if pktSignal c.pkt then fenceSignal d (pktSignalFence c.pkt) (statusErr c.status) else d) =
      { d with fences := fencesAfter d c } := by
    unfold fencesAfter
    split <;> rfl
  have lost : (if (c.status == stDataLost) = true then { passed d n c with
        errs := { (passed d n c).errs with dataLost := satAdd 32 (passed d n c).errs.dataLost 1 } } else passed d n c) = noted d n c := by
    unfold noted lostAfter
    by_cases data : c.status = stDataLost
    · rw [if_pos data, if_pos (beq_iff_eq.mpr data)]
      rfl
    · rw [if_neg data, if_neg (by simpa using data)]
      rfl
  unfold commitCore
  simp only [own, Option.isNone_none, if_true]
  rw [signalled]
  exact congrArg (fun d3 => commitRecords (cqPost d3 _ _ _) n c) lost

/-- A completion changes the rings, the ports, what goes out, the Ledger, the fences, its queue's head and the count of losses. -/
theorem commitCore_posted (d : Desk) (n : Fin 64) {c : Cmd} (own : c.launch = none) : ∃ cqs ports out ledger,
    commitCore d n c = { noted d n c with cqs := cqs, ports := ports, out := out, ledger := ledger } ∧ SamePartners d.ports ports := by
  rw [commitCore_own d n own]
  obtain ⟨cqs, ports, out, posted, same⟩ := cqPost_posted (noted d n c) (fin 64 (d.sqs.at n).cq.toNat) (entryBytes (passed d n c) n c) c.report
  obtain ⟨ledger, records⟩ := commitRecords_ledger
    (cqPost (noted d n c) (fin 64 (d.sqs.at n).cq.toNat) (entryBytes (passed d n c) n c) c.report) n c
  refine ⟨cqs, ports, out, ledger, ?_, same⟩
  rw [records, posted]

theorem commitCmd_alone {d : Desk} (n : Fin 64) {c : Cmd} (own : c.launch = none) (idle : d.aborts = []) : commitCmd d n c = commitCore d n c := by
  obtain ⟨cqs, ports, out, ledger, made, -⟩ := commitCore_posted d n own
  have still : (commitCore d n c).aborts = [] := by
    rw [made]
    exact idle
  generalize made : commitCore d n c = e at still
  unfold commitCmd
  rw [made]
  show commitAborts e.aborts.length { e with aborts := e.aborts.map (noteCommit n c) } = e
  rw [still]
  show { e with aborts := [] } = e
  rw [← still]

/-- What a completion does to the slot its command uses, and to a drain. -/
def given (x : Desk) (n : Fin 64) (c : Cmd) : Desk :=
  match pktOp c.pkt with
  | some o =>
    let y := if opMgmt o then { x with drain := false } else x
    if opNamesSlot o && (y.slots.at (cmdSlot c)).user == some n then
      updSlot y (cmdSlot c) fun s => { s with user := none }
    else y
  | none => x

theorem given_eq (x : Desk) (n : Fin 64) (c : Cmd) : ∃ slots drain, given x n c = { x with slots := slots, drain := drain } := by
  unfold given
  split
  case h_2 => exact ⟨x.slots, x.drain, rfl⟩
  case h_1 o _ =>
    obtain ⟨b, drained⟩ : ∃ b, (if opMgmt o then { x with drain := false } else x) = { x with drain := b } := by
      split
      · exact ⟨false, rfl⟩
      · exact ⟨x.drain, rfl⟩
    rw [drained]
    simp only
    split
    · exact ⟨_, b, rfl⟩
    · exact ⟨x.slots, b, rfl⟩

theorem retire_eq (d : Desk) (n : Fin 64) (c : Cmd) : retire d n c = releaseIdle (endLaunch { given { commitCmd d n c with
    sqs := (commitCmd d n c).sqs.upd n (queueAfter d.now
      (match c.launch with | some i => ((commitCmd d n c).itins.at i).packets.length | none => 0) c) } n c with
    deadlockSince := none } n) n := rfl

theorem queueAfter_idle (now count : Nat) {c : Cmd} (own : c.launch = none) (q : Sq) :
    (queueAfter now count c q).launch = q.launch ∧ (queueAfter now count c q).head = q.head ∧
    (q.pre = none → (queueAfter now count c q).cur = none) := by
  unfold queueAfter
  rw [own]
  cases q.pre with
  | none => exact ⟨rfl, rfl, fun _ => rfl⟩
  | some x => exact ⟨rfl, rfl, nofun⟩

theorem endLaunch_idle {d : Desk} {n : Fin 64} (idle : (d.sqs.at n).launch = none) : endLaunch d n = d := by
  unfold endLaunch
  simp only [idle]

/-- Retiring a command on which no ABORT and no launch waits: its queue, slots and the end of a drain, after the completion. -/
theorem retire_alone {d : Desk} {n : Fin 64} {c : Cmd} (own : c.launch = none) (alone : d.aborts = []) (idle : (d.sqs.at n).launch = none) :
    ∃ a slots drain, retire d n c = { commitCore d n c with
      sqs := (commitCore d n c).sqs.upd n fun q => { queueAfter d.now 0 c q with allot := a }
      slots := slots, drain := drain, deadlockSince := none } := by
  have unlaunched : ((commitCore d n c).sqs.at n).launch = none := by
    obtain ⟨cqs, ports, out, ledger, made, -⟩ := commitCore_posted d n own
    rw [made]
    show ((d.sqs.upd n fun q => passIndex q c.index).at n).launch = none
    rw [Tab.at_upd_same]
    exact (passEarly_idle _ _).trans idle
  rw [retire_eq, commitCmd_alone n own alone, own]
  generalize commitCore d n c = e at unlaunched
  obtain ⟨slots, drain, shown⟩ := given_eq { e with sqs := e.sqs.upd n (queueAfter d.now 0 c) } n c
  simp only
  rw [shown, endLaunch_idle (by
    show ((e.sqs.upd n (queueAfter d.now 0 c)).at n).launch = none
    rw [Tab.at_upd_same, (queueAfter_idle d.now 0 own _).1, unlaunched])]
  obtain ⟨a, released⟩ := releaseIdle_at { e with
    sqs := e.sqs.upd n (queueAfter d.now 0 c), slots := slots, drain := drain, deadlockSince := none } n
  refine ⟨a, slots, drain, released.trans ?_⟩
  show { e with sqs := (e.sqs.upd n (queueAfter d.now 0 c)).upd n fun q => { q with allot := a }, slots := slots, drain := drain, deadlockSince := none } = _
  rw [upd_upd]
  rfl

/-- The Desk after a commit point, but for the queues, slots and tiles. -/
theorem commitPoint_posted {e : Env} {d : Desk} {n : Fin 64} {c : Cmd} {o : Op} (cur : (d.sqs.at n).cur = some c) (ended : c.stage = .ended)
    (local_ : c.remote = []) (own : c.launch = none) (op : pktOp c.pkt = some o) (other : o ≠ .query) (alone : d.aborts = [])
    (idle : (d.sqs.at n).launch = none) : ∃ a slots drain tiles, deskCommitPoint e d n = { commitCore d n c with
      sqs := (commitCore d n c).sqs.upd n fun q => { queueAfter d.now 0 c q with allot := a }
      slots := slots, drain := drain, deadlockSince := none, tiles := tiles } := by
  have at_ : endedAt d n = some c := by
    unfold endedAt
    rw [cur, Option.filter_some_pos (by rw [ended, local_]; rfl)]
  obtain ⟨a, slots, drain, retired⟩ := retire_alone own alone idle
  have reaped := reapSlots_slots (retire d n c)
  have plain : (pktOp c.pkt == some .query && c.status == stOk) = false := by
    rw [op, Bool.and_eq_false_iff]
    exact .inl (beq_eq_false_iff_ne.mpr (by simpa using other))
  refine ⟨a, (reapSlots (retire d n c)).slots, drain, (reapSlots (retire d n c)).tiles, ?_⟩
  unfold deskCommitPoint
  simp only [at_, plain, Bool.false_eq_true, if_false]
  generalize reapSlots (retire d n c) = f at reaped
  rw [OnlySlots, retired] at reaped
  exact reaped

theorem commitPoint_awake {s : State} (awake : Awake s) {n : Fin 64} {e : Desk} (made : deskCommitPoint (envOf s) s.desk n = e)
    (quiet : PortsQuiet e) : exec (.commitPoint n) s = .next (settle { s with desk := e }) := by
  have quiet' : PortsQuiet { s with desk := e }.desk := quiet
  refine congrArg Host.Outcome.next ((if_pos (deskAwake_iff.mpr awake)).trans ?_)
  rw [made, servePorts_of_quiet quiet']

/-- A command whose work or writes are not done has no commit point. -/
theorem deskCommitPoint_early {e : Env} {d : Desk} {n : Fin 64} {c : Cmd} (cur : (d.sqs.at n).cur = some c)
    (early : c.stage ≠ .ended ∨ c.remote ≠ []) : deskCommitPoint e d n = d := by
  have none : endedAt d n = none := by
    unfold endedAt
    rw [cur, Option.filter_some_neg]
    rw [Bool.and_eq_false_iff]
    exact early.imp (fun h => by simpa using h) fun h => by simpa using h
  unfold deskCommitPoint
  rw [none]

theorem fencesAfter_at (d : Desk) (c : Cmd) (f : Fin 256) : (fencesAfter d c).at f =
    (if pktSignal c.pkt = true ∧ f = fin 256 (pktSignalFence c.pkt) then
      { d.fences.at f with
        value := BitVec.ofNat 64 (min ((d.fences.at f).value.toNat + 1) (2 ^ 64 - 1))
        err := (d.fences.at f).err || statusErr c.status } else d.fences.at f) := by
  unfold fencesAfter
  by_cases signal : pktSignal c.pkt = true
  · rw [if_pos signal]
    by_cases at_ : f = fin 256 (pktSignalFence c.pkt)
    · subst at_
      rw [if_pos ⟨signal, rfl⟩]
      show (d.fences.upd _ _).at _ = _
      rw [Tab.at_upd_same]
      have below := (d.fences.at (fin 256 (pktSignalFence c.pkt))).value.isLt
      have rises : max (d.fences.at (fin 256 (pktSignalFence c.pkt))).value.toNat
          (min ((d.fences.at (fin 256 (pktSignalFence c.pkt))).value.toNat + 1) (2 ^ 64 - 1)) =
          min ((d.fences.at (fin 256 (pktSignalFence c.pkt))).value.toNat + 1) (2 ^ 64 - 1) := by omega
      simp only [fenceTo, rises]
    · rw [if_neg (fun h => at_ h.2)]
      exact Tab.at_upd_ne _ _ _ _ at_
  · rw [if_neg signal, if_neg (fun h => signal h.1)]

/-- A commit point that is there goes on to what follows it. -/
theorem commitPoint_settled {s : State} (awake : Awake s) (quiet : PortsQuiet s.desk) {n : Fin 64} {c : Cmd} {o : Op}
    (cur : (s.desk.sqs.at n).cur = some c) (ended : c.stage = .ended) (local_ : c.remote = []) (own : c.launch = none)
    (op : pktOp c.pkt = some o) (other : o ≠ .query) (alone : s.desk.aborts = []) (idle : (s.desk.sqs.at n).launch = none) :
    ∃ a slots drain tiles, exec (.commitPoint n) s = .next (settle { s with desk := { commitCore s.desk n c with
      sqs := (commitCore s.desk n c).sqs.upd n fun q => { queueAfter s.desk.now 0 c q with allot := a }
      slots := slots, drain := drain, deadlockSince := none, tiles := tiles } }) := by
  obtain ⟨a, slots, drain, tiles, made⟩ := commitPoint_posted (e := envOf s) cur ended local_ own op other alone idle
  refine ⟨a, slots, drain, tiles, commitPoint_awake awake made ?_⟩
  obtain ⟨cqs, ports, out, ledger, core, same⟩ := commitCore_posted s.desk n own
  rw [core]
  exact same.quiet quiet

/-- The completion of a command that names no slot, into a ring that takes its entry as it is. -/
theorem commitCore_written {d : Desk} {n : Fin 64} {c : Cmd} {o : Op} {k : Fin 64} (own : c.launch = none)
    (op : pktOp c.pkt = some o) (names : opNamesSlot o = false) (timed : c.status ≠ stTiming)
    (at_ : fin 64 (d.sqs.at n).cq.toNat = k) (on : (d.cqs.at k).enable = true) (room : cqFull (d.cqs.at k) = false)
    (empty : (d.cqs.at k).waiting = []) (plain : (d.cqs.at k).report = false) (silent : (d.cqs.at k).irq = false)
    (window : transferOk (d.ports.at (queuePort k)) true ((d.cqs.at k).base.toNat + 64 * (d.cqs.at k).tail.toNat) 64 = true)
    (len : (entryMarked (entryBytes (passed d n c) n c) (d.cqs.at k).phase false).length = 64) : ∃ l, commitCore d n c = { noted d n c with
      ports := d.ports.put (queuePort k) { d.ports.at (queuePort k) with
        host := cellWrites (d.ports.at (queuePort k)).host ((d.cqs.at k).base.toNat + 64 * (d.cqs.at k).tail.toNat)
          (entryMarked (entryBytes (passed d n c) n c) (d.cqs.at k).phase false) }
      cqs := d.cqs.put k (entered (d.cqs.at k)), ledger := l } ∧
      l.head = d.ledger.head + if o = .ledgerMark ∧ c.status = stOk then 1 else 0 := by
  have written := cqPost_written (d := noted d n c) (k := k) (report := c.report) on room empty plain silent window len
  have core := commitCore_own d n own
  rw [at_, written] at core
  refine ⟨(commitCore d n c).ledger, ?_, ?_⟩
  · rw [core]
    obtain ⟨l, recorded⟩ := commitRecords_ledger { noted d n c with
      ports := d.ports.put (queuePort k) { d.ports.at (queuePort k) with
        host := cellWrites (d.ports.at (queuePort k)).host ((d.cqs.at k).base.toNat + 64 * (d.cqs.at k).tail.toNat)
          (entryMarked (entryBytes (passed d n c) n c) (d.cqs.at k).phase false) }
      cqs := d.cqs.put k (entered (d.cqs.at k)) } n c
    refine Eq.trans recorded ?_
    rw [show l = _ from congrArg Desk.ledger recorded.symm]
    rfl
  · rw [core]
    exact commitRecords_head op names timed

/-- Settles O58, by the completion as its signal, its entry and its records, each of which leaves the others' parts. -/
theorem commitPointsComplete : Obligations.CommitPointsComplete := by
  unfold Obligations.CommitPointsComplete
  intro s n c k q p awake cur at_ is_q is_p quiet
  refine ⟨?early, ?whole, ?recorded⟩
  case early =>
    intro early
    exact commitPoint_awake awake (deskCommitPoint_early cur early) quiet
  case whole =>
    intro o ended local_ own op other names empty head pre idle alone on room none plain silent _ window timed
    obtain ⟨a, slots, drain, tiles, made⟩ := commitPoint_settled awake quiet cur ended local_ own op other alone idle
    have entry := entryMarked_of (passed s.desk n c) n own q.phase
    subst is_q is_p at_
    obtain ⟨l, core, records⟩ := commitCore_written own op names timed rfl on room none plain silent window entry.1
    rw [core] at made
    refine ⟨_, made, ?_⟩
    rw [settle_desk_eq]
    generalize entryMarked (entryBytes (passed s.desk n c) n c) (s.desk.cqs.at (fin 64 (s.desk.sqs.at n).cq.toNat)).phase false = e at entry
    have queue : (((s.desk.sqs.upd n fun q => passIndex q c.index).upd n fun q => { queueAfter s.desk.now 0 c q with allot := a }).at n) =
        { queueAfter s.desk.now 0 c (passIndex (s.desk.sqs.at n) c.index) with allot := a } := by
      rw [Tab.at_upd_same, Tab.at_upd_same]
    have passing := passIndex_head empty head
    obtain ⟨-, head', done⟩ := queueAfter_idle s.desk.now 0 own (passIndex (s.desk.sqs.at n) c.index)
    rw [passing] at head' done
    obtain ⟨len, fields⟩ := entry
    refine ⟨?_, ?_, fun f => ?_, ⟨e, len, ?_⟩, ?_, ?_, records, rfl, rfl⟩
    · show (((s.desk.sqs.upd n fun q => passIndex q c.index).upd n fun q => { queueAfter s.desk.now 0 c q with allot := a }).at n).cur = _
      rw [queue, passing]
      exact done pre
    · show (((s.desk.sqs.upd n fun q => passIndex q c.index).upd n fun q => { queueAfter s.desk.now 0 c q with allot := a }).at n).head = _
      rw [queue, passing]
      exact head'
    · exact fencesAfter_at s.desk c f
    · obtain ⟨status, reason, limit, flag, sq, qtag, zero, pseq, digest, result⟩ := fields
      refine ⟨status, reason, limit, flag, sq, qtag, zero, pseq, digest, result, fun i below => ?_⟩
      show cellRead ((s.desk.ports.put _ _).at _).host _ = _
      rw [Tab.at_put_same]
      have here := cellRead_writes_same (s.desk.ports.at (queuePort (fin 64 (s.desk.sqs.at n).cq.toNat))).host
        ((s.desk.cqs.at (fin 64 (s.desk.sqs.at n).cq.toNat)).base.toNat +
          64 * (s.desk.cqs.at (fin 64 (s.desk.sqs.at n).cq.toNat)).tail.toNat) e i (by omega)
      exact here.trans (getD_of_lt _).symm
    · show ((s.desk.cqs.put _ _).at _).tail = _
      rw [Tab.at_put_same]
      rfl
    · show ((s.desk.cqs.put _ _).at _).phase = _
      rw [Tab.at_put_same]
      rfl
  case recorded =>
    intro o ended local_ own op kind timed alone idle
    have other : o ≠ .query := by
      rintro rfl
      obtain h | h | h := kind <;> exact absurd h nofun
    obtain ⟨a, slots, drain, tiles, made⟩ := commitPoint_settled awake quiet cur ended local_ own op other alone idle
    refine ⟨_, made, ?_⟩
    rw [(settle_desk_rest _).2.2.2.2.2.2.2.2]
    show (commitCore s.desk n c).ledger.head = _ ∧ ((commitCore s.desk n c).ledger.ring.at _).getD 8 0 = _ ∧
      ((commitCore s.desk n c).ledger.ring.at _).getD 9 0 = _
    rw [commitCore_own s.desk n own]
    have kept : (cqPost (noted s.desk n c) (fin 64 (s.desk.sqs.at n).cq.toNat) (entryBytes (passed s.desk n c) n c) c.report).ledger =
        s.desk.ledger := by
      obtain ⟨cqs, ports, out, posted, -⟩ := cqPost_posted (noted s.desk n c) (fin 64 (s.desk.sqs.at n).cq.toNat)
        (entryBytes (passed s.desk n c) n c) c.report
      rw [posted]
      rfl
    have facts := commitRecords_recorded (d := cqPost (noted s.desk n c) (fin 64 (s.desk.sqs.at n).cq.toNat)
      (entryBytes (passed s.desk n c) n c) c.report) (n := n) op kind timed
    rw [kept] at facts
    exact facts

end Sys2Proof.Machine
end

section
/-! SUPPORT. The beginning of a run: what it reads, the state it starts from, and the slot it works on. -/
namespace Sys2Proof.Machine

/-! ## What a run reads as it begins -/

set_option Elab.async false in
/-- Sound ranges of the module's own memory are read as they stand. -/
theorem readRanges_plain {s : State} {d : Desk} {rs : List (Nat × Nat)} (plain : ∀ r ∈ rs, PlainSpan s r.1 r.2) (mem : d.mem = s.desk.mem)
    (n : Fin 64) (c : Cmd) :
    readRanges (envOf s) d n c rs = (d, rs.map fun r => cellReads d.mem.cells (addrDevice r.1) r.2, none) := by
  have step : ∀ got : List Bytes, rs.foldl (fun (x : Desk × List Bytes × Option Stop) r =>
      if x.2.2.isSome then x
      else
        let a := readRange (envOf s) x.1 n c.cache r.1 r.2
        (a.desk, x.2.1 ++ [a.bytes], a.fail)) (d, got, none) =
      (d, got ++ rs.map fun r => cellReads d.mem.cells (addrDevice r.1) r.2, none) := by
    induction rs with
    | nil => intro got; simp only [List.foldl_nil, List.map_nil, List.append_nil]
    | cons r rs ih =>
      intro got
      rw [List.foldl_cons]
      simp only [Option.isSome_none, Bool.false_eq_true, if_false]
      rw [readRange_plain (plain r (List.mem_cons_self)) mem, ih fun r mem => plain r (List.mem_cons_of_mem _ mem),
        List.map_cons, List.append_assoc]
      rfl
  exact step []

theorem readsOut_local {c : Cmd} (local_ : c.remote = []) : readsOut c = false := by
  unfold readsOut
  rw [local_]
  rfl

theorem staleTiles_held {d : Desk} {c : Cmd} (held : TilesHold d c) : staleTiles d c = [] := by
  refine List.filter_eq_nil_iff.mpr fun t mem => ?_
  have below : t < c.tiles.length := List.mem_range.mp mem
  have here := held (c.tiles.getD t 0) (by
    rw [getD_of_lt below]
    exact List.getElem_mem below)
  have same : tileHolds d (some (cmdSlot c)) (c.tiles.getD t 0) = true := here
  rw [same]
  exact nofun

/-- A command whose tiles hold its slot reloads none. -/
theorem reloadTiles_held {d : Desk} {c : Cmd} (held : TilesHold d c) (n : Fin 64) (g : Image) : reloadTiles d n c g = ⟨d, c, g, false⟩ := by
  unfold reloadTiles
  simp only [staleTiles_held held, List.isEmpty_nil, if_true]

/-! ## What the beginning of a run leaves -/

/-- Only what the tiles hold changes. -/
def OnlyTiles (d e : Desk) : Prop := e = { d with tiles := e.tiles }

theorem OnlyTiles.trans {d e f : Desk} (h : OnlyTiles d e) (k : OnlyTiles e f) : OnlyTiles d f := by
  rw [OnlyTiles] at *
  rw [k, h]

theorem OnlyTiles.foldl {α : Type} {f : Desk → α → Desk} (h : ∀ d x, OnlyTiles d (f d x)) (l : List α) (d : Desk) :
    OnlyTiles d (l.foldl f d) := by
  induction l generalizing d with
  | nil => rfl
  | cons x l ih => exact (h d x).trans (ih (f d x))

theorem holdTile_tiles (d : Desk) (l : Nat) (h : Option Held) (groups : Tab 4 GroupReg) : OnlyTiles d (holdTile d l h groups) := rfl

theorem updUnit_tiles (d : Desk) (l : Nat) (f : TileUnit → TileUnit) : OnlyTiles d (updUnit d l f) := rfl

theorem takeTiles_tiles (d : Desk) (tiles : List Nat) (slot : Option (Fin 64)) : OnlyTiles d (takeTiles d tiles slot) :=
  OnlyTiles.foldl (fun d _ => holdTile_tiles d _ _ _) _ d

theorem openGroup_tiles (d : Desk) (c : Cmd) (g : Image) (a : Ann) : OnlyTiles d (openGroup d c g a) := by
  unfold openGroup
  split
  · exact OnlyTiles.foldl (fun d _ => updUnit_tiles d _ _) _ d
  · rfl

/-- A job of one rank sends its ranks nothing. -/
theorem toRanks_alone (e : Env) {g : Image} (alone : g.m = 1) (first : g.rank = 0) (cls rtype : Nat) (body : Bytes) :
    toRanks e g cls rtype body = [] := by
  unfold toRanks
  rw [alone, first]
  rfl

theorem releaseHeld_alone {e : Env} {d : Desk} {i : Fin 64} (alone : (d.slots.at i).m = 1) : releaseHeld e d i = d :=
  if_pos (by rw [alone]; rfl)

/-! ## The state a run starts from -/

/-- A run's state with the statistics it has read, where it has read any (R158). -/
def withStats (g : Image) (c : Cmd) (got : List Bytes) (x : Slot) : Slot :=
  if got.isEmpty then x else { x with ann := loadStats g (cmdPairs c) got x.ann }

/-- The slot as a run begins on it, with the room its mirrors have. -/
def begunSlot (n : Fin 64) (x : Slot) (mirrored due overflow : List Nat) : Slot := { x with
  entryPoint := some x.ann, point := some x.ann, user := some n, fetched := [], primed := false, nightSaved := false
  mirrored := mirrored, due := due, overflow := overflow }

/-- The state a run starts from: its packet's, or that which a RESUME takes up. -/
def startState (g : Image) (x : Slot) (c : Cmd) : Slot :=
  if pktOp c.pkt == some .resume then resumedRun g x c else freshRun g x c false

theorem startState_m (g : Image) (x : Slot) (c : Cmd) (got : List Bytes) : (withStats g c got (startState g x c)).m = x.m := by
  unfold withStats startState
  split <;> split <;> rfl

/-- The ranges that a run reads as it begins (R158, R195). -/
def runReads (g : Image) (x : Slot) (c : Cmd) : List (Nat × Nat) :=
  if loadsStats g x c && pktOp c.pkt == some .resume then statRanges g (startParams g x c) (cmdPairs c) else []

/-- The statistics a run starts from, of those read and those its dispatch read. -/
def statsRead (rs : List (Nat × Nat)) (c : Cmd) (read : List Bytes) : List Bytes := if rs.isEmpty then c.stats else read

/-- The Desk with a run at work on its slot, once slot and command are as they begin. -/
def openedOn (e : Env) (n : Fin 64) (i : Fin 64) (g : Image) (w : Reload) (y : Slot) (c : Cmd) : Desk :=
  let d := setCur (openGroup (takeTiles (updSlot w.desk i fun _ => y) c.tiles (heldAfter w i)) c w.image y.ann) n (some c)
  releaseHeld e { d with tx := d.tx ++ g.home.flatMap fun v => toRanks e g 1 0 (fillBytes i g y.ann v) } i

/-- A run at work on tiles that are ready, from its slot's state. -/
def runOpened (e : Env) (d : Desk) (n : Fin 64) (c : Cmd) (g : Image) (w : Reload) (x : Slot) : Desk :=
  let y := planMirror w.desk (cmdSlot c) w.image c.tiles { x with
    entryPoint := some x.ann, point := some x.ann, user := some n, fetched := [], primed := false, nightSaved := false }
  openedOn e n (cmdSlot c) g w y (beginWork d { w.cmd with cache := [], ckpt := y.ann.ckpt })

theorem beginRun_eq (e : Env) (d : Desk) (n : Fin 64) (c : Cmd) (g : Image) : beginRun e d n c g =
    let x := d.slots.at (cmdSlot c)
    let a := askOperands e d c 3 (runReads g x c)
    if readsOut a.2 then setCur a.1 n (some a.2)
    else
      let r := readRanges e a.1 n a.2 (runReads g x c)
      match r.2.2 with
      | some k => setCur r.1 n (some { askStop d.now k a.2 with fault := a.2.fault || k == .dataLost })
      | none =>
        let w := reloadTiles r.1 n a.2 g
        let y := if pktOp c.pkt == some .resume then resumedRun w.image { x with image := some w.image } c
          else freshRun w.image { x with image := some w.image } c w.stale
        let got := statsRead (runReads g x c) c r.2.1
        runOpened e d n c g w (withStats g c got y) := rfl

/-- The command of a run that has begun. -/
def runBegun (now : Nat) (c : Cmd) (ckpt : Nat) : Cmd := { c with
  stage := .working, began := true, startedAt := now, resumedAt := now, progressAt := now, asked := 1, ckpt := ckpt }

/-- Front Desk with a run under way in a queue, on its slot. -/
def runningDesk (d : Desk) (n i : Fin 64) (y : Slot) (c : Cmd) (tiles : Tiles) : Desk :=
  { d with tiles := tiles, slots := d.slots.put i y, sqs := d.sqs.upd n fun q => { q with cur := some c } }

theorem runningDesk_settled (s : State) (n i : Fin 64) (y : Slot) (c : Cmd) (tiles : Tiles) :
    let t := settle { s with desk := runningDesk s.desk n i y c tiles }
    y = t.desk.slots.at i ∧ (t.desk.sqs.at n).cur = some c ∧ t.desk.mem = s.desk.mem ∧
    (∀ j, j ≠ i → t.desk.slots.at j = s.desk.slots.at j) ∧ OnlyDesk s t := by
  obtain ⟨sqs, -, slots, -, mem, -⟩ := settle_desk_rest { s with desk := runningDesk s.desk n i y c tiles }
  refine ⟨?_, ?_, mem, fun j other => ?_, onlyDesk_settled _ _⟩
  · rw [slots]
    exact (Tab.at_put_same _ _ _).symm
  · rw [sqs]
    exact congrArg Sq.cur (Tab.at_upd_same _ _ _)
  · rw [slots]
    exact Tab.at_put_ne _ _ _ _ other

theorem openedOn_alone {e : Env} {d : Desk} {n i : Fin 64} {g : Image} {y : Slot} {c c1 : Cmd} (one : y.m = 1) (alone : g.m = 1)
    (first : g.rank = 0) : ∃ tiles, openedOn e n i g ⟨d, c1, g, false⟩ y c = runningDesk d n i y c tiles := by
  have quiet : (g.home.flatMap fun v => toRanks e g 1 0 (fillBytes i g y.ann v)) = [] :=
    List.flatMap_eq_nil_iff.mpr fun _ _ => toRanks_alone e alone first 1 0 _
  have tiles : OnlyTiles (updSlot d i fun _ => y) (openGroup (takeTiles (updSlot d i fun _ => y) c.tiles (heldAfter ⟨d, c1, g, false⟩ i)) c g y.ann) :=
    (takeTiles_tiles _ _ _).trans (openGroup_tiles _ _ _ _)
  unfold openedOn
  simp only
  rw [quiet]
  generalize openGroup (takeTiles (updSlot d i fun _ => y) c.tiles (heldAfter ⟨d, c1, g, false⟩ i)) c g y.ann = f at tiles
  rw [OnlyTiles] at tiles
  refine ⟨f.tiles, (releaseHeld_alone ?_).trans ?_⟩
  · rw [tiles]
    show ((d.slots.put i y).at i).m = 1
    rw [Tab.at_put_same, one]
  · rw [tiles, List.append_nil]
    rfl

/-- A run opened on tiles that hold its slot changes its slot, its queue and the tiles' registers. -/
theorem runOpened_held {e : Env} {d : Desk} {n : Fin 64} {c : Cmd} {g : Image} {x : Slot} (dispatched : c.stage = .dispatched)
    (cache : c.cache = []) (one : x.m = 1) (alone : g.m = 1) (first : g.rank = 0) :
    ∃ tiles mirrored due overflow, runOpened e d n c g ⟨d, { c with asked := 1 }, g, false⟩ x =
    runningDesk d n (pktSlot c.pkt) (begunSlot n x mirrored due overflow) (runBegun d.now c x.ann.ckpt) tiles := by
  obtain ⟨mirrored, due, overflow, planned⟩ : ∃ mirrored due overflow, planMirror d (cmdSlot c) g c.tiles { x with
      entryPoint := some x.ann, point := some x.ann, user := some n, fetched := [], primed := false, nightSaved := false } =
      begunSlot n x mirrored due overflow := ⟨_, _, _, rfl⟩
  have begun : beginWork d { { c with asked := 1 } with cache := [], ckpt := x.ann.ckpt } = runBegun d.now c x.ann.ckpt := by
    refine (beginWork_dispatched d (c := { c with asked := 1, cache := [], ckpt := x.ann.ckpt }) dispatched).trans ?_
    unfold runBegun
    rw [← cache]
  obtain ⟨tiles, opened⟩ := openedOn_alone (e := e) (d := d) (n := n) (i := cmdSlot c) (c := runBegun d.now c x.ann.ckpt)
    (c1 := { c with asked := 1 }) (y := begunSlot n x mirrored due overflow) one alone first
  refine ⟨tiles, mirrored, due, overflow, Eq.trans ?_ opened⟩
  unfold runOpened
  simp only
  rw [planned]
  exact congrArg (openedOn e n (cmdSlot c) g _ _) begun

theorem beginRun_plain {s : State} {n : Fin 64} {c : Cmd} {g : Image} {x : Slot} {rs : List (Nat × Nat)} {got : List Bytes}
    (dispatched : c.stage = .dispatched) (fresh : Untouched c) (is_x : x = s.desk.slots.at (pktSlot c.pkt)) (image : x.image = some g)
    (one : x.m = 1) (alone : g.m = 1) (first : g.rank = 0) (held : TilesHold s.desk c) (is_rs : rs = runReads g x c)
    (plain : ∀ r ∈ rs, PlainSpan s r.1 r.2)
    (is_got : got = (if rs = [] then c.stats else rs.map fun r => cellReads s.desk.mem.cells (addrDevice r.1) r.2)) :
    ∃ tiles mirrored due overflow, beginRun (envOf s) s.desk n c g = runningDesk s.desk n (pktSlot c.pkt)
      (begunSlot n (withStats g c got (startState g x c)) mirrored due overflow)
      (runBegun s.desk.now c (withStats g c got (startState g x c)).ann.ckpt) tiles := by
  obtain ⟨-, asked, remote, cache, -⟩ := fresh
  have same : { x with image := some g } = x := by rw [← image]
  have own : ∀ r ∈ rs, addrOwn (envOf s) r.1 = true := fun r mem => (plain r mem).1
  have none := readsOut_local (c := { c with asked := 1 }) remote
  have read := readRanges_plain (d := s.desk) plain rfl n { c with asked := 1 }
  have reload := reloadTiles_held (c := { c with asked := 1 }) held n g
  have stats : statsRead rs c (rs.map fun r => cellReads s.desk.mem.cells (addrDevice r.1) r.2) = got := by
    rw [is_got]
    unfold statsRead
    cases rs <;> rfl
  rw [beginRun_eq]
  simp only
  rw [show s.desk.slots.at (cmdSlot c) = x from is_x.symm, ← is_rs, askOperands_own s.desk 3 asked own, none,
    if_neg Bool.false_ne_true, read]
  simp only
  rw [reload, stats, same]
  exact runOpened_held dispatched cache ((startState_m g x c got).trans one) alone first

/-- The statistics a run has read take the place of its own, and nothing else of its state. -/
theorem withStats_eq (g : Image) (c : Cmd) (got : List Bytes) (x : Slot) : ∃ pairs moments,
    withStats g c got x = { x with ann := { x.ann with pairs := pairs, moments := moments } } ∧ (got = [] → pairs = x.ann.pairs) ∧
    (got ≠ [] → ∀ a : Ann, pairs = (loadStats g (cmdPairs c) got a).pairs ∧ moments = (loadStats g (cmdPairs c) got a).moments) := by
  unfold withStats
  cases got with
  | nil => exact ⟨x.ann.pairs, x.ann.moments, rfl, fun _ => rfl, fun h => absurd rfl h⟩
  | cons b bs => exact ⟨_, _, rfl, nofun, fun _ _ => ⟨rfl, rfl⟩⟩

/-! ## The runs of the table -/

theorem runExec_begins {s : State} {n : Fin 64} {o : Op} {c : Cmd} {g : Image} (h : AtHand s n o c) (clock : s.desk.tclkOff = false)
    (image : (s.desk.slots.at (pktSlot c.pkt)).image = some g) :
    onDesk s (fun e d => runExec e d n o 0) = settle { s with desk := beginRun (envOf s) s.desk n c g } := by
  obtain ⟨cur, op, stage, stop⟩ := h
  have at_ : tileCur s.desk n [o] = some c := by
    unfold tileCur curOf
    simp only [clock, cur, op, Bool.false_eq_true, if_false]
    exact if_pos (by simp)
  have image' : (s.desk.slots.at (cmdSlot c)).image = some g := image
  have made : runExec (envOf s) s.desk n o 0 = beginRun (envOf s) s.desk n c g := by
    unfold runExec
    simp only [at_, image', stage, stop]
    rfl
  exact congrArg (fun d => settle { s with desk := d }) made

theorem opOf_correlate {code : Nat} (h : opOf code = some .correlate) : code = 0x18 := by
  unfold opOf at h
  split at h <;> simp_all

theorem field_drop (p : Bytes) (a o n : Nat) : field (p.drop a) o n = field p (a + o) n := by
  unfold field
  rw [List.drop_drop]

theorem freshRun_pairs (g : Image) (x : Slot) {c : Cmd} {o : Op} (op : pktOp c.pkt = some o) : (freshRun g x c false).ann.pairs =
    if o = .correlate then
      List.replicate (runParams (field c.pkt 0 1) (c.pkt.drop 16)).npairs (List.replicate 256 (List.replicate 256 0))
    else [] := by
  unfold freshRun startRun
  by_cases correlate : o = .correlate
  · subst correlate
    rw [if_pos rfl, opOf_correlate op]
    rfl
  · have other : field c.pkt 0 1 ≠ 0x18 := fun code => correlate (by
      unfold pktOp at op
      rw [code] at op
      exact (Option.some.inj op).symm)
    simp only [if_neg other, if_neg correlate]

/-- The annealing state of a fresh run, but for its statistics (R81, R93). -/
def packetAnn (x : Slot) (c : Cmd) : Ann := { x.ann with
  sweep := (runParams (field c.pkt 0 1) (c.pkt.drop 16)).base, phase := 0, seed := BitVec.ofNat 128 (field c.pkt 32 16)
  opcode := field c.pkt 0 1, params := c.pkt.drop 16, ckpt := c.ckpt, schedDigest := crc64 c.sched, exch := 0, pi := List.range 16
  e := (List.range 16).map fun k => geti x.ann.e k, best := (List.range 16).map fun k => geti x.ann.e k
  bestSweep := List.replicate 16 0xFFFFFFFFFFFF, stuck := List.replicate 16 0, wl := List.replicate 16 0
  runBest := minInt ((List.range 16).map fun k => geti x.ann.e k), plateau := 0, wpCount := 0, wpChain := 0
  counters := ⟨0, 0, 0, 0, 0, 0, 0, 0, 0⟩, samples := 0, bestSpins := x.ann.spins }

theorem freshRun_ann (g : Image) (x : Slot) (c : Cmd) :
    ∃ pairs moments, (freshRun g x c false).ann = { packetAnn x c with pairs := pairs, moments := moments } := by
  unfold packetAnn
  rw [← field_drop c.pkt 16 16 16]
  unfold freshRun startRun
  simp only
  split <;> exact ⟨_, _, rfl⟩

theorem nextBetas_start (sched : Bytes) {a : Ann} (pi : a.pi = List.range 16) (wl : a.wl = List.replicate 16 0) :
    nextBetas sched a = (List.range 16).map fun k => replicaBeta sched k a.sweep 0 := by
  refine List.map_congr_left fun k mem => ?_
  have below : k < 16 := List.mem_range.mp mem
  have zero : getn (List.replicate 16 0) k = 0 := by
    rw [getn, getD_of_lt (by rw [List.length_replicate]; exact below), List.getElem_replicate]
  have same : getn (List.range 16) k = k := by
    rw [getn, getD_of_lt (by rw [List.length_range]; exact below), List.getElem_range]
  rw [pi, wl, zero, same]

theorem freshRun_betas (g : Image) (x : Slot) (c : Cmd) : (freshRun g x c false).betas =
    (List.range 16).map fun k => replicaBeta c.sched k (runParams (field c.pkt 0 1) (c.pkt.drop 16)).base 0 := by
  obtain ⟨pairs, moments, ann⟩ := freshRun_ann g x c
  have drawn : (freshRun g x c false).betas = nextBetas c.sched (freshRun g x c false).ann := by
    unfold freshRun startRun
    rfl
  rw [drawn, ann]
  exact nextBetas_start c.sched rfl rfl

/-- What a fresh run begins afresh besides its state, and what of the slot it keeps. -/
theorem freshRun_rest (g : Image) (x : Slot) (c : Cmd) :
    (freshRun g x c false).fields = x.fields ∧ (freshRun g x c false).visited = [] ∧ (freshRun g x c false).buffers = [] ∧
    (freshRun g x c false).ran = true ∧ (freshRun g x c false).state = x.state ∧ (freshRun g x c false).gen = x.gen ∧
    (freshRun g x c false).digest = x.digest ∧ (freshRun g x c false).susp = x.susp :=
  ⟨rfl, rfl, rfl, rfl, rfl, rfl, rfl, rfl⟩

/-- What a run that is taken up has of the state it takes up, and what of the slot it keeps. -/
theorem resumedRun_rest (g : Image) (x : Slot) (c : Cmd) :
    (resumedRun g x c).ann = repairAnn g (resumeAnn g x c) ∧ (resumedRun g x c).susp = none ∧
    (resumedRun g x c).stepStart = annStep (resumeAnn g x c) ∧ (resumedRun g x c).sweepDue = false ∧ (resumedRun g x c).ran = true ∧
    (resumedRun g x c).gen = x.gen ∧ (resumedRun g x c).state = x.state :=
  ⟨rfl, rfl, rfl, rfl, rfl, rfl, rfl⟩

/-- A RESUME on the slot's record takes its exchange up with it. -/
theorem resumedRun_record (g : Image) {x : Slot} {c : Cmd} {z : Suspension} (own : field c.pkt 24 8 = 0) (record : x.susp = some z) :
    (resumedRun g x c).piNext = z.piNext ∧ (resumedRun g x c).rxDone = z.rxDone ∧ (resumedRun g x c).betasPrev = z.betasPrev := by
  have taken : (if field c.pkt 24 8 = 0 then x.susp else none) = some z := (if_pos own).trans record
  unfold resumedRun
  simp only [taken]
  exact ⟨rfl, rfl, rfl⟩

/-- The state of a run with the statistics it has read. -/
def statsOf (g : Image) (c : Cmd) (got : List Bytes) (a : Ann) : Ann := if got.isEmpty then a else loadStats g (cmdPairs c) got a

theorem withStats_ann (g : Image) (c : Cmd) (got : List Bytes) (x : Slot) : withStats g c got x = { x with ann := statsOf g c got x.ann } := by
  unfold withStats statsOf
  cases got <;> rfl

theorem statsOf_eq (g : Image) (c : Cmd) (got : List Bytes) (a : Ann) : (got = [] → statsOf g c got a = a) ∧
    (got ≠ [] → statsOf g c got a = loadStats g (cmdPairs c) got a) ∧ (statsOf g c got a).ckpt = a.ckpt := by
  cases got with
  | nil => exact ⟨fun _ => rfl, fun h => absurd rfl h, rfl⟩
  | cons b bs => exact ⟨nofun, fun _ => rfl, rfl⟩

/-! ## SUSPEND -/

/-- A SUSPEND that waits for its target. -/
def suspending (d : Desk) (c : Cmd) (m : Fin 64) (r : Cmd) : Cmd := { beginWork d c with
  done := 1
  result := slice (leBytes 1 1 ++ leBytes 1 (field r.pkt 0 1) ++ leBytes 1 m.val ++ leBytes 1 0 ++ leBytes 4 (pktPseq r.pkt)) 0 28 }

/-- Front Desk with the target of a SUSPEND told to stop. -/
def suspendTold (d : Desk) (n m : Fin 64) (c r : Cmd) : Desk :=
  setCur (setCur d m (some { r with stop := some (.suspend n), stopAt := d.now })) n (some (suspending d c m r))

theorem beginWork_done (d : Desk) (c : Cmd) : (beginWork d c).done = c.done ∧ cmdSlot (beginWork d c) = pktSlot c.pkt := by
  unfold beginWork
  split <;> exact ⟨rfl, rfl⟩

theorem deskSuspend_idle {s : State} {n : Fin 64} {c : Cmd} (h : AtHand s n .suspend c) (zero : c.done = 0)
    (idle : suspendTarget s.desk (pktSlot c.pkt) = none) : deskSuspend s.desk n = withCur s.desk n (workDone s.desk.now c stOk [] 0) := by
  obtain ⟨done, slot⟩ := beginWork_done s.desk c
  unfold deskSuspend
  simp only [h.work rfl, done, zero, slot, idle, if_true]
  exact endWork_begun s.desk s.desk n h.2.2.1 stOk [] 0

theorem deskSuspend_told {s : State} {n m : Fin 64} {c r : Cmd} (h : AtHand s n .suspend c) (zero : c.done = 0)
    (target : suspendTarget s.desk (pktSlot c.pkt) = some (m, r)) :
    deskSuspend s.desk n = suspendTold s.desk n m c r ∧ (suspending s.desk c m r).stage = .working := by
  obtain ⟨done, slot⟩ := beginWork_done s.desk c
  refine ⟨?_, congrArg Cmd.stage (beginWork_dispatched s.desk h.2.2.1)⟩
  unfold deskSuspend
  simp only [h.work rfl, done, zero, slot, target, if_true]
  rfl

theorem deskSuspend_done {d : Desk} {n : Fin 64} {c : Cmd} (cur : (d.sqs.at n).cur = some c) (op : pktOp c.pkt = some .suspend)
    (working : c.stage = .working) (going : c.stop = none) (told : c.done = 1)
    (done : (liveCmds d).any (fun x => x.2.stop == some (.suspend n)) = false) : deskSuspend d n =
    withCur d n { c with stage := .ended, status := stOk, result := slice c.result 0 28, limit := 0 } := by
  have same : beginWork d c = c := if_neg (by rw [working]; exact nofun)
  have work : workOf d n .suspend = some c := workOf_of cur op (.inr rfl) (.inr working) going
  unfold deskSuspend
  have begun : ¬ c.done = 0 := by omega
  simp only [work, same, if_neg begun, done, Bool.false_eq_true, if_false]
  rfl

/-- Settles O50, by the state each run starts from; a SUSPEND tells its target to stop and waits for it. -/
theorem runsBegin : Obligations.RunsBegin := by
  unfold Obligations.RunsBegin
  intro s n c
  refine ⟨fun g x rs got p fresh is_x image one alone first held clock is_rs plain is_got is_p => ⟨fun o i h kind => ?run, fun a h is_a => ?resume⟩,
    ?suspend, ?suspended⟩
  case run =>
    obtain ⟨ran, other⟩ : exec i s = .next (settle { s with desk := beginRun (envOf s) s.desk n c g }) ∧ o ≠ .resume := by
      have image' := is_x ▸ image
      obtain ⟨rfl, rfl⟩ | ⟨rfl, rfl⟩ | ⟨rfl, rfl⟩ := kind <;>
        exact ⟨congrArg Host.Outcome.next (runExec_begins h clock image'), nofun⟩
    obtain ⟨tiles, mirrored, due, overflow, begun⟩ := beginRun_plain (n := n) h.2.2.1 fresh is_x image one alone first held is_rs plain is_got
    have start : startState g x c = freshRun g x c false := if_neg (by
      rw [h.2.1]
      simpa using other)
    obtain ⟨pairs, moments, stats, none, some_⟩ := withStats_eq g c got (freshRun g x c false)
    obtain ⟨pairs', moments', ann⟩ := freshRun_ann g x c
    have betas := freshRun_betas g x c
    have fresh_pairs := freshRun_pairs g x h.2.1
    obtain ⟨fields, visited, buffers, is_ran, state, gen, digest, susp⟩ := freshRun_rest g x c
    subst is_p
    rw [start, stats] at begun
    generalize freshRun g x c false = z at *
    rw [ann] at begun
    rw [begun] at ran
    obtain ⟨is_y, cur, mem, others, only⟩ := runningDesk_settled s n (pktSlot c.pkt)
      (begunSlot n { z with ann := { packetAnn x c with pairs := pairs, moments := moments } } mirrored due overflow)
      (runBegun s.desk.now c c.ckpt) tiles
    exact ⟨_, _, ran, is_y, cur, rfl, rfl, rfl, rfl, rfl, rfl, rfl, rfl, rfl, rfl, rfl, rfl, rfl, rfl, rfl, rfl, rfl, fun has => some_ has x.ann,
      betas, fun empty => (none empty).trans fresh_pairs, fields, visited, rfl, rfl, buffers, is_ran, rfl, state, gen, digest, susp, mem, others, only⟩
  case resume =>
    have ran : exec (.resume n 0) s = .next (settle { s with desk := beginRun (envOf s) s.desk n c g }) :=
      congrArg Host.Outcome.next (runExec_begins h clock (is_x ▸ image))
    obtain ⟨tiles, mirrored, due, overflow, begun⟩ := beginRun_plain (n := n) h.2.2.1 fresh is_x image one alone first held is_rs plain is_got
    have start : startState g x c = resumedRun g x c := if_pos (by
      rw [h.2.1]
      rfl)
    have taken : resumeAnn g x c = a := is_a.symm
    obtain ⟨ann, susp, step, due', is_ran, gen, state⟩ := resumedRun_rest g x c
    have record := fun r : Suspension => resumedRun_record (c := c) g (x := x) (z := r)
    rw [taken] at ann step
    obtain ⟨none, some_, ckpt⟩ := statsOf_eq g c got (repairAnn g a)
    rw [start, withStats_ann] at begun
    generalize resumedRun g x c = z at *
    rw [ann, ckpt] at begun
    rw [begun] at ran
    obtain ⟨is_y, cur, mem, others, only⟩ := runningDesk_settled s n (pktSlot c.pkt)
      (begunSlot n { z with ann := statsOf g c got (repairAnn g a) } mirrored due overflow) (runBegun s.desk.now c a.ckpt) tiles
    exact ⟨_, _, ran, is_y, cur, none, some_, fun own r has => record r own has, susp, rfl, step, due', is_ran, gen, state, mem, others, only⟩
  case suspend =>
    intro h zero
    refine ⟨fun none => ?_, fun m r other target => ?_⟩
    · exact congrArg (fun d => Host.Outcome.next (settle { s with desk := d })) (deskSuspend_idle h zero none)
    · obtain ⟨made, working⟩ := deskSuspend_told h zero target
      have ran : exec (.suspend n) s = .next (settle { s with desk := deskSuspend s.desk n }) := rfl
      rw [made] at ran
      obtain ⟨sqs, -, slots, -⟩ := settle_desk_rest { s with desk := suspendTold s.desk n m c r }
      refine ⟨_, suspending s.desk c m r, ran, ?_, ?_, working, rfl, fun j notM notN => ?_, slots, onlyDesk_settled _ _⟩
      · rw [sqs]
        exact (congrArg Sq.cur (setCur_ne _ _ other)).trans (setCur_same _ _ _)
      · rw [sqs]
        exact setCur_same _ _ _
      · rw [sqs]
        exact (setCur_ne _ _ notN).trans (setCur_ne _ _ notM)
  case suspended =>
    intro c1 cur op working going told done
    exact congrArg (fun d => Host.Outcome.next (settle { s with desk := d })) (deskSuspend_done cur op working going told done)

end Sys2Proof.Machine
end

section
/-! SUPPORT. READ_STATE, TILE_STORE and TILE_LOAD: the slot made ready, and what they read and write. -/
namespace Sys2Proof.Machine

/-! ## Tiles made ready -/

/-- Front Desk with a command's tiles on its slot. -/
def readied (d : Desk) (c : Cmd) : Desk :=
  updSlot (takeTiles d c.tiles (some (cmdSlot c))) (cmdSlot c) fun s => { s with nightSaved := false }

set_option Elab.async false in
theorem withTiles_held {d : Desk} {c : Cmd} (held : TilesHold d c) (going : c.stop = none) (n : Fin 64) (g : Image) (k : Desk → Cmd → Image → Desk) :
    withTiles d n c g k = k (readied d c) c g := by
  unfold withTiles
  simp only [reloadTiles_held held, going]
  rfl

theorem readied_eq (d : Desk) (c : Cmd) : ∃ tiles, readied d c =
    { withSlot d (pktSlot c.pkt) { d.slots.at (pktSlot c.pkt) with nightSaved := false } with tiles := tiles } := by
  have taken := takeTiles_tiles d c.tiles (some (cmdSlot c))
  unfold readied
  generalize takeTiles d c.tiles (some (cmdSlot c)) = e at taken
  rw [OnlyTiles] at taken
  exact ⟨e.tiles, by rw [taken]; rfl⟩

theorem beginWork_rest {d : Desk} {c : Cmd} (stage : c.stage = .dispatched) : (beginWork d c).pkt = c.pkt ∧ (beginWork d c).tiles = c.tiles ∧
    (beginWork d c).descs = c.descs ∧ (beginWork d c).stop = c.stop ∧ (beginWork d c).asked = c.asked ∧ (beginWork d c).remote = c.remote := by
  rw [beginWork_dispatched d stage]
  exact ⟨rfl, rfl, rfl, rfl, rfl, rfl⟩

/-! ## Several writes -/

theorem memStore_ue {m : Memory} {a : Nat} {bs : Bytes} (sound : badSector m a bs.length = none) : (memStore m a bs).ue = m.ue := by
  refine List.filter_eq_self.mpr fun x mem => ?_
  have apart := noneMeets_of_badSector sound x mem
  unfold meets at apart
  simp only [Bool.and_eq_false_iff, decide_eq_false_iff_not] at apart
  simp only [Bool.not_eq_true', Bool.and_eq_false_iff, decide_eq_false_iff_not]
  omega

/-- A read of memory sees the same bad sectors where the same are bad. -/
theorem badSector_congr {m m' : Memory} (ue : m'.ue = m.ue) (a n : Nat) : badSector m' a n = badSector m a n := by
  unfold badSector
  rw [ue]

/-- Writes to the module's own sound memory land one after the other. -/
theorem cmdPuts_plain {s : State} {ws : List (Nat × Bytes)} (plain : ∀ w ∈ ws, PlainSpan s w.1 w.2.length ∧ w.2 ≠ []) {d : Desk}
    (ue : d.mem.ue = s.desk.mem.ue) (n : Fin 64) (c : Cmd) (cls : Nat) : ∃ m : Memory,
    cmdPuts (envOf s) d n c cls ws = ⟨{ d with mem := m }, c, ws.flatMap fun w => w.2, true⟩ ∧
    m.cells = ws.foldl (fun l w => cellWrites l (addrDevice w.1) w.2) d.mem.cells := by
  have step : ∀ (d : Desk) (before : Bytes), d.mem.ue = s.desk.mem.ue → ∃ m : Memory,
      ws.foldl (fun (x : Put) w =>
        if !x.ok then x
        else
          let y := cmdPut (envOf s) x.desk n x.cmd cls w.1 w.2
          { y with landed := x.landed ++ y.landed }) ⟨d, c, before, true⟩ =
        ⟨{ d with mem := m }, c, before ++ ws.flatMap fun w => w.2, true⟩ ∧
      m.cells = ws.foldl (fun l w => cellWrites l (addrDevice w.1) w.2) d.mem.cells := by
    induction ws with
    | nil => exact fun d before _ => ⟨d.mem, by rw [List.flatMap_nil, List.append_nil]; rfl, rfl⟩
    | cons w ws ih =>
      intro d before ue
      obtain ⟨span, some_⟩ := plain w (List.mem_cons_self)
      have sound : badSector d.mem (addrDevice w.1) w.2.length = none := (badSector_congr ue _ _).trans span.2.2
      obtain ⟨m, landed, cells⟩ := ih (fun w mem => plain w (List.mem_cons_of_mem _ mem))
        { d with mem := memStore d.mem (addrDevice w.1) w.2 } (before ++ w.2) ((memStore_ue sound).trans ue)
      refine ⟨m, ?_, ?_⟩
      · rw [List.foldl_cons]
        simp only [Bool.not_true, Bool.false_eq_true, if_false]
        rw [cmdPut_plain span ue some_, List.flatMap_cons, ← List.append_assoc]
        exact landed
      · rw [cells, List.foldl_cons]
        exact congrArg (fun l => ws.foldl _ l) (memStore_cells sound)
  exact step d [] ue

/-! ## READ_STATE -/

theorem cmdWrite_plain {s : State} {d : Desk} {addr : Nat} {bs : Bytes} (plain : PlainSpan s addr bs.length)
    (mem : d.mem = s.desk.mem) (n : Fin 64) (c : Cmd) (cls : Nat) : ∃ m : Memory,
    cmdWrite (envOf s) d n c cls addr bs = ({ d with mem := m }, c) ∧ m.cells = cellWrites s.desk.mem.cells (addrDevice addr) bs := by
  by_cases some_ : bs = []
  · subst some_
    exact ⟨d.mem, rfl, congrArg Memory.cells mem⟩
  · refine ⟨memStore s.desk.mem (addrDevice addr) bs, ?_, memStore_cells plain.2.2⟩
    unfold cmdWrite
    rw [cmdPut_plain plain (congrArg Memory.ue mem) some_, mem]

/-- Front Desk with a command's tiles on its slot and its work on memory done. -/
def servedSlot (d : Desk) (n : Fin 64) (i : Fin 64) (x : Slot) (tiles : Tiles) (m : Memory) (c : Cmd) : Desk :=
  withCur { withSlot d i x with tiles := tiles, mem := m } n c

theorem servedSlot_settled (s : State) (n i : Fin 64) (x : Slot) (tiles : Tiles) (m : Memory) (c : Cmd) :
    let t := settle { s with desk := servedSlot s.desk n i x tiles m c }
    (t.desk.sqs.at n).cur = some c ∧ t.desk.mem = m ∧ t.desk.slots.at i = x ∧ (∀ j, j ≠ i → t.desk.slots.at j = s.desk.slots.at j) ∧
    OnlyMemory { withSlot s.desk i x with tiles := t.desk.tiles } t.desk n ∧ OnlyDesk s t := by
  obtain ⟨sqs, -, slots, -, mem, -, -, tiles', -⟩ := settle_desk_rest { s with desk := servedSlot s.desk n i x tiles m c }
  refine ⟨?_, mem, ?_, fun j other => ?_, ?_, onlyDesk_settled _ _⟩
  · rw [sqs]
    exact withCur_cur _ _ _
  · rw [slots]
    exact Tab.at_put_same _ _ _
  · rw [slots]
    exact Tab.at_put_ne _ _ _ _ other
  · rw [tiles']
    exact onlyMemory_settled (s := { s with desk := { withSlot s.desk i x with tiles := tiles } })
      (u := { s with desk := servedSlot s.desk n i x tiles m c }) (onlyMemory_withCur _ n m c)

/-- The command and the slot as its work begins on tiles that hold the slot. -/
theorem AtHand.readied {s : State} {n : Fin 64} {o : Op} {c : Cmd} {g : Image} {x : Slot} (h : AtHand s n o c)
    (is_x : x = s.desk.slots.at (pktSlot c.pkt)) (image : x.image = some g) (held : TilesHold s.desk c) (clock : s.desk.tclkOff = false) :
    workOf s.desk n o = some c ∧ (s.desk.slots.at (cmdSlot (beginWork s.desk c))).image = some g ∧ TilesHold s.desk (beginWork s.desk c) ∧
    (Machine.readied s.desk (beginWork s.desk c)).slots.at (pktSlot c.pkt) = { x with nightSaved := false } ∧
    ∃ tiles, Machine.readied s.desk (beginWork s.desk c) = { withSlot s.desk (pktSlot c.pkt) { x with nightSaved := false } with tiles := tiles } := by
  obtain ⟨cur, op, stage, stop⟩ := h
  obtain ⟨pkt, tiles, -⟩ := beginWork_rest (d := s.desk) stage
  obtain ⟨ts, ready⟩ := readied_eq s.desk (beginWork s.desk c)
  rw [pkt, ← is_x] at ready
  refine ⟨workOf_of cur op (.inl clock) (.inl stage) stop, ?_, ?_, ?_, ts, ready⟩
  · rw [cmdSlot, pkt, ← is_x, image]
  · unfold TilesHold
    rw [tiles, pkt]
    exact held
  · rw [ready]
    exact Tab.at_put_same _ _ _

theorem readState_held {s : State} {n : Fin 64} {c : Cmd} {g : Image} {x : Slot} {bs : Bytes} (h : AtHand s n .readState c)
    (is_x : x = s.desk.slots.at (pktSlot c.pkt)) (image : x.image = some g) (held : TilesHold s.desk c) (clock : s.desk.tclkOff = false)
    (is_bs : bs = (if field c.pkt 17 1 = 0 then waypointBytes s.desk (pktSlot c.pkt) g x.gen x.ann 0
      else if field c.pkt 17 1 = 1 then (x.ann.spins.getD (field c.pkt 18 1) []).flatMap (fun w => leBytes 32 w.toNat)
      else (x.ann.bestSpins.getD (field c.pkt 18 1) []).flatMap (fun w => leBytes 32 w.toNat)))
    (plain : PlainSpan s (field c.pkt 24 8) bs.length) : ∃ tiles m c', exec (.readState n) s = .next (settle { s with
      desk := servedSlot s.desk n (pktSlot c.pkt) { x with nightSaved := false } tiles m c' }) ∧
      m.cells = cellWrites s.desk.mem.cells (addrDevice (field c.pkt 24 8)) bs ∧ EndedAs c' c stOk := by
  obtain ⟨work, image', held', slot, ts, ready⟩ := h.readied is_x image held clock
  obtain ⟨-, -, stage, stop⟩ := h
  obtain ⟨pkt, -, -, stop', -⟩ := beginWork_rest (d := s.desk) stage
  have bytes : readStateBytes (readied s.desk (beginWork s.desk c)) (pktSlot c.pkt) g (field c.pkt 17 1) (field c.pkt 18 1) = bs := by
    unfold readStateBytes
    rw [slot, is_bs, ready]
    rfl
  obtain ⟨m, wrote, cells⟩ := cmdWrite_plain (d := readied s.desk (beginWork s.desk c)) plain (by rw [ready]; rfl) n (beginWork s.desk c) 3
  obtain ⟨c', is_c'⟩ : ∃ c', c' = { beginWork s.desk c with stage := .ended, status := stOk, result := slice [] 0 28, limit := 0 } := ⟨_, rfl⟩
  refine ⟨ts, m, c', ?_, cells, is_c' ▸ begun_endedAs stage stOk [] 0⟩
  refine congrArg (fun d => Host.Outcome.next (settle { s with desk := d })) ?_
  simp only [work, image']
  rw [withTiles_held held' (stop'.trans stop)]
  simp only [cmdSlot, pkt, bytes, wrote, stop', stop]
  rw [is_c', ready]
  rfl

/-! ## TILE_STORE -/

theorem rowLanes_saved (x : Slot) (b : Bool) (r : TileRow) : rowLanes { x with nightSaved := b } r = rowLanes x r := by
  cases r <;> rfl

theorem rowBytes_some (x : Slot) (r : TileRow) : (rowLanes x r).flatMap (intBytes 8) ≠ [] := by
  intro empty
  have lanes : rowLanes x r ≠ [] := by
    cases r <;> exact fun none => absurd (congrArg List.length none) (by simp [rowLanes])
  obtain ⟨v, mem⟩ := List.exists_mem_of_ne_nil _ lanes
  have none : leBytes 8 (unsigned 64 v) = [] := List.flatMap_eq_nil_iff.mp empty v mem
  exact absurd none nofun

theorem tileStore_held {s : State} {n : Fin 64} {c : Cmd} {g : Image} {x : Slot} {ws : List (Nat × Bytes)} (h : AtHand s n .tileStore c)
    (is_x : x = s.desk.slots.at (pktSlot c.pkt)) (image : x.image = some g) (held : TilesHold s.desk c) (clock : s.desk.tclkOff = false)
    (is_ws : ws = ((List.range (field c.pkt 22 2)).map fun j => ((descOf c 0).rowAddr j 0 0,
      (rowLanes x (tileRow g (field c.pkt 18 2) (field c.pkt 20 2 + j))).flatMap (intBytes 8))))
    (plain : ∀ w ∈ ws, PlainSpan s w.1 w.2.length) : ∃ tiles m c', exec (.tileStore n) s = .next (settle { s with
      desk := servedSlot s.desk n (pktSlot c.pkt) { x with nightSaved := false } tiles m c' }) ∧
      m.cells = ws.foldl (fun l w => cellWrites l (addrDevice w.1) w.2) s.desk.mem.cells ∧ EndedAs c' c stOk ∧
      c'.digest = crc64 (ws.flatMap fun w => w.2) := by
  obtain ⟨work, image', held', slot, ts, ready⟩ := h.readied is_x image held clock
  obtain ⟨-, -, stage, stop⟩ := h
  obtain ⟨pkt, -, descs, stop', -⟩ := beginWork_rest (d := s.desk) stage
  have stores : tileStores g ((readied s.desk (beginWork s.desk c)).slots.at (cmdSlot (beginWork s.desk c))) (beginWork s.desk c).pkt
      (tensorOf ((beginWork s.desk c).descs.getD 0 [])) = ws := by
    rw [cmdSlot, pkt, slot, descs]
    unfold tileStores
    simp only [rowLanes_saved]
    exact is_ws.symm
  have some_ : ∀ w ∈ ws, w.2 ≠ [] := fun w mem => by
    rw [is_ws] at mem
    obtain ⟨j, -, rfl⟩ := List.mem_map.mp mem
    exact rowBytes_some x _
  obtain ⟨m, wrote, cells⟩ := cmdPuts_plain (fun w mem => ⟨plain w mem, some_ w mem⟩) (d := readied s.desk (beginWork s.desk c))
    (by rw [ready]; rfl) n (beginWork s.desk c) 3
  obtain ⟨c', is_c'⟩ : ∃ c', c' = { beginWork s.desk c with
    stage := .ended, status := stOk, result := slice [] 0 28, limit := 0, digest := crc64 (ws.flatMap fun w : Nat × Bytes => w.2) } := ⟨_, rfl⟩
  have ended := begun_endedAs (d := s.desk) stage stOk [] 0
  refine ⟨ts, m, c', ?_, cells.trans (by rw [ready]; rfl), is_c' ▸ ended, by rw [is_c']⟩
  refine congrArg (fun d => Host.Outcome.next (settle { s with desk := d })) ?_
  simp only [work, image']
  rw [withTiles_held held' (stop'.trans stop)]
  simp only [stores, wrote]
  refine (if_neg (by rw [stop', stop]; exact nofun)).trans ?_
  rw [is_c', ready]
  rfl

/-! ## TILE_LOAD -/

theorem setRow_saved (x : Slot) (b : Bool) (r : TileRow) (xs : List Int) :
    setRow { x with nightSaved := b } r xs = { setRow x r xs with nightSaved := b } := by
  cases r <;> rfl

theorem setRow_kept (x : Slot) (r : TileRow) (xs : List Int) : (setRow x r xs).gen = x.gen ∧ (setRow x r xs).state = x.state ∧
    (setRow x r xs).digest = x.digest := by
  cases r <;> exact ⟨rfl, rfl, rfl⟩

/-- The slot with rows in place of those of a job tile. -/
def rowsLoadedFrom (g : Image) (p : Bytes) (ls : List Bytes) (x : Slot) : Slot :=
  (List.range ls.length).foldl (fun y j => setRow y (tileRow g (field p 18 2) (field p 20 2 + j))
    ((List.range 256).map fun l => signed 64 (field (ls.getD j []) (8 * l) 8))) x

/-- The slot after a load. -/
def loadedSlot (g : Image) (p : Bytes) (ls : List Bytes) (x : Slot) : Slot :=
  { rowsLoadedFrom g p ls x with rowsLoaded := true, nightSaved := false }

theorem rowsLoadedFrom_kept (g : Image) (p : Bytes) (ls : List Bytes) (x : Slot) : (rowsLoadedFrom g p ls x).gen = x.gen ∧
    (rowsLoadedFrom g p ls x).state = x.state ∧ (rowsLoadedFrom g p ls x).digest = x.digest := by
  unfold rowsLoadedFrom
  generalize List.range ls.length = js
  induction js generalizing x with
  | nil => exact ⟨rfl, rfl, rfl⟩
  | cons j js ih =>
    rw [List.foldl_cons]
    obtain ⟨gen, state, digest⟩ := setRow_kept x (tileRow g (field p 18 2) (field p 20 2 + j))
      ((List.range 256).map fun l => signed 64 (field (ls.getD j []) (8 * l) 8))
    rw [← gen, ← state, ← digest]
    exact ih _

theorem rowsLoadedFrom_saved (g : Image) (p : Bytes) (ls : List Bytes) (x : Slot) (b : Bool) :
    rowsLoadedFrom g p ls { x with nightSaved := b } = { rowsLoadedFrom g p ls x with nightSaved := b } := by
  unfold rowsLoadedFrom
  generalize List.range ls.length = js
  induction js generalizing x with
  | nil => rfl
  | cons j js ih =>
    rw [List.foldl_cons, List.foldl_cons, setRow_saved]
    exact ih _

theorem zip_range (ls : List Bytes) : (List.range ls.length).zip ls = (List.range ls.length).map fun j => (j, ls.getD j []) := by
  refine List.ext_getElem (by simp) fun i below _ => ?_
  have inside : i < ls.length := by simpa using below
  simp [inside]

theorem loaded_fold (g : Image) (p : Bytes) (ls : List Bytes) (x : Slot) :
    ((List.range ls.length).zip ls).foldl (fun s q => setRow s (tileRow g (field p 18 2) (field p 20 2 + q.1))
      ((List.range 256).map fun l => signed 64 (field q.2 (8 * l) 8))) x = rowsLoadedFrom g p ls x := by
  rw [zip_range, List.foldl_map]
  rfl

theorem updSlot_withSlot (d : Desk) (i : Fin 64) (x : Slot) (tiles : Tiles) (f : Slot → Slot) :
    updSlot { withSlot d i x with tiles := tiles } i f = { withSlot d i (f x) with tiles := tiles } := by
  have same : (d.slots.put i x).upd i f = d.slots.put i (f x) := by
    show (d.slots.put i x).put i (f ((d.slots.put i x).at i)) = _
    rw [Tab.put_put, Tab.at_put_same]
  unfold updSlot withSlot
  simp only
  rw [same]

theorem crc64_flatten (ls : List Bytes) : ls.foldl crc64From 0 = crc64 ls.flatten := (List.foldl_flatten).symm

theorem tileLoad_held {s : State} {n : Fin 64} {c : Cmd} {g : Image} {x : Slot} {ls : List Bytes} (h : AtHand s n .tileLoad c)
    (fresh : Untouched c) (is_x : x = s.desk.slots.at (pktSlot c.pkt)) (image : x.image = some g) (held : TilesHold s.desk c)
    (clock : s.desk.tclkOff = false)
    (is_ls : ls = ((List.range (field c.pkt 22 2)).map fun j => cellReads s.desk.mem.cells (addrDevice ((descOf c 0).rowAddr j 0 0)) 2048))
    (plain : ∀ j, j < field c.pkt 22 2 → PlainSpan s ((descOf c 0).rowAddr j 0 0) 2048) : ∃ tiles c',
      exec (.tileLoad n) s = .next (settle { s with
        desk := servedSlot s.desk n (pktSlot c.pkt) (loadedSlot g c.pkt ls x) tiles s.desk.mem c' }) ∧
      EndedAs c' c stOk ∧ c'.digest = crc64 ls.flatten := by
  obtain ⟨work, image', held', slot, ts, ready⟩ := h.readied is_x image held clock
  obtain ⟨-, -, stage, stop⟩ := h
  obtain ⟨-, asked, remote, -⟩ := fresh
  obtain ⟨pkt, -, descs, stop', asked', remote'⟩ := beginWork_rest (d := s.desk) stage
  have spans : ∀ r ∈ tileLoads c.pkt (descOf c 0), PlainSpan s r.1 r.2 := fun r mem => by
    obtain ⟨j, inside, rfl⟩ := List.mem_map.mp mem
    exact plain j (List.mem_range.mp inside)
  have asks := askOperands_own s.desk (e := envOf s) 3 (asked'.trans asked) fun r mem => (spans r mem).1
  have none := readsOut_local (c := { beginWork s.desk c with asked := 1 }) (remote'.trans remote)
  have read := readRanges_plain (d := readied s.desk (beginWork s.desk c)) spans (by rw [ready]; rfl) n { beginWork s.desk c with asked := 1 }
  have lines : (tileLoads c.pkt (descOf c 0)).map (fun r => cellReads (readied s.desk (beginWork s.desk c)).mem.cells (addrDevice r.1) r.2) = ls := by
    have same : (readied s.desk (beginWork s.desk c)).mem = s.desk.mem := by
      rw [ready]
      rfl
    rw [is_ls, same]
    simp only [tileLoads, List.map_map, Function.comp_def]
  rw [lines] at read
  obtain ⟨c', is_c'⟩ : ∃ c', c' = { beginWork s.desk c with
    asked := 1, stage := .ended, status := stOk, result := slice [] 0 28, limit := 0, digest := crc64 ls.flatten } := ⟨_, rfl⟩
  have ended := begun_endedAs (d := s.desk) stage stOk [] 0
  refine ⟨ts, c', ?_, is_c' ▸ ended, by rw [is_c']⟩
  have held'' : TilesHold s.desk { beginWork s.desk c with asked := 1 } := held'
  have image'' : (s.desk.slots.at (cmdSlot c)).image = some g := is_x ▸ image
  have rows : tileLoads c.pkt (tensorOf (c.descs.getD 0 [])) = tileLoads c.pkt (descOf c 0) := rfl
  refine congrArg (fun d => Host.Outcome.next (settle { s with desk := d })) ?_
  simp only [work, rows, asks, image'', none, Bool.false_eq_true, if_false]
  rw [withTiles_held held'' (stop'.trans stop), show readied s.desk { beginWork s.desk c with asked := 1 } = readied s.desk (beginWork s.desk c) from rfl]
  have same : rowsLoadedFrom g (beginWork s.desk c).pkt ls = rowsLoadedFrom g c.pkt ls := by rw [pkt]
  simp only [read, loaded_fold, crc64_flatten, same]
  rw [is_c', ready, show cmdSlot c = pktSlot c.pkt from rfl, updSlot_withSlot, rowsLoadedFrom_saved]
  rfl

/-- Settles O49, by the slot made ready on tiles that hold it, and what each command then reads or writes. -/
theorem slotStateIsReadAndLoaded : Obligations.SlotStateIsReadAndLoaded := by
  unfold Obligations.SlotStateIsReadAndLoaded
  intro s n c g x fresh is_x image held clock
  refine ⟨fun bs h is_bs plain => ?read, fun ws h is_ws plain => ?store, fun ls h is_ls plain => ?load⟩
  case read =>
    obtain ⟨tiles, m, c', ran, cells, ended⟩ := readState_held h is_x image held clock is_bs plain
    obtain ⟨cur, mem, -, -, only, desk⟩ := servedSlot_settled s n (pktSlot c.pkt) { x with nightSaved := false } tiles m c'
    exact ⟨_, c', ran, cur, ended, storedAt_of ((congrArg Memory.cells mem).trans cells), only, desk⟩
  case store =>
    obtain ⟨tiles, m, c', ran, cells, ended, digest⟩ := tileStore_held h is_x image held clock is_ws plain
    obtain ⟨cur, mem, -, -, only, desk⟩ := servedSlot_settled s n (pktSlot c.pkt) { x with nightSaved := false } tiles m c'
    exact ⟨_, c', ran, cur, ended, digest, (congrArg Memory.cells mem).trans cells, only, desk⟩
  case load =>
    obtain ⟨tiles, c', ran, ended, digest⟩ := tileLoad_held h fresh is_x image held clock is_ls plain
    obtain ⟨cur, mem, slot, others, -, desk⟩ := servedSlot_settled s n (pktSlot c.pkt) (loadedSlot g c.pkt ls x) tiles s.desk.mem c'
    obtain ⟨gen, state, same⟩ := rowsLoadedFrom_kept g c.pkt ls x
    have count : ls.length = field c.pkt 22 2 := by
      rw [is_ls, List.length_map, List.length_range]
    have rows : rowsLoadedFrom g c.pkt ls x = (List.range (field c.pkt 22 2)).foldl (fun y j =>
        setRow y (tileRow g (field c.pkt 18 2) (field c.pkt 20 2 + j))
          ((List.range 256).map fun l => signed 64 (field (ls.getD j []) (8 * l) 8))) x := by
      unfold rowsLoadedFrom
      rw [count]
    exact ⟨_, c', ran, cur, ended, digest, ⟨_, rows, slot⟩, (congrArg Slot.gen slot).trans gen, (congrArg Slot.state slot).trans state,
      (congrArg Slot.digest slot).trans same, mem, others, desk⟩

end Sys2Proof.Machine
end

section
/-! SUPPORT. Transfers: pieces of a range, what one piece moves, and the pieces of a transfer. -/
namespace Sys2Proof.Machine

/-! ## Pieces of a range -/

set_option Elab.async false in
/-- A part of a range of the module's own sound memory, and where it lies. -/
theorem plainSpan_piece {s : State} {a len k j : Nat} (plain : PlainSpan s a len) (some_ : 0 < j) (inside : k + j ≤ len) :
    PlainSpan s (a + k) j ∧ addrDevice (a + k) = addrDevice a + k := by
  obtain ⟨own, below, sound⟩ := plain
  have top : tableBase = 16492674416640 := rfl
  have at_ : addrDevice (a + k) = addrDevice a + k := by
    unfold addrDevice at below ⊢
    omega
  have module : addrModule (a + k) = addrModule a := by
    unfold addrDevice at below
    unfold addrModule bits
    have same : (a + k) / 2 ^ 44 = a / 2 ^ 44 := by omega
    rw [same]
  refine ⟨⟨?_, ?_, ?_⟩, at_⟩
  · unfold addrOwn at own ⊢
    rw [module]
    exact own
  · rw [at_]
    omega
  · have apart := noneMeets_of_badSector sound
    unfold badSector
    rw [List.min?_eq_none_iff, List.filter_eq_nil_iff]
    intro x mem
    have far := apart x mem
    unfold meets at far ⊢
    rw [at_]
    simp only [Bool.and_eq_false_iff, decide_eq_false_iff_not] at far
    simp only [Bool.and_eq_true, decide_eq_true_eq]
    omega

/-- A read of the module's own memory where the same sectors are bad as at the start. -/
theorem readRange_sound {s : State} {d : Desk} {addr len : Nat} (plain : PlainSpan s addr len) (ue : d.mem.ue = s.desk.mem.ue) (n : Fin 64)
    (cache : List Host.Cell) : readRange (envOf s) d n cache addr len = ⟨d, cellReads d.mem.cells (addrDevice addr) len, none⟩ := by
  have plain' : PlainSpan { s with desk := d } addr len := ⟨plain.1, plain.2.1, (badSector_congr ue _ _).trans plain.2.2⟩
  exact readRange_plain plain' rfl n cache

/-! ## One piece -/

/-- The bytes of a piece. -/
def pieceOf (src : Nat → Byte) (k j : Nat) : Bytes := (List.range j).map fun i => src (k + i)

theorem pieceOf_add (src : Nat → Byte) (k j : Nat) : pieceOf src 0 (k + j) = pieceOf src 0 k ++ pieceOf src k j := by
  unfold pieceOf
  rw [List.range_add, List.map_append, List.map_map]
  simp only [Function.comp_def, Nat.zero_add]

theorem pieceOf_getElem (src : Nat → Byte) (k j i : Nat) (below : i < (pieceOf src k j).length) : (pieceOf src k j)[i] = src (k + i) := by
  simp [pieceOf]

theorem crc64_append (a b : Bytes) : crc64From (crc64 a) b = crc64 (a ++ b) := (List.foldl_append).symm

/-- The digest of a command's output after a piece: a LOAD forms none. -/
def pieceDigest (x : Xfer) (c : Cmd) (bs : Bytes) : BitVec 64 :=
  if x.src.isSome && pktOp c.pkt != some .copy then c.digest else crc64From c.digest bs

/-- The command once a piece has landed. -/
def pieceLanded (now : Nat) (x : Xfer) (c : Cmd) (bs : Bytes) : Cmd :=
  { c with done := c.done + bs.length, progressAt := now, cache := [], digest := pieceDigest x c bs }

/-- A piece that reads and lands whole. -/
theorem movePiece_lands {e : Env} {d d1 : Desk} {n : Fin 64} {c : Cmd} {x : Xfer} {bs : Bytes} (none : readsOut c = false)
    (ready : pieceMissing e c x = false) (read : pieceRead e d n c x (min 1048576 (x.len - c.done)) = ⟨d, bs, .none⟩)
    (put : cmdPut e d n c 3 (x.dst + c.done) bs = ⟨d1, c, bs, true⟩) : movePiece e d n c x = (d1, pieceLanded d.now x c bs) := by
  unfold movePiece
  simp only [none, ready, read, put, Bool.false_eq_true, if_false]
  rfl

/-- How far a transfer has come: `k` bytes of its source stand at its destination. -/
structure Moved (d0 : Desk) (c0 : Cmd) (dst : Nat) (src : Nat → Byte) (k : Nat) (d : Desk) (c : Cmd) : Prop where
  desk : d = { d0 with mem := d.mem }
  ue : d.mem.ue = d0.mem.ue
  stored : StoredAt d0 d (addrDevice dst) k src
  cmd : ∃ at_ cache digest, c = { c0 with done := k, progressAt := at_, cache := cache, digest := digest } ∧
    (pktOp c0.pkt = some .copy → digest = crc64 (pieceOf src 0 k))

theorem Moved.at_done {d0 d : Desk} {c0 c : Cmd} {dst k : Nat} {src : Nat → Byte} (m : Moved d0 c0 dst src k d c) : c.done = k := by
  obtain ⟨_, _, _, is_c, -⟩ := m.cmd
  rw [is_c]

/-- What a transfer reads, as far as it has come: no part of its source is lost, on its way or still to be asked for. -/
def Supplies (s : State) (c0 : Cmd) (x : Xfer) (src : Nat → Byte) (n : Fin 64) : Prop :=
  ∀ k d c, Moved s.desk c0 x.dst src k d c → k < x.len → ∀ j, 0 < j → k + j ≤ x.len →
    pieceMissing (envOf s) c x = false ∧ pieceRead (envOf s) d n c x j = ⟨d, pieceOf src k j, none⟩

/-- Bytes of a source stand at a place of a memory, and the rest of it is as it was. -/
def Stands (before after : List Host.Cell) (a k : Nat) (src : Nat → Byte) : Prop :=
  (∀ i, i < k → cellRead after (a + i) = src i) ∧ ∀ x, x < a ∨ a + k ≤ x → cellRead after x = cellRead before x

theorem storedAt_iff {d e : Desk} {a k : Nat} {src : Nat → Byte} : StoredAt d e a k src ↔ Stands d.mem.cells e.mem.cells a k src := Iff.rfl

theorem stands_start (l : List Host.Cell) (a : Nat) (src : Nat → Byte) : Stands l l a 0 src :=
  ⟨fun i none => absurd none (Nat.not_lt_zero i), fun _ _ => rfl⟩

theorem stands_more {l m : List Host.Cell} {a k : Nat} {src : Nat → Byte} (before : Stands l m a k src) (j : Nat) :
    Stands l (cellWrites m (a + k) (pieceOf src k j)) a (k + j) src := by
  obtain ⟨here, others⟩ := before
  have len : (pieceOf src k j).length = j := by simp [pieceOf]
  refine ⟨fun i inside => ?_, fun x outside => ?_⟩
  · by_cases old : i < k
    · rw [cellRead_writes_ne _ _ (by omega)]
      exact here i old
    · have at_ : a + i = a + k + (i - k) := by omega
      rw [at_, cellRead_writes_same _ _ _ _ (by omega), pieceOf_getElem]
      congr 1
      omega
  · rw [cellRead_writes_ne _ _ (by omega)]
    exact others x (by omega)

theorem movePiece_moved {s : State} {c0 : Cmd} {x : Xfer} {src : Nat → Byte} {n : Fin 64} {k : Nat} {d : Desk} {c : Cmd}
    (supplies : Supplies s c0 x src n) (room : PlainSpan s x.dst x.len) (local_ : c0.remote = []) (m : Moved s.desk c0 x.dst src k d c)
    (more : k < x.len) : Moved s.desk c0 x.dst src (k + min 1048576 (x.len - k)) (movePiece (envOf s) d n c x).1 (movePiece (envOf s) d n c x).2 := by
  obtain ⟨at_, cache, digest, is_c, crc⟩ := m.cmd
  have done : c.done = k := by rw [is_c]
  have none : readsOut c = false := readsOut_local (by rw [is_c]; exact local_)
  have some_ : 0 < min 1048576 (x.len - k) := by omega
  obtain ⟨ready, read⟩ := supplies k d c m more (min 1048576 (x.len - k)) some_ (by omega)
  obtain ⟨span, place⟩ := plainSpan_piece room some_ (k := k) (by omega)
  generalize is_j : min 1048576 (x.len - k) = j at *
  have len : (pieceOf src k j).length = j := by simp [pieceOf]
  have put := cmdPut_plain (s := s) (d := d) (addr := x.dst + k) (bs := pieceOf src k j) (by rw [len]; exact span) m.ue
    (fun empty => absurd (len.symm.trans (congrArg List.length empty)) (by simp; omega)) n c 3
  have sound : badSector d.mem (addrDevice (x.dst + k)) (pieceOf src k j).length = Option.none := by
    rw [len, badSector_congr m.ue]
    exact span.2.2
  rw [movePiece_lands none ready (by rw [done, is_j]; exact read) (by rw [done]; exact put)]
  refine ⟨?_, ?_, ?_, d.now, [], pieceDigest x c (pieceOf src k j), ?_, fun copy => ?_⟩
  · rw [m.desk]
  · exact (memStore_ue sound).trans m.ue
  · have cells := memStore_cells (m := d.mem) sound
    rw [place] at cells
    rw [storedAt_iff, place]
    exact cells ▸ stands_more m.stored j
  · unfold pieceLanded
    rw [done, len, is_c]
  · have whole : pieceDigest x c (pieceOf src k j) = crc64From c.digest (pieceOf src k j) := if_neg (by
      rw [is_c]
      simp [copy])
    rw [whole, is_c, pieceOf_add, ← crc64_append]
    exact congrArg (fun v => crc64From v _) (crc copy)

/-! ## The pieces of a transfer -/

theorem movePieces_moved {s : State} {c0 : Cmd} {x : Xfer} {src : Nat → Byte} {n : Fin 64} (supplies : Supplies s c0 x src n)
    (room : PlainSpan s x.dst x.len) (local_ : c0.remote = []) (going : c0.stop = none) (units : Nat) {k : Nat} {r : Desk × Cmd}
    (m : Moved s.desk c0 x.dst src k r.1 r.2) (within : k ≤ x.len) :
    Moved s.desk c0 x.dst src (min x.len (k + 1048576 * units)) (movePieces (envOf s) x n units r).1 (movePieces (envOf s) x n units r).2 := by
  induction units generalizing k r with
  | zero =>
    rw [show min x.len (k + 1048576 * 0) = k by omega]
    exact m
  | succ units ih =>
    have stop : r.2.stop.isSome = false := by
      obtain ⟨_, _, _, is_c, -⟩ := m.cmd
      rw [is_c]
      exact congrArg Option.isSome going
    have done : r.2.done = k := m.at_done
    by_cases more : k < x.len
    · have moved : movePieces (envOf s) x n (units + 1) r = movePieces (envOf s) x n units (movePiece (envOf s) r.1 n r.2 x) :=
        if_neg (by simp [stop, done, more])
      rw [moved, show min x.len (k + 1048576 * (units + 1)) = min x.len (k + min 1048576 (x.len - k) + 1048576 * units) by omega]
      exact ih (movePiece_moved supplies room local_ m more) (by omega)
    · have moved : movePieces (envOf s) x n (units + 1) r = r := if_pos (by simp [stop, done]; omega)
      rw [moved, show min x.len (k + 1048576 * (units + 1)) = k by omega]
      exact m

theorem transferLimit_free (e : Env) (d : Desk) (c : Cmd) (x : Xfer) : ∃ f, (transferLimit e d c x).2 = { d with freeCtr := f } := by
  unfold transferLimit
  simp only
  split
  · exact ⟨d.freeCtr, rfl⟩
  · exact ⟨_, rfl⟩
  · exact ⟨d.freeCtr, rfl⟩

/-- A transfer whose pieces have all landed ends. -/
theorem transfer_done {e : Env} {d : Desk} {n : Fin 64} {o : Op} {units : Nat} {last : Desk → Cmd → Desk} {c : Cmd} {r : Desk × Cmd}
    (work : workOf d n o = some c) (pieces : movePieces e (xferOf o c.pkt) n units (d, beginWork d c) = r) (going : r.2.stop = none)
    (done : r.2.done = (xferOf o c.pkt).len) : ∃ f limit, transfer e d n o units last =
    last (endWork { r.1 with freeCtr := f } n r.2 stOk (leBytes 8 (xferOf o c.pkt).len) limit) r.2 := by
  obtain ⟨f, free⟩ := transferLimit_free e r.1 r.2 (xferOf o c.pkt)
  refine ⟨f, (transferLimit e r.1 r.2 (xferOf o c.pkt)).1, ?_⟩
  have unfolded : transfer e d n o units last =
      if r.2.stop.isSome || decide (r.2.done < (xferOf o c.pkt).len) then setCur r.1 n (some r.2)
      else last (endWork (transferLimit e r.1 r.2 (xferOf o c.pkt)).2 n r.2 stOk (leBytes 8 r.2.done)
        (transferLimit e r.1 r.2 (xferOf o c.pkt)).1) r.2 := by
    unfold transfer
    simp only [work, pieces]
  rw [unfolded, if_neg (by simp [going, done]), free, done]

/-- The command of a transfer that has ended OK. -/
def transferEnded (c : Cmd) (len limit : Nat) : Cmd :=
  { c with stage := .ended, status := stOk, result := slice (leBytes 8 len) 0 28, limit := limit }

theorem moved_start {d : Desk} {c : Cmd} {dst : Nat} {src : Nat → Byte} (stage : c.stage = .dispatched) (fresh : Untouched c) :
    Moved d (beginWork d c) dst src 0 d (beginWork d c) := by
  obtain ⟨done, -, -, -, digest, -⟩ := fresh
  rw [beginWork_dispatched d stage]
  refine ⟨rfl, rfl, stands_start d.mem.cells _ src, d.now, c.cache, c.digest, ?_, fun _ => digest⟩
  rw [← done]

/-- A transfer of sound bytes within the module, as far as its end. -/
theorem transfer_moves {s : State} {n : Fin 64} {o : Op} {c : Cmd} {units : Nat} {src : Nat → Byte} {last : Desk → Cmd → Desk}
    (h : AtHand s n o c) (clock : s.desk.tclkOff = false) (fresh : Untouched c)
    (supplies : Supplies s (beginWork s.desk c) (xferOf o c.pkt) src n) (room : PlainSpan s (xferOf o c.pkt).dst (xferOf o c.pkt).len)
    (enough : (xferOf o c.pkt).len ≤ 1048576 * units) : ∃ m f r c', transfer (envOf s) s.desk n o units last =
      last (withCur { s.desk with mem := m, freeCtr := f } n c') r ∧ r.pkt = c.pkt ∧ EndedAs c' c stOk ∧
      c'.result = slice (leBytes 8 (xferOf o c.pkt).len) 0 28 ∧ (o = .copy → c'.digest = crc64 (pieceOf src 0 (xferOf o c.pkt).len)) ∧
      StoredAt s.desk { s.desk with mem := m } (addrDevice (xferOf o c.pkt).dst) (xferOf o c.pkt).len src := by
  obtain ⟨cur, op, stage, stop⟩ := h
  have work := workOf_of cur op (.inl clock) (.inl stage) stop
  have start := moved_start (dst := (xferOf o c.pkt).dst) (src := src) (d := s.desk) stage fresh
  obtain ⟨-, -, remote, -⟩ := fresh
  have begun := beginWork_dispatched s.desk stage
  have m := movePieces_moved supplies room (by rw [begun]; exact remote) (by rw [begun]; exact stop) units
    (r := (s.desk, beginWork s.desk c)) start (Nat.zero_le _)
  rw [show min (xferOf o c.pkt).len (0 + 1048576 * units) = (xferOf o c.pkt).len by omega] at m
  generalize pieces : movePieces (envOf s) (xferOf o c.pkt) n units (s.desk, beginWork s.desk c) = r at m
  obtain ⟨desk, -, stored, at_, cache, digest, is_r, crc⟩ := m
  rw [begun] at is_r crc
  obtain ⟨f, limit, moved⟩ := transfer_done (last := last) work pieces (by rw [is_r]; exact stop) (by rw [is_r])
  refine ⟨r.1.mem, f, r.2, transferEnded r.2 (xferOf o c.pkt).len limit, moved.trans (congrArg (fun d => last d r.2) ?_), by rw [is_r], ?_, rfl,
    fun copy => ?_, stored⟩
  · exact congrArg (fun d => withCur { d with freeCtr := f } n (transferEnded r.2 (xferOf o c.pkt).len limit)) desk
  · rw [is_r]
    exact ⟨rfl, rfl, rfl, rfl, rfl, rfl⟩
  · show r.2.digest = _
    rw [is_r]
    exact crc (op.trans (congrArg some copy))

/-! ## Sources -/

/-- A source in the module's own sound memory, apart from the destination. -/
theorem supplies_own {s : State} {c0 : Cmd} {n : Fin 64} {a b len pattern : Nat} (plain : PlainSpan s a len)
    (apart : addrDevice a + len ≤ addrDevice b ∨ addrDevice b + len ≤ addrDevice a) :
    Supplies s c0 ⟨some a, b, len, pattern⟩ (fun i => cellRead s.desk.mem.cells (addrDevice a + i)) n := by
  intro k d c m more j some_ inside
  have done := m.at_done
  have inside : k + j ≤ len := inside
  obtain ⟨span, place⟩ := plainSpan_piece plain some_ inside
  constructor
  · have own : addrOwn (envOf s) (a + c.done) = true := done.symm ▸ span.1
    simp only [pieceMissing, own, Bool.not_true, Bool.false_and]
  · unfold pieceRead
    simp only [done, readRange_sound span m.ue]
    have same : cellReads d.mem.cells (addrDevice (a + k)) j = pieceOf (fun i => cellRead s.desk.mem.cells (addrDevice a + i)) k j := by
      refine List.map_congr_left fun i mem => ?_
      have below : i < j := List.mem_range.mp mem
      have clear := m.stored.2 (addrDevice a + k + i) (by
        show addrDevice a + k + i < addrDevice b ∨ addrDevice b + k ≤ addrDevice a + k + i
        omega)
      rw [place, clear, Nat.add_assoc]
    rw [same]

/-- A FILL's pattern. -/
theorem supplies_pattern (s : State) (c0 : Cmd) (n : Fin 64) (b len pattern : Nat) :
    Supplies s c0 ⟨none, b, len, pattern⟩ (fun i => BitVec.ofNat 8 (pattern / 256 ^ (i % 8))) n := by
  intro k d c m more j some_ inside
  have done := m.at_done
  refine ⟨rfl, ?_⟩
  unfold pieceRead pieceOf
  rw [done]

end Sys2Proof.Machine
end

section
/-! SUPPORT. Transfers from and to the memory of a partner: the requests of a range, and what they read and write. -/
namespace Sys2Proof.Machine

/-! ## The requests of a range -/

/-- The first `m` requests of a range. -/
def firstRequests (k n m : Nat) : List (Nat × Nat) := (List.range m).map fun i => (i * k, min k (n - i * k))

set_option Elab.async false in
theorem firstRequests_succ (k n m : Nat) : firstRequests k n (m + 1) = firstRequests k n m ++ [(m * k, min k (n - m * k))] := by
  unfold firstRequests
  rw [List.range_succ, List.map_append]
  rfl

theorem request_starts {k n m : Nat} (some_ : 0 < k) (before : m < ceilDiv n k) : m * k < n := by
  unfold ceilDiv at before
  have := (Nat.lt_div_iff_mul_lt some_).mp before
  omega

theorem requests_cover {k n : Nat} (some_ : 0 < k) : n ≤ ceilDiv n k * k := by
  unfold ceilDiv
  have := Nat.lt_div_mul_add (a := n + k - 1) some_
  omega

/-- How much of the range the first requests cover. -/
theorem requests_reach {k n m : Nat} (some_ : 0 < k) (before : m < ceilDiv n k) :
    min n (m * k) = m * k ∧ min n ((m + 1) * k) = m * k + min k (n - m * k) := by
  have starts := request_starts some_ before
  rw [Nat.succ_mul]
  omega

theorem sizeCode_pos (v : BitVec 3) : 0 < sizeCode v := Nat.mul_pos (by decide) (Nat.two_pow_pos _)

theorem readMax_pos (p : Port) : 0 < p.readMax := Nat.lt_min.mpr ⟨by decide, sizeCode_pos _⟩

theorem writeMax_pos (p : Port) : 0 < p.writeMax := Nat.lt_min.mpr ⟨by decide, sizeCode_pos _⟩

/-! ## Reads through the windows -/

theorem cellReads_piece (l : List Host.Cell) (h k j : Nat) : cellReads l (h + k) j = pieceOf (fun i => cellRead l (h + i)) k j := by
  simp only [cellReads, pieceOf, Nat.add_assoc]

theorem hostReads_land {d : Desk} {n : Fin 64} {p : Port} (is_p : p = d.ports.at (queuePort n)) {a h len : Nat} (m : Nat)
    (within : m ≤ ceilDiv len p.readMax)
    (mapped : ∀ r ∈ firstRequests p.readMax len m, windowTarget p false (a + r.1) r.2 = some (h + r.1)) :
    (firstRequests p.readMax len m).foldl (hostRead1 n a) ⟨d, [], none⟩ =
      ⟨d, pieceOf (fun i => cellRead p.host (h + i)) 0 (min len (m * p.readMax)), none⟩ := by
  induction m with
  | zero => simp [firstRequests, pieceOf]
  | succ m ih =>
    rw [firstRequests_succ] at mapped ⊢
    have reach := requests_reach (readMax_pos p) (Nat.lt_of_succ_le within)
    have last := mapped _ (List.mem_append_right _ (List.mem_singleton.mpr rfl))
    rw [List.foldl_append, ih (by omega) fun r mem => mapped r (List.mem_append_left _ mem), List.foldl_cons, List.foldl_nil]
    unfold hostRead1
    simp only [← is_p, last]
    rw [cellReads_piece, reach.1, reach.2, pieceOf_add]

/-- A range of a partner's memory is read whole through its windows. -/
theorem readRange_host {e : Env} {d : Desk} {n : Fin 64} {p : Port} {addr h len : Nat} {cache : List Host.Cell} (own : addrOwn e addr = true)
    (host : hostBase ≤ addrDevice addr) (is_p : p = d.ports.at (queuePort n))
    (mapped : ∀ r ∈ requests p.readMax len, windowTarget p false (addrDevice addr + r.1) r.2 = some (h + r.1)) :
    readRange e d n cache addr len = ⟨d, pieceOf (fun i => cellRead p.host (h + i)) 0 len, none⟩ := by
  have land := hostReads_land is_p (ceilDiv len p.readMax) (Nat.le_refl _) mapped
  rw [Nat.min_eq_left (requests_cover (readMax_pos p))] at land
  unfold readRange
  simp only [own, Bool.not_true, Bool.false_eq_true, if_false]
  rw [if_pos host, ← is_p]
  exact land

/-! ## Writes through the windows -/

theorem pieceOf_slice (src : Nat → Byte) {len k j : Nat} (inside : k + j ≤ len) : ((pieceOf src 0 len).drop k).take j = pieceOf src k j := by
  refine List.ext_getElem (by simp [pieceOf]; omega) fun i _ _ => ?_
  simp [pieceOf]

theorem windowTarget_host (p : Port) (l : List Host.Cell) (write : Bool) (a n : Nat) :
    windowTarget { p with host := l } write a n = windowTarget p write a n := rfl

theorem hostWrites_land {d : Desk} {n : Fin 64} {p : Port} (is_p : p = d.ports.at (queuePort n)) {a h len : Nat} {src : Nat → Byte} (m : Nat)
    (within : m ≤ ceilDiv len p.writeMax)
    (mapped : ∀ r ∈ firstRequests p.writeMax len m, windowTarget p true (a + r.1) r.2 = some (h + r.1)) : ∃ l,
    (firstRequests p.writeMax len m).foldl (hostWrite1 n a (pieceOf src 0 len)) ⟨d, [], none⟩ =
      ⟨{ d with ports := d.ports.put (queuePort n) { p with host := l } }, pieceOf src 0 (min len (m * p.writeMax)), none⟩ ∧
    Stands p.host l h (min len (m * p.writeMax)) src := by
  induction m with
  | zero =>
    refine ⟨p.host, ?_, ?_⟩
    · have same : d.ports.put (queuePort n) { p with host := p.host } = d.ports := by
        rw [is_p]
        exact Tab.put_at_self _ _
      rw [same]
      simp [firstRequests, pieceOf]
    · rw [Nat.zero_mul, Nat.min_zero]
      exact stands_start _ _ _
  | succ m ih =>
    rw [firstRequests_succ] at mapped ⊢
    obtain ⟨l, land, stands⟩ := ih (by omega) fun r mem => mapped r (List.mem_append_left _ mem)
    have before := Nat.lt_of_succ_le within
    have starts := request_starts (writeMax_pos p) before
    obtain ⟨whole, reach⟩ := requests_reach (writeMax_pos p) before
    have last := mapped _ (List.mem_append_right _ (List.mem_singleton.mpr rfl))
    rw [whole] at land stands
    refine ⟨cellWrites l (h + m * p.writeMax) (pieceOf src (m * p.writeMax) (min p.writeMax (len - m * p.writeMax))), ?_, ?_⟩
    · rw [List.foldl_append, land, List.foldl_cons, List.foldl_nil, reach, pieceOf_add]
      unfold hostWrite1
      simp only [Tab.at_put_same, windowTarget_host, last, Tab.put_put]
      rw [pieceOf_slice src (by omega)]
    · rw [reach]
      exact stands_more stands _

/-- A range of a partner's memory is written whole through its windows. -/
theorem writeRange_host {e : Env} {d : Desk} {n : Fin 64} {p : Port} {addr h len : Nat} {src : Nat → Byte} (own : addrOwn e addr = true)
    (host : hostBase ≤ addrDevice addr) (is_p : p = d.ports.at (queuePort n))
    (mapped : ∀ r ∈ requests p.writeMax len, windowTarget p true (addrDevice addr + r.1) r.2 = some (h + r.1)) : ∃ l,
    writeRange e d n addr (pieceOf src 0 len) =
      ⟨{ d with ports := d.ports.put (queuePort n) { p with host := l } }, pieceOf src 0 len, none⟩ ∧ Stands p.host l h len src := by
  obtain ⟨l, land, stands⟩ := hostWrites_land (src := src) is_p (ceilDiv len p.writeMax) (Nat.le_refl _) mapped
  rw [Nat.min_eq_left (requests_cover (writeMax_pos p))] at land stands
  refine ⟨l, ?_, stands⟩
  have size : (pieceOf src 0 len).length = len := by simp [pieceOf]
  unfold writeRange
  simp only [own, Bool.not_true, Bool.false_eq_true, if_false]
  rw [if_pos host, ← is_p, size]
  exact land

/-! ## Transfers of one piece -/

theorem movePieces_rest {e : Env} {x : Xfer} {n : Fin 64} {r : Desk × Cmd} (over_ : (r.2.stop.isSome || decide (x.len ≤ r.2.done)) = true)
    (units : Nat) : movePieces e x n units r = r := by
  cases units with
  | zero => rfl
  | succ units => exact if_pos over_

/-- A transfer that its first piece ends. -/
theorem movePieces_once {e : Env} {x : Xfer} {n : Fin 64} {units : Nat} {d : Desk} {c : Cmd} {r : Desk × Cmd} (some_ : 0 < units)
    (going : c.stop = none) (more : c.done < x.len) (piece : movePiece e d n c x = r)
    (over_ : (r.2.stop.isSome || decide (x.len ≤ r.2.done)) = true) : movePieces e x n units (d, c) = r := by
  obtain ⟨units, rfl⟩ : ∃ u, units = u + 1 := ⟨units - 1, by omega⟩
  have first : movePieces e x n (units + 1) (d, c) = movePieces e x n units (movePiece e d n c x) :=
    if_neg (by simp [going, more])
  rw [first, piece]
  exact movePieces_rest over_ units

theorem begun_fresh {d : Desk} {c : Cmd} (stage : c.stage = .dispatched) (fresh : Untouched c) :
    (beginWork d c).done = 0 ∧ readsOut (beginWork d c) = false := by
  obtain ⟨done, -, remote, -⟩ := fresh
  rw [beginWork_dispatched d stage]
  exact ⟨done, readsOut_local remote⟩

/-- A transfer of one piece that reads and lands whole. -/
theorem transfer_once {s : State} {n : Fin 64} {o : Op} {c : Cmd} {units : Nat} {last : Desk → Cmd → Desk} {bs : Bytes} {d1 : Desk}
    (h : AtHand s n o c) (clock : s.desk.tclkOff = false) (fresh : Untouched c) (some_ : 0 < units) (more : 0 < (xferOf o c.pkt).len)
    (one : (xferOf o c.pkt).len ≤ 1048576) (size : bs.length = (xferOf o c.pkt).len)
    (ready : pieceMissing (envOf s) (beginWork s.desk c) (xferOf o c.pkt) = false)
    (read : pieceRead (envOf s) s.desk n (beginWork s.desk c) (xferOf o c.pkt) (xferOf o c.pkt).len = ⟨s.desk, bs, none⟩)
    (put : cmdPut (envOf s) s.desk n (beginWork s.desk c) 3 (xferOf o c.pkt).dst bs = ⟨d1, beginWork s.desk c, bs, true⟩) :
    ∃ f r c', transfer (envOf s) s.desk n o units last = last (withCur { d1 with freeCtr := f } n c') r ∧ EndedAs c' c stOk ∧
      c'.result = slice (leBytes 8 (xferOf o c.pkt).len) 0 28 := by
  obtain ⟨cur, op, stage, stop⟩ := h
  obtain ⟨zero, none⟩ := begun_fresh (d := s.desk) stage fresh
  obtain ⟨-, -, -, going, -⟩ := beginWork_rest (d := s.desk) stage
  have work := workOf_of cur op (.inl clock) (.inl stage) stop
  have piece := movePiece_lands (x := xferOf o c.pkt) none ready
    (by rw [zero, Nat.sub_zero, Nat.min_eq_right one]; exact read) (by rw [zero, Nat.add_zero]; exact put)
  have done : (pieceLanded s.desk.now (xferOf o c.pkt) (beginWork s.desk c) bs).done = (xferOf o c.pkt).len := by
    show (beginWork s.desk c).done + bs.length = _
    rw [zero, Nat.zero_add, size]
  have pieces := movePieces_once some_ (going.trans stop) (by rw [zero]; exact more) piece (by simp [done])
  obtain ⟨f, limit, moved⟩ := transfer_done (last := last) work pieces (going.trans stop) done
  refine ⟨f, _, transferEnded (pieceLanded s.desk.now (xferOf o c.pkt) (beginWork s.desk c) bs) (xferOf o c.pkt).len limit, moved, ?_, rfl⟩
  unfold transferEnded pieceLanded
  rw [beginWork_dispatched s.desk stage]
  exact ⟨rfl, rfl, rfl, rfl, rfl, rfl⟩

/-- The command of a transfer that has met a lost byte. -/
def pieceLost (now : Nat) (c : Cmd) : Cmd := { c with stop := some .dataLost, stopAt := now, fault := true }

/-- A transfer whose first piece meets a bad sector writes nothing, and its command is told to stop. -/
theorem transfer_lost {s : State} {n : Fin 64} {o : Op} {c : Cmd} {units : Nat} {last : Desk → Cmd → Desk} {bs : Bytes} {d1 : Desk}
    (h : AtHand s n o c) (clock : s.desk.tclkOff = false) (fresh : Untouched c) (some_ : 0 < units) (more : 0 < (xferOf o c.pkt).len)
    (one : (xferOf o c.pkt).len ≤ 1048576)
    (ready : pieceMissing (envOf s) (beginWork s.desk c) (xferOf o c.pkt) = false)
    (read : pieceRead (envOf s) s.desk n (beginWork s.desk c) (xferOf o c.pkt) (xferOf o c.pkt).len = ⟨d1, bs, some .dataLost⟩) :
    ∃ c', transfer (envOf s) s.desk n o units last = withCur d1 n c' ∧ c'.stop = some .dataLost ∧ c'.done = 0 := by
  obtain ⟨cur, op, stage, stop⟩ := h
  obtain ⟨zero, none⟩ := begun_fresh (d := s.desk) stage fresh
  obtain ⟨-, -, -, going, -⟩ := beginWork_rest (d := s.desk) stage
  have work := workOf_of cur op (.inl clock) (.inl stage) stop
  have read' : pieceRead (envOf s) s.desk n (beginWork s.desk c) (xferOf o c.pkt)
      (min 1048576 ((xferOf o c.pkt).len - (beginWork s.desk c).done)) = ⟨d1, bs, some .dataLost⟩ := by
    rw [zero, Nat.sub_zero, Nat.min_eq_right one]
    exact read
  have piece : movePiece (envOf s) s.desk n (beginWork s.desk c) (xferOf o c.pkt) = (d1, pieceLost s.desk.now (beginWork s.desk c)) := by
    unfold movePiece
    simp only [none, ready, read', Bool.false_eq_true, if_false]
    rfl
  have pieces := movePieces_once some_ (going.trans stop) (by rw [zero]; exact more) piece rfl
  refine ⟨pieceLost s.desk.now (beginWork s.desk c), ?_, rfl, zero⟩
  unfold transfer
  simp only [work, pieces]
  rfl

/-! ## Transfers and what follows them -/

/-- A command at its end in its queue, and what follows it. -/
theorem withCur_settled (s : State) (d : Desk) (n : Fin 64) (c : Cmd) :
    let t := settle { s with desk := withCur d n c }
    (t.desk.sqs.at n).cur = some c ∧ t.desk.mem = d.mem ∧ t.desk.ports = d.ports ∧ t.desk.errs = d.errs ∧ OnlyDesk s t := by
  intro t
  have same : t.desk = { withCur d n c with
      tx := t.desk.tx, out := t.desk.out, deadlockSince := t.desk.deadlockSince, marks := t.desk.marks, drain := t.desk.drain } :=
    settle_desk_eq { s with desk := withCur d n c }
  refine ⟨?_, by rw [same]; rfl, by rw [same]; rfl, by rw [same]; rfl, onlyDesk_settled _ _⟩
  rw [same]
  exact withCur_cur _ _ _

theorem transfer_onlyMemory {s : State} {d : Desk} {n : Fin 64} (m : Memory) (f : Nat) (c : Cmd) :
    OnlyMemory d (settle { s with desk := withCur { d with mem := m, freeCtr := f } n c }).desk n :=
  onlyMemory_settled (s := { s with desk := d }) (u := { s with desk := withCur { d with mem := m, freeCtr := f } n c })
    ⟨rfl, fun _ other => withCur_ne _ _ other⟩

/-- A bad sector of the module's own memory is read, noted and fails. -/
theorem readRange_lost {e : Env} {d : Desk} {n : Fin 64} {cache : List Host.Cell} {addr len k : Nat} (own : addrOwn e addr = true)
    (below : addrDevice addr + len ≤ tableBase) (more : 0 < len) (bad : badSector d.mem (addrDevice addr) len = some k) :
    readRange e d n cache addr len = ⟨noteUe d (32 * k) (some n.val) 5, cellReads d.mem.cells (addrDevice addr) len, some .dataLost⟩ := by
  have memory : addrDevice addr < tableBase := by omega
  unfold readRange
  simp only [own, Bool.not_true, Bool.false_eq_true, if_false]
  rw [if_neg (Nat.not_le.mpr (Nat.lt_trans memory tableBase_lt_hostBase)), if_neg (Nat.not_le.mpr memory), bad]

theorem stands_whole (l : List Host.Cell) (a j : Nat) (src : Nat → Byte) : Stands l (cellWrites l a (pieceOf src 0 j)) a j src := by
  have more := stands_more (stands_start l a src) j
  rw [Nat.zero_add, Nat.add_zero] at more
  exact more

theorem pieceOf_length (src : Nat → Byte) (k j : Nat) : (pieceOf src k j).length = j := by simp [pieceOf]

/-- A source of the module's own, at the start of a transfer. -/
theorem piece_first {e : Env} {d d1 : Desk} {n : Fin 64} {c : Cmd} {a b len pattern : Nat} {bs : Bytes} {f : Option Stop} (zero : c.done = 0)
    (own : addrOwn e a = true) (read : ∀ cache, readRange e d n cache a len = ⟨d1, bs, f⟩) :
    pieceMissing e c ⟨some a, b, len, pattern⟩ = false ∧ pieceRead e d n c ⟨some a, b, len, pattern⟩ len = ⟨d1, bs, f⟩ := by
  unfold pieceMissing pieceRead
  simp only [zero, Nat.add_zero, own, Bool.not_true, Bool.false_and, read, and_self]

/-- A LOAD of sound bytes writes its part and records its base. -/
theorem load_moves {s : State} {n : Fin 64} {o : Op} {c : Cmd} {units a b len : Nat} (h : AtHand s n o c) (clock : s.desk.tclkOff = false)
    (fresh : Untouched c) (names : xferOf o c.pkt = ⟨some a, b, len, 0⟩) (plain : PlainSpan s a len) (room : PlainSpan s b len)
    (apart : addrDevice a + len ≤ addrDevice b ∨ addrDevice b + len ≤ addrDevice a) (enough : len ≤ 1048576 * units) : ∃ t c',
    (onDesk s fun e d => transfer e d n o units fun d c => updSlot d (cmdSlot c) (recordBase o c.pkt)) = t ∧
    (t.desk.sqs.at n).cur = some c' ∧ EndedAs c' c stOk ∧ c'.result = slice (leBytes 8 len) 0 28 ∧
    StoredAt s.desk t.desk (addrDevice b) len (fun i => cellRead s.desk.mem.cells (addrDevice a + i)) ∧
    OnlyMemory (withSlot s.desk (pktSlot c.pkt) (recordBase o c.pkt (s.desk.slots.at (pktSlot c.pkt)))) t.desk n ∧ OnlyDesk s t := by
  have supplies := supplies_own (c0 := beginWork s.desk c) (n := n) (pattern := 0) plain apart
  rw [← names] at supplies
  obtain ⟨m, f, r, c', moved, pkt, ended, result, -, stored⟩ := transfer_moves (units := units)
    (last := fun d c => updSlot d (cmdSlot c) (recordBase o c.pkt)) h clock fresh supplies
    (by rw [names]; exact room) (by rw [names]; exact enough)
  rw [names] at result stored
  rw [show cmdSlot r = pktSlot r.pkt from rfl, pkt] at moved
  obtain ⟨y, is_y⟩ : ∃ y, y = recordBase o c.pkt (s.desk.slots.at (pktSlot c.pkt)) := ⟨_, rfl⟩
  have recorded : updSlot (withCur { s.desk with mem := m, freeCtr := f } n c') (pktSlot c.pkt) (recordBase o c.pkt) =
      withCur { withSlot s.desk (pktSlot c.pkt) y with mem := m, freeCtr := f } n c' := by
    rw [is_y]
    rfl
  rw [recorded] at moved
  rw [← is_y]
  obtain ⟨cur, mem, -, -, only⟩ := withCur_settled s { withSlot s.desk (pktSlot c.pkt) y with mem := m, freeCtr := f } n c'
  refine ⟨_, c', congrArg (fun d => settle { s with desk := d }) moved, cur, ended, result, ?_, transfer_onlyMemory m f c', only⟩
  rw [storedAt_iff, mem]
  exact stored

/-- Settles O46, piece by piece within the module and by one piece through the windows. -/
theorem transfersMoveBytes : Obligations.TransfersMoveBytes := by
  unfold Obligations.TransfersMoveBytes
  intro s n c units a b len fresh clock
  refine ⟨fun h is_a is_b is_len => ⟨?copy, ?fromHost, ?toHost, ?lost⟩, ?fill, ?load⟩
  case copy =>
    intro plain room apart enough
    subst is_a is_b is_len
    obtain ⟨m, f, r, c', moved, -, ended, result, digest, stored⟩ := transfer_moves (last := fun d _ => d) h clock fresh
      (supplies_own (c0 := beginWork s.desk c) (n := n) (pattern := 0) plain apart) room enough
    obtain ⟨cur, mem, -, -, only⟩ := withCur_settled s { s.desk with mem := m, freeCtr := f } n c'
    refine ⟨_, c', congrArg (fun d => Host.Outcome.next (settle { s with desk := d })) moved, cur, ended, result, (digest rfl).trans ?_, ?_,
      transfer_onlyMemory m f c', only⟩
    · rw [← cellReads_piece, Nat.add_zero]
      rfl
    · rw [storedAt_iff, mem]
      exact stored
  case fromHost =>
    intro base own host more one some_ mapped room
    subst is_a is_b is_len
    obtain ⟨zero, -⟩ := begun_fresh (d := s.desk) h.2.2.1 fresh
    generalize is_src : (fun i => cellRead (s.desk.ports.at (queuePort n)).host (base + i)) = src at *
    have read := fun cache => readRange_host (d := s.desk) (cache := cache) own host rfl mapped
    rw [is_src] at read
    obtain ⟨ready, read⟩ := piece_first (b := field c.pkt 24 8) (pattern := 0) zero own read
    have size := pieceOf_length src 0 (field c.pkt 32 8)
    have put := cmdPut_plain (s := s) (bs := pieceOf src 0 (field c.pkt 32 8)) (by rw [size]; exact room) rfl
      (fun empty => absurd (size.symm.trans (congrArg List.length empty)) (by simp; omega)) n (beginWork s.desk c) 3
    obtain ⟨f, r, c', moved, ended, result⟩ := transfer_once (last := fun d _ => d) h clock fresh some_ more one size ready read put
    obtain ⟨cur, mem, ports, -, -⟩ := withCur_settled s { s.desk with
      mem := memStore s.desk.mem (addrDevice (field c.pkt 24 8)) (pieceOf src 0 (field c.pkt 32 8)), freeCtr := f } n c'
    refine ⟨_, c', congrArg (fun d => Host.Outcome.next (settle { s with desk := d })) moved, cur, ended, result, ?_, ports⟩
    rw [storedAt_iff, mem]
    show Stands _ (memStore s.desk.mem _ _).cells _ _ _
    rw [memStore_cells (by rw [size]; exact room.2.2)]
    exact stands_whole _ _ _ _
  case toHost =>
    intro base plain own host more one some_ mapped
    subst is_a is_b is_len
    obtain ⟨zero, -⟩ := begun_fresh (d := s.desk) h.2.2.1 fresh
    have read := fun cache => readRange_plain (d := s.desk) plain rfl n cache
    have whole : cellReads s.desk.mem.cells (addrDevice (field c.pkt 16 8)) (field c.pkt 32 8) =
        pieceOf (fun i => cellRead s.desk.mem.cells (addrDevice (field c.pkt 16 8) + i)) 0 (field c.pkt 32 8) := cellReads_piece _ _ 0 _
    rw [whole] at read
    generalize is_src : (fun i => cellRead s.desk.mem.cells (addrDevice (field c.pkt 16 8) + i)) = src at *
    obtain ⟨ready, read⟩ := piece_first (b := field c.pkt 24 8) (pattern := 0) zero plain.1 read
    have size := pieceOf_length src 0 (field c.pkt 32 8)
    obtain ⟨l, wrote, stands⟩ := writeRange_host (d := s.desk) (src := src) own host rfl mapped
    have put : cmdPut (envOf s) s.desk n (beginWork s.desk c) 3 (field c.pkt 24 8) (pieceOf src 0 (field c.pkt 32 8)) =
        ⟨{ s.desk with ports := s.desk.ports.put (queuePort n) { s.desk.ports.at (queuePort n) with host := l } }, beginWork s.desk c,
          pieceOf src 0 (field c.pkt 32 8), true⟩ := by
      unfold cmdPut
      rw [if_neg (by simp [← List.length_eq_zero_iff, size]; omega), if_pos own, wrote]
    obtain ⟨f, r, c', moved, ended, result⟩ := transfer_once (last := fun d _ => d) h clock fresh some_ more one size ready read put
    obtain ⟨cur, mem, ports, -, -⟩ := withCur_settled s { s.desk with
      ports := s.desk.ports.put (queuePort n) { s.desk.ports.at (queuePort n) with host := l }, freeCtr := f } n c'
    refine ⟨_, c', congrArg (fun d => Host.Outcome.next (settle { s with desk := d })) moved, cur, ended, result, congrArg Memory.cells mem, ?_⟩
    rw [ports]
    show (∀ i, i < _ → cellRead ((s.desk.ports.put _ _).at _).host _ = _) ∧ ∀ x, _ → cellRead ((s.desk.ports.put _ _).at _).host x = _
    rw [Tab.at_put_same]
    refine ⟨fun i inside => (stands.1 i inside).trans ?_, stands.2⟩
    rw [← is_src]
  case lost =>
    intro k own below more one some_ bad
    subst is_a is_b is_len
    obtain ⟨zero, -⟩ := begun_fresh (d := s.desk) h.2.2.1 fresh
    obtain ⟨ready, read⟩ := piece_first (n := n) (b := field c.pkt 24 8) (pattern := 0) zero own fun cache =>
      readRange_lost (cache := cache) own below more bad
    obtain ⟨c', moved, stop, done⟩ := transfer_lost (last := fun d _ => d) h clock fresh some_ more one ready read
    obtain ⟨cur, mem, -, errs, -⟩ := withCur_settled s (noteUe s.desk (32 * k) (some n.val) 5) n c'
    exact ⟨_, c', congrArg (fun d => Host.Outcome.next (settle { s with desk := d })) moved, cur, stop, done,
      (congrArg Memory.cells mem).trans (noteUe_cells _ _ _ _), (congrArg Errs.logCount errs).trans (noteUe_logCount _ _ _ _)⟩
  case fill =>
    intro h is_b is_len room enough
    subst is_b is_len
    obtain ⟨m, f, r, c', moved, -, ended, result, -, stored⟩ := transfer_moves (last := fun d _ => d) h clock fresh
      (supplies_pattern s (beginWork s.desk c) n _ _ _) room enough
    obtain ⟨cur, mem, -, -, only⟩ := withCur_settled s { s.desk with mem := m, freeCtr := f } n c'
    refine ⟨_, c', congrArg (fun d => Host.Outcome.next (settle { s with desk := d })) moved, cur, ended, result, ?_,
      transfer_onlyMemory m f c', only⟩
    rw [storedAt_iff, mem]
    exact stored
  case load =>
    intro o h is_a is_b is_len plain room apart enough i y kind
    subst is_a is_b is_len
    obtain ⟨rfl, rfl, rfl⟩ | ⟨rfl, rfl, rfl⟩ | ⟨rfl, rfl, rfl⟩ := kind <;>
    · obtain ⟨t, c', moved, rest⟩ := load_moves h clock fresh rfl plain room apart enough
      exact ⟨t, c', congrArg Host.Outcome.next moved, rest⟩

end Sys2Proof.Machine
end

section
/-! SUPPORT. Commits: a slot that its tiles leave, the slot that a commit makes, and the commit that a lost byte ends. -/
namespace Sys2Proof.Machine

/-! ## A slot that its tiles leave -/

/-- A tile leaves a slot, where it holds it. -/
def leaveTile (i : Fin 64) (d : Desk) (l : Nat) : Desk :=
  match d.tiles.holds.at (fin 256 l) with
  | some h => if h.slot = i then holdTile d l none (groupSet []) else d
  | none => d

set_option Elab.async false in
theorem leaveSlot_eq (d : Desk) (i : Fin 64) : leaveSlot d i = (List.range 256).foldl (leaveTile i) d := rfl

theorem leaveTile_tiles (i : Fin 64) (d : Desk) (l : Nat) : OnlyTiles d (leaveTile i d l) := by
  unfold leaveTile
  split
  · split <;> rfl
  · rfl

theorem leaveSlot_tiles (d : Desk) (i : Fin 64) : OnlyTiles d (leaveSlot d i) := by
  rw [leaveSlot_eq]
  exact OnlyTiles.foldl (leaveTile_tiles i) _ d

/-- Whether a tile holds a slot. -/
def HoldsSlot (d : Desk) (i : Fin 64) (l : Fin 256) : Prop := ∃ h, d.tiles.holds.at l = some h ∧ h.slot = i

theorem leaveTile_leaves (i : Fin 64) (d : Desk) (l : Nat) : ¬ HoldsSlot (leaveTile i d l) i (fin 256 l) := by
  rintro ⟨h, holds, slot⟩
  unfold leaveTile at holds
  split at holds
  · split at holds
    · have none : (d.tiles.holds.put (fin 256 l) none).at (fin 256 l) = some h := holds
      rw [Tab.at_put_same] at none
      exact absurd none nofun
    · next h' held other =>
      rw [held] at holds
      exact other (Option.some.inj holds ▸ slot)
  · next held => exact absurd (held.symm.trans holds) nofun

theorem leaveTile_keeps (i : Fin 64) (d : Desk) (l : Nat) (k : Fin 256) (free : ¬ HoldsSlot d i k) : ¬ HoldsSlot (leaveTile i d l) i k := by
  by_cases same : k = fin 256 l
  · rw [same]
    exact leaveTile_leaves i d l
  · rintro ⟨h, holds, slot⟩
    refine free ⟨h, ?_, slot⟩
    unfold leaveTile at holds
    split at holds
    · split at holds
      · have kept : (d.tiles.holds.put (fin 256 l) none).at k = some h := holds
        rw [Tab.at_put_ne _ _ _ _ same] at kept
        exact kept
      · exact holds
    · exact holds

theorem leaveTiles_leave (i : Fin 64) (ls : List Nat) (d : Desk) (k : Fin 256) (left : k ∈ ls.map (fin 256) ∨ ¬ HoldsSlot d i k) :
    ¬ HoldsSlot (ls.foldl (leaveTile i) d) i k := by
  induction ls generalizing d with
  | nil => exact left.resolve_left (List.not_mem_nil)
  | cons l ls ih =>
    rw [List.foldl_cons]
    refine ih _ ?_
    obtain mem | free := left
    · obtain rfl | mem := List.mem_cons.mp mem
      · exact .inr (leaveTile_leaves i d l)
      · exact .inl mem
    · exact .inr (leaveTile_keeps i d l k free)

/-- No tile holds a slot that all have left. -/
theorem leaveSlot_leaves (d : Desk) (i : Fin 64) (k : Fin 256) : ¬ HoldsSlot (leaveSlot d i) i k := by
  rw [leaveSlot_eq]
  refine leaveTiles_leave i _ d k (.inl (List.mem_map.mpr ⟨k.val, List.mem_range.mpr k.isLt, ?_⟩))
  exact Fin.ext (Nat.mod_eq_of_lt k.isLt)

/-- A slot with a new record, after its tiles have left it. -/
theorem updSlot_left (d : Desk) (i : Fin 64) (f : Slot → Slot) : updSlot (leaveSlot d i) i f =
    { withSlot d i (f (d.slots.at i)) with tiles := (leaveSlot d i).tiles } := by
  have tiles := leaveSlot_tiles d i
  generalize leaveSlot d i = e at tiles
  rw [OnlyTiles] at tiles
  unfold updSlot
  rw [tiles]
  rfl

/-! ## Front Desk at the end of a commit -/

/-- Front Desk with a slot written anew, tiles taken or left, an open value drawn, and the command at its end. -/
def commitEnds (d : Desk) (n i : Fin 64) (x : Slot) (tiles : Tiles) (f : Nat) (c : Cmd) : Desk :=
  withCur { withSlot d i x with tiles := tiles, freeCtr := f } n c

theorem commitEnds_settled (s : State) (d : Desk) (n i : Fin 64) (x : Slot) (tiles : Tiles) (f : Nat) (c : Cmd) :
    let t := settle { s with desk := commitEnds d n i x tiles f c }
    (t.desk.sqs.at n).cur = some c ∧ t.desk.slots.at i = x ∧ (∀ j, j ≠ i → t.desk.slots.at j = d.slots.at j) ∧ t.desk.mem = d.mem ∧
    t.desk.tiles = tiles ∧ OnlyMemory { withSlot d i x with tiles := tiles } t.desk n ∧ OnlyDesk s t := by
  obtain ⟨sqs, -, slots, -, mem, -, -, tiles', -⟩ := settle_desk_rest { s with desk := commitEnds d n i x tiles f c }
  refine ⟨?_, ?_, fun j other => ?_, mem, tiles', ?_, onlyDesk_settled _ _⟩
  · rw [sqs]
    exact withCur_cur _ _ _
  · rw [slots]
    exact Tab.at_put_same _ _ _
  · rw [slots]
    exact Tab.at_put_ne _ _ _ _ other
  · exact onlyMemory_settled (s := { s with desk := { withSlot d i x with tiles := tiles } })
      (u := { s with desk := commitEnds d n i x tiles f c }) ⟨rfl, fun _ other => withCur_ne _ _ other⟩

/-- A command that has ended with these. -/
def endedWith (c : Cmd) (status : Nat) (result : Bytes) (limit : Nat) : Cmd :=
  { c with stage := .ended, status := status, result := slice result 0 28, limit := limit }

/-- A slot emptied: its tiles have left it, and its generation stays (R54). -/
theorem emptied_ends (d : Desk) (n i : Fin 64) (c : Cmd) (bs : Bytes) :
    endWork (openLimit (updSlot (leaveSlot d i) i emptySlot)).2 n c stOk bs (openLimit (updSlot (leaveSlot d i) i emptySlot)).1 =
    commitEnds d n i (emptySlot (d.slots.at i)) (leaveSlot d i).tiles (d.freeCtr + 1)
      (endedWith c stOk bs (openLimit (updSlot (leaveSlot d i) i emptySlot)).1) := by
  generalize (openLimit (updSlot (leaveSlot d i) i emptySlot)).1 = limit
  rw [updSlot_left]
  generalize (leaveSlot d i).tiles = tiles
  rfl

/-- A commit that meets a lost byte leaves its slot OPEN (R349). -/
theorem commitLost_ends (d : Desk) (n : Fin 64) {c : Cmd} {i : Fin 64} (at_ : pktSlot c.pkt = i) (b : Nat) : ∃ limit tiles, commitLost d n c b =
    commitEnds (noteUe d (32 * b) (some n.val) 5) n i (openSlot (queuePort n) (d.slots.at i)) tiles (d.freeCtr + 1)
      (endedWith { c with fault := true } stDataLost [] limit) := by
  subst at_
  unfold commitLost
  simp only
  generalize is_e : noteUe d (32 * b) (some n.val) 5 = e
  have slots : e.slots = d.slots := by rw [← is_e]; rfl
  have free : e.freeCtr = d.freeCtr := by rw [← is_e]; rfl
  refine ⟨(openLimit (updSlot (leaveSlot e (cmdSlot c)) (cmdSlot c) (openSlot (queuePort n)))).1, (leaveSlot e (pktSlot c.pkt)).tiles, ?_⟩
  generalize (openLimit (updSlot (leaveSlot e (cmdSlot c)) (cmdSlot c) (openSlot (queuePort n)))).1 = limit
  rw [updSlot_left, ← slots, ← free, show cmdSlot c = pktSlot c.pkt from rfl]
  generalize (leaveSlot e (pktSlot c.pkt)).tiles = left
  rfl

/-! ## Writes of a commit -/

theorem storeAll_memory (d : Desk) (ws : List (Nat × Bytes)) : ∃ m : Memory, (storeAll d ws).1 = { d with mem := m } := by
  have step : ∀ x : Desk × Option Nat, ∃ m : Memory, (ws.foldl (fun (x : Desk × Option Nat) w =>
      if x.2.isSome then x
      else ({ x.1 with mem := memStore x.1.mem w.1 (w.2.take (soundPrefix x.1.mem w.1 w.2.length)) },
        (narrowHits x.1.mem w.1 w.2.length).min?)) x).1 = { x.1 with mem := m } := by
    induction ws with
    | nil => exact fun x => ⟨x.1.mem, rfl⟩
    | cons w ws ih =>
      intro x
      rw [List.foldl_cons]
      split
      · exact ih x
      · obtain ⟨m, stored⟩ := ih ({ x.1 with mem := memStore x.1.mem w.1 (w.2.take (soundPrefix x.1.mem w.1 w.2.length)) },
          (narrowHits x.1.mem w.1 w.2.length).min?)
        exact ⟨m, stored⟩
  exact step (d, none)

/-- The slot that a commit makes (R58, R115). -/
def commitsTo (d : Desk) (n i : Fin 64) (p : CommitParams) (x : Parts) (counts tiles : List Nat) : Slot :=
  { committedSlot (d.slots.at i) (queuePort n) p x counts with dirRuns := dirOnChip d i (buildImage p x) counts tiles }

/-- Front Desk with a committed slot on its tiles. -/
def commitTaken (d : Desk) (i : Fin 64) (x : Slot) (tiles : List Nat) : Desk :=
  takeTiles (updSlot (leaveSlot d i) i fun _ => x) tiles (some i)

theorem commitTaken_eq (d : Desk) (i : Fin 64) (x : Slot) (tiles : List Nat) : ∃ ts, commitTaken d i x tiles = { withSlot d i x with tiles := ts } := by
  have taken := takeTiles_tiles (updSlot (leaveSlot d i) i fun _ => x) tiles (some i)
  unfold commitTaken
  generalize takeTiles (updSlot (leaveSlot d i) i fun _ => x) tiles (some i) = e at taken
  rw [OnlyTiles, updSlot_left] at taken
  exact ⟨e.tiles, taken⟩

theorem commitImage_stored {d d1 : Desk} {n : Fin 64} {c : Cmd} {p : CommitParams} {x : Parts} {counts : List Nat} (result : Slot → Bytes)
    (stored : storeAll d (commitStores d (pktSlot c.pkt) p x counts c.tiles) = (d1, none)) (slots : d1.slots = d.slots) : ∃ f,
    commitImage d n c p x counts result =
      endWork (openLimit (commitTaken { d1 with freeCtr := f } (pktSlot c.pkt) (commitsTo d n (pktSlot c.pkt) p x counts c.tiles) c.tiles)).2 n
        { c with digest := imageDigest p x } stOk (result (commitsTo d n (pktSlot c.pkt) p x counts c.tiles))
        (openLimit (commitTaken { d1 with freeCtr := f } (pktSlot c.pkt) (commitsTo d n (pktSlot c.pkt) p x counts c.tiles) c.tiles)).1 := by
  refine ⟨d.freeCtr + sumNat ((spillRuns d (pktSlot c.pkt) (buildImage p x) counts c.tiles p.work).map fun r => r.2.length), ?_⟩
  unfold commitImage commitTaken commitsTo
  simp only [show cmdSlot c = pktSlot c.pkt from rfl, stored, slots]
  rfl

/-- A commit whose writes all land. -/
theorem commitImage_ends {d d1 : Desk} {n : Fin 64} {c : Cmd} {p : CommitParams} {x : Parts} {counts tiles : List Nat}
    {i : Fin 64} (result : Slot → Bytes) (at_ : pktSlot c.pkt = i) (on : c.tiles = tiles)
    (stored : storeAll d (commitStores d i p x counts tiles) = (d1, none)) : ∃ held f limit,
    commitImage d n c p x counts result = commitEnds d1 n i (commitsTo d n i p x counts tiles) held f
      (endedWith { c with digest := imageDigest p x } stOk (result (commitsTo d n i p x counts tiles)) limit) := by
  subst at_ on
  have slots : d1.slots = d.slots := by
    obtain ⟨m, same⟩ := storeAll_memory d (commitStores d (pktSlot c.pkt) p x counts c.tiles)
    rw [stored] at same
    have kept := congrArg (fun e : Desk => e.slots) same
    exact kept
  obtain ⟨f, made⟩ := commitImage_stored (n := n) result stored slots
  generalize commitsTo d n (pktSlot c.pkt) p x counts c.tiles = y at *
  obtain ⟨ts, taken⟩ := commitTaken_eq { d1 with freeCtr := f } (pktSlot c.pkt) y c.tiles
  rw [made, taken]
  exact ⟨ts, f + 1, _, rfl⟩

theorem commitImage_lost {d d1 : Desk} {n : Fin 64} {c : Cmd} {p : CommitParams} {x : Parts} {counts tiles : List Nat} {i : Fin 64}
    (result : Slot → Bytes) {k : Nat} (at_ : pktSlot c.pkt = i) (on : c.tiles = tiles)
    (stored : storeAll d (commitStores d i p x counts tiles) = (d1, some k)) :
    commitImage d n c p x counts result = commitLost d1 n c k := by
  subst at_ on
  unfold commitImage
  simp only [show cmdSlot c = pktSlot c.pkt from rfl, stored]

/-- The energies of a commit for one rank, of the spins each replica starts from (R42). -/
theorem buildImage_energies {p : CommitParams} (x : Parts) (alone : p.m = 1) : (buildImage p x).e0 =
    ((List.range 16).map fun k => startSpins (buildImage p x) x.init k).map fun ws => wrap64 ((buildImage p x).energyOf ws) := by
  have summed : (buildImage p x).e0 = (List.range 16).map fun k =>
      wrap64 ((buildImage p x).energyOf (startSpins (buildImage p x) x.init k) + (buildImage p x).rest k) := rfl
  have none : ∀ k, (buildImage p x).rest k = 0 := fun k => if_pos alone
  rw [summed, List.map_map]
  refine List.map_congr_left fun k _ => ?_
  rw [none, Int.add_zero]
  rfl

/-! ## COMMIT_PROBLEM -/

section
variable {s : State} {n : Fin 64} {c : Cmd} {x : Slot} {p : CommitParams} {rs : List (Nat × Nat)}

theorem deskCommit_empty (work : workOf s.desk n .commitProblem = some c) (stage : c.stage = .dispatched)
    (is_x : x = s.desk.slots.at (pktSlot c.pkt)) (is_p : p = commitParams c.pkt) (zero : p.n = 0) : ∃ limit,
    deskCommit (envOf s) s.desk n = commitEnds s.desk n (pktSlot c.pkt) (emptySlot x) (leaveSlot s.desk (pktSlot c.pkt)).tiles (s.desk.freeCtr + 1)
      (endedWith (beginWork s.desk c) stOk (leBytes 4 x.gen) limit) := by
  obtain ⟨pkt, -⟩ := beginWork_rest (d := s.desk) stage
  subst is_p
  refine ⟨(openLimit (updSlot (leaveSlot s.desk (pktSlot c.pkt)) (pktSlot c.pkt) emptySlot)).1, Eq.trans ?_
    ((emptied_ends s.desk n (pktSlot c.pkt) (beginWork s.desk c) (leBytes 4 x.gen)).trans (by rw [is_x]))⟩
  unfold deskCommit
  simp only [work, cmdSlot, pkt, ← is_x, zero, if_true]

variable (work : workOf s.desk n .commitProblem = some c) (stage : c.stage = .dispatched) (is_x : x = s.desk.slots.at (pktSlot c.pkt))
  (is_p : p = commitParams c.pkt) (is_rs : rs = listRecords s.desk x c.pkt) (some_ : p.n ≠ 0)
include work stage is_x is_p is_rs some_

theorem deskCommit_unmapped (verdict : walkVerdict (envOf s) s.desk rs p.twin = .unmapped) :
    deskCommit (envOf s) s.desk n = withCur s.desk n (workDone s.desk.now c stBad [] 0) := by
  obtain ⟨pkt, -⟩ := beginWork_rest (d := s.desk) stage
  subst is_p is_rs
  unfold deskCommit
  simp only [work, cmdSlot, pkt, ← is_x, if_neg some_, verdict]
  exact endWork_begun s.desk s.desk n stage stBad [] 0

theorem deskCommit_absent (verdict : walkVerdict (envOf s) s.desk rs p.twin = .absent) :
    deskCommit (envOf s) s.desk n = withCur s.desk n (workDone s.desk.now c stUnsupported [] 0) := by
  obtain ⟨pkt, -⟩ := beginWork_rest (d := s.desk) stage
  subst is_p is_rs
  unfold deskCommit
  simp only [work, cmdSlot, pkt, ← is_x, if_neg some_, verdict]
  exact endWork_begun s.desk s.desk n stage stUnsupported [] 0

theorem deskCommit_lost {k : Nat} (verdict : walkVerdict (envOf s) s.desk rs p.twin = .ok)
    (bad : firstBad s.desk (rs ++ partRanges s.desk x p) = some k) :
    deskCommit (envOf s) s.desk n = commitLost s.desk n (beginWork s.desk c) k := by
  obtain ⟨pkt, -⟩ := beginWork_rest (d := s.desk) stage
  subst is_p is_rs
  unfold deskCommit
  simp only [work, cmdSlot, pkt, ← is_x, if_neg some_, verdict, bad]

theorem deskCommit_image (verdict : walkVerdict (envOf s) s.desk rs p.twin = .ok)
    (sound : firstBad s.desk (rs ++ partRanges s.desk x p) = none) :
    deskCommit (envOf s) s.desk n = commitImage s.desk n (beginWork s.desk c) p (readParts s.desk x p rs)
      ((List.range 8).map fun k => field c.pkt (32 + 4 * k) 4) fun y => leBytes 4 y.gen ++ leBytes 4 ((y.image.map streamCount).getD 0) := by
  obtain ⟨pkt, -⟩ := beginWork_rest (d := s.desk) stage
  subst is_p is_rs
  unfold deskCommit
  simp only [work, cmdSlot, pkt, ← is_x, if_neg some_, verdict, sound]

end

theorem slotSet_at {s : State} {n : Fin 64} {o : Op} {c : Cmd} {x : Slot} (h : AtHand s n o c) (own : opTile o = false)
    (is_x : x = s.desk.slots.at (pktSlot c.pkt)) (f : Nat → Slot → Slot) :
    frontDesk s.desk n o (fun d c => updSlot d (cmdSlot c) (f (field c.pkt 24 8))) (fun _ => []) =
    withCur (withSlot s.desk (pktSlot c.pkt) (f (field c.pkt 24 8) x)) n (workDone s.desk.now c stOk [] 0) := by
  rw [frontDesk_atHand h own, beginWork_dispatched s.desk h.2.2.1, is_x]
  rfl

/-- A commit of parts that read soundly and whose writes all land. -/
theorem commit_lands {s : State} {n : Fin 64} {c : Cmd} {x : Slot} {p : CommitParams} {parts : Parts} {cnt : List Nat}
    (stage : c.stage = .dispatched) (is_x : x = s.desk.slots.at (pktSlot c.pkt)) (result : Slot → Bytes)
    (made : deskCommit (envOf s) s.desk n = commitImage s.desk n (beginWork s.desk c) p parts cnt result)
    (stored : (storeAll s.desk (commitStores s.desk (pktSlot c.pkt) p parts cnt c.tiles)).2 = none) : ∃ t c' y,
    exec (.commitProblem n) s = .next t ∧ (t.desk.sqs.at n).cur = some c' ∧ EndedAs c' c stOk ∧ y = t.desk.slots.at (pktSlot c.pkt) ∧
    y = { committedSlot x (queuePort n) p parts cnt with dirRuns := dirOnChip s.desk (pktSlot c.pkt) (buildImage p parts) cnt c.tiles } ∧
    c'.digest = imageDigest p parts ∧ c'.result = slice (result y) 0 28 ∧
    (p.twin = none → p.work = none ∨ dirFits s.desk (pktSlot c.pkt) (buildImage p parts) cnt c.tiles = true → t.desk.mem = s.desk.mem) ∧
    (∀ i, i ≠ pktSlot c.pkt → t.desk.slots.at i = s.desk.slots.at i) ∧ OnlyDesk s t := by
  obtain ⟨pkt, tiles, -⟩ := beginWork_rest (d := s.desk) stage
  obtain ⟨d1, whole⟩ : ∃ d1, storeAll s.desk (commitStores s.desk (pktSlot c.pkt) p parts cnt c.tiles) = (d1, none) := ⟨_, Prod.ext rfl stored⟩
  obtain ⟨m, same⟩ := storeAll_memory s.desk (commitStores s.desk (pktSlot c.pkt) p parts cnt c.tiles)
  rw [whole] at same
  have same : d1 = { s.desk with mem := m } := same
  obtain ⟨ts, f, limit, ends⟩ := commitImage_ends (n := n) result (congrArg pktSlot pkt) tiles whole
  rw [ends] at made
  have is_y : commitsTo s.desk n (pktSlot c.pkt) p parts cnt c.tiles = { committedSlot x (queuePort n) p parts cnt with
      dirRuns := dirOnChip s.desk (pktSlot c.pkt) (buildImage p parts) cnt c.tiles } := by
    rw [is_x]
    rfl
  generalize commitsTo s.desk n (pktSlot c.pkt) p parts cnt c.tiles = y at made is_y
  obtain ⟨c', is_c'⟩ : ∃ c', c' = endedWith { beginWork s.desk c with digest := imageDigest p parts } stOk (result y) limit := ⟨_, rfl⟩
  rw [← is_c'] at made
  have ran : exec (.commitProblem n) s = .next (settle { s with desk := commitEnds d1 n (pktSlot c.pkt) y ts f c' }) :=
    congrArg (fun d => Host.Outcome.next (settle { s with desk := d })) made
  obtain ⟨cur, slot, others, mem, -, -, only⟩ := commitEnds_settled s d1 n (pktSlot c.pkt) y ts f c'
  have ended : EndedAs c' c stOk ∧ c'.digest = imageDigest p parts ∧ c'.result = slice (result y) 0 28 := by
    rw [is_c']
    exact ⟨begun_endedAs (d := s.desk) stage stOk (result y) limit, rfl, rfl⟩
  refine ⟨_, c', y, ran, cur, ended.1, slot.symm, is_y, ended.2.1, ended.2.2, fun twin needs => ?_, fun i other => ?_, only⟩
  · have none : commitStores s.desk (pktSlot c.pkt) p parts cnt c.tiles = [] := by
      unfold commitStores spillRuns
      rw [twin]
      obtain work | fits := needs
      · rw [work]
        rfl
      · rw [fits]
        cases p.work <;> rfl
    rw [none] at whole
    rw [mem]
    exact congrArg Desk.mem (congrArg Prod.fst whole).symm
  · rw [others i other, same]

/-- A commit that meets a lost byte. -/
theorem commit_loses {s : State} {n : Fin 64} {c : Cmd} {x : Slot} {d1 : Desk} {k : Nat} (stage : c.stage = .dispatched)
    (is_x : x = s.desk.slots.at (pktSlot c.pkt)) (made : deskCommit (envOf s) s.desk n = commitLost d1 n (beginWork s.desk c) k)
    (slots : d1.slots = s.desk.slots) : ∃ t c', exec (.commitProblem n) s = .next t ∧ (t.desk.sqs.at n).cur = some c' ∧ EndedAs c' c stDataLost ∧
    (t.desk.slots.at (pktSlot c.pkt)).state = .open_ ∧ (t.desk.slots.at (pktSlot c.pkt)).image = none ∧
    (t.desk.slots.at (pktSlot c.pkt)).gen = x.gen ∧ t.desk.mem.cells = d1.mem.cells := by
  obtain ⟨pkt, -⟩ := beginWork_rest (d := s.desk) stage
  obtain ⟨limit, ts, lost⟩ := commitLost_ends d1 n (c := beginWork s.desk c) (congrArg pktSlot pkt) k
  rw [slots, ← is_x] at lost
  obtain ⟨c', is_c'⟩ : ∃ c', c' = endedWith { beginWork s.desk c with fault := true } stDataLost [] limit := ⟨_, rfl⟩
  rw [← is_c'] at lost
  have ran : exec (.commitProblem n) s = .next (settle { s with desk := deskCommit (envOf s) s.desk n }) := rfl
  rw [made, lost] at ran
  obtain ⟨cur, slot, -, mem, -⟩ := commitEnds_settled s (noteUe d1 (32 * k) (some n.val) 5) n (pktSlot c.pkt) (openSlot (queuePort n) x) ts
    (d1.freeCtr + 1) c'
  refine ⟨_, c', ran, cur, ?_, ?_, ?_, ?_, (congrArg Memory.cells mem).trans (noteUe_cells _ _ _ _)⟩
  · rw [is_c']
    exact begun_endedAs (d := s.desk) stage stDataLost [] limit
  · rw [slot]
    rfl
  · rw [slot]
    rfl
  · rw [slot]
    rfl

/-- Settles O47, case by case along what a commit finds. -/
theorem slotsAreWritten : Obligations.SlotsAreWritten := by
  unfold Obligations.SlotsAreWritten
  intro s n c x is_x
  refine ⟨fun h => ?schedule, fun h => ?phases, fun p rs cnt h clock is_p is_rs is_cnt => ?commit⟩
  case schedule =>
    exact congrArg (fun d => Host.Outcome.next (settle { s with desk := d }))
      (slotSet_at h rfl is_x fun a s => { s with schedAddr := addrOrNone a })
  case phases =>
    exact congrArg (fun d => Host.Outcome.next (settle { s with desk := d }))
      (slotSet_at h rfl is_x fun a s => { s with phaseAddr := addrOrNone a })
  case commit =>
    obtain ⟨cur, op, stage, stop⟩ := h
    have work := workOf_of cur op (.inl clock) (.inl stage) stop
    obtain ⟨pkt, tiles, -⟩ := beginWork_rest (d := s.desk) stage
    refine ⟨fun zero => ?empty, fun parts g some_ verdict sound is_parts is_g => ⟨fun stored => ?whole, fun k stored => ?narrow⟩,
      fun some_ verdict => ?unmapped, fun some_ verdict => ?absent, fun k some_ verdict bad => ?lost⟩
    case empty =>
      obtain ⟨limit, made⟩ := deskCommit_empty work stage is_x is_p zero
      have free := leaveSlot_leaves s.desk (pktSlot c.pkt)
      generalize leaveSlot s.desk (pktSlot c.pkt) = e at made free
      obtain ⟨cur, slot, -, -, tiles, memory, only⟩ := commitEnds_settled s s.desk n (pktSlot c.pkt) (emptySlot x) e.tiles (s.desk.freeCtr + 1)
        (endedWith (beginWork s.desk c) stOk (leBytes 4 x.gen) limit)
      refine ⟨_, _, congrArg (fun d => Host.Outcome.next (settle { s with desk := d })) made, cur, begun_endedAs stage stOk _ limit, rfl, ?_, ?_, ?_,
        ?_, ?_, fun l h holds slot' => ?_, ?_, only⟩
      · rw [slot]; rfl
      · rw [slot]; rfl
      · rw [slot]; rfl
      · rw [slot]; rfl
      · rw [slot]; rfl
      · rw [tiles] at holds
        exact free l ⟨h, holds, slot'⟩
      · rw [slot, tiles]
        exact memory
    case whole =>
      have made := deskCommit_image work stage is_x is_p is_rs some_ verdict sound
      rw [← is_parts, ← is_cnt] at made
      obtain ⟨t, c', y, ran, cur, ended, slot, is_y, digest, result, mem, others, only⟩ := commit_lands stage is_x _ made stored
      subst is_g
      refine ⟨t, c', y, ran, cur, ended, slot, ?_⟩
      subst is_y
      exact ⟨rfl, rfl, rfl, rfl, rfl, rfl, rfl, rfl, rfl, rfl, rfl, rfl, rfl, rfl, rfl, rfl, rfl, digest, rfl, result, rfl, rfl, rfl, rfl, rfl,
        fun alone => buildImage_energies parts alone, mem, others, only⟩
    case narrow =>
      have made := deskCommit_image work stage is_x is_p is_rs some_ verdict sound
      rw [← is_parts, ← is_cnt] at made
      obtain ⟨d1, whole⟩ : ∃ d1, storeAll s.desk (commitStores s.desk (pktSlot c.pkt) p parts cnt c.tiles) = (d1, some k) :=
        ⟨_, Prod.ext rfl stored⟩
      obtain ⟨m, same⟩ := storeAll_memory s.desk (commitStores s.desk (pktSlot c.pkt) p parts cnt c.tiles)
      rw [whole] at same
      have slots := congrArg (fun e : Desk => e.slots) same
      obtain ⟨t, c', ran, cur, ended, open_, image, -⟩ := commit_loses stage is_x
        (made.trans (commitImage_lost _ (congrArg pktSlot pkt) tiles whole)) slots
      exact ⟨t, c', ran, cur, ended, open_, image⟩
    case unmapped =>
      exact congrArg (fun d => Host.Outcome.next (settle { s with desk := d })) (deskCommit_unmapped work stage is_x is_p is_rs some_ verdict)
    case absent =>
      exact congrArg (fun d => Host.Outcome.next (settle { s with desk := d })) (deskCommit_absent work stage is_x is_p is_rs some_ verdict)
    case lost => exact commit_loses stage is_x (deskCommit_lost work stage is_x is_p is_rs some_ verdict bad) rfl

end Sys2Proof.Machine
end

section
/-! SUPPORT. COUPLE_OUT: what it writes, the room its directories need, and the commit it makes. -/
namespace Sys2Proof.Machine

/-! ## Directories -/

set_option Elab.async false in
theorem dirRoom_congr {d e : Desk} {i : Fin 64} (others : ∀ k, k ≠ i → e.slots.at k = d.slots.at k) (die : Nat) : dirRoom e i die = dirRoom d i die := by
  unfold dirRoom
  have same : ((List.range 64).map fun k =>
      if k != i.val && (e.slots.at (fin 64 k)).state == .committed then getn (e.slots.at (fin 64 k)).dirRuns die else 0) =
      (List.range 64).map fun k =>
        if k != i.val && (d.slots.at (fin 64 k)).state == .committed then getn (d.slots.at (fin 64 k)).dirRuns die else 0 := by
    refine List.map_congr_left fun k mem => ?_
    have below : k < 64 := List.mem_range.mp mem
    by_cases own : k = i.val
    · simp [own]
    · have other : fin 64 k ≠ i := fun same => own (by
        rw [← same]
        exact (Nat.mod_eq_of_lt below).symm)
      rw [others _ other]
  rw [same]

/-- Whether directories fit on chip does not depend on the slot they are of. -/
theorem dirFits_congr {d e : Desk} {i : Fin 64} (others : ∀ k, k ≠ i → e.slots.at k = d.slots.at k) (g : Image) (counts tiles : List Nat) :
    dirFits e i g counts tiles = dirFits d i g counts tiles := by
  unfold dirFits dirOnChip
  simp only [dirRoom_congr others]

/-! ## The work area -/

/-- The only write of a commit without a twin is that of its work area, where it needs one. -/
theorem commitStores_spill {d : Desk} {i : Fin 64} {p : CommitParams} {x : Parts} {counts tiles : List Nat} (plain : p.twin = none)
    (room : ∀ a, p.work = some a → narrowHits d.mem (addrDevice a) (8 * x.blocks.length + 4096) = []) : ∃ m : Memory,
    storeAll d (commitStores d i p x counts tiles) = ({ d with mem := m }, none) ∧
    (p.work = none ∨ dirFits d i (buildImage p x) counts tiles = true → m = d.mem) := by
  have stores : commitStores d i p x counts tiles = spillRuns d i (buildImage p x) counts tiles p.work := by
    unfold commitStores
    rw [plain]
    rfl
  rw [stores]
  unfold spillRuns
  cases work : p.work with
  | none => exact ⟨d.mem, rfl, fun _ => rfl⟩
  | some a =>
    simp only
    cases fits : dirFits d i (buildImage p x) counts tiles with
    | true =>
      rw [if_pos rfl]
      exact ⟨d.mem, rfl, fun _ => rfl⟩
    | false =>
      rw [if_neg Bool.false_ne_true]
      have records : (buildImage p x).records.length = x.blocks.length := List.length_map _
      generalize is_bs : ((List.range (8 * (buildImage p x).records.length + 4096)).map fun k => (Config.freeValue (d.freeCtr + k)).setWidth 8) = bs
      have size : bs.length = 8 * x.blocks.length + 4096 := by
        rw [← is_bs, List.length_map, List.length_range, records]
      refine ⟨memStore d.mem (addrDevice a) (bs.take (soundPrefix d.mem (addrDevice a) bs.length)), ?_, ?_⟩
      case refine_2 =>
        rintro (none | fits)
        · exact absurd none nofun
        · exact absurd fits nofun
      unfold storeAll
      simp only [List.foldl_cons, List.foldl_nil, Option.isSome_none, Bool.false_eq_true, if_false, size, room a work]
      rfl

/-! ## The records and the bias table -/

/-- The write of a table that there may be. -/
def optWrite (e : Env) (d : Desk) (n : Fin 64) (a : Nat) (o : Option Bytes) : Access :=
  match o with
  | some t => writeRange e d n a t
  | none => ⟨d, [], none⟩

/-- Cells after the write of a table that there may be. -/
def optCells (l : List Host.Cell) (a : Nat) (o : Option Bytes) : List Host.Cell :=
  match o with
  | some t => cellWrites l a t
  | none => l

theorem writeRange_lands {s : State} {d : Desk} {addr : Nat} {bs : Bytes} (plain : PlainSpan s addr bs.length)
    (ue : d.mem.ue = s.desk.mem.ue) (n : Fin 64) : ∃ m : Memory, writeRange (envOf s) d n addr bs = ⟨{ d with mem := m }, bs, none⟩ ∧
    m.cells = cellWrites d.mem.cells (addrDevice addr) bs ∧ m.ue = s.desk.mem.ue := by
  have sound : badSector d.mem (addrDevice addr) bs.length = none := (badSector_congr ue _ _).trans plain.2.2
  exact ⟨_, writeRange_plain plain ue n, memStore_cells sound, (memStore_ue sound).trans ue⟩

theorem optWrite_lands {s : State} {d : Desk} {addr : Nat} {o : Option Bytes} (plain : ∀ u, o = some u → PlainSpan s addr u.length)
    (ue : d.mem.ue = s.desk.mem.ue) (n : Fin 64) : ∃ (m : Memory) (bs : Bytes), optWrite (envOf s) d n addr o = ⟨{ d with mem := m }, bs, none⟩ ∧
    m.cells = optCells d.mem.cells (addrDevice addr) o ∧ m.ue = s.desk.mem.ue := by
  cases o with
  | none => exact ⟨d.mem, [], rfl, rfl, ue⟩
  | some u =>
    obtain ⟨m, wrote, cells⟩ := writeRange_lands (plain u rfl) ue n
    exact ⟨m, u, wrote, cells⟩

/-- The parts of the image that a COUPLE_OUT commits. -/
def coupleParts (d : Desk) (c : Cmd) (p : CommitParams) (o : List Bytes × Option Bytes) : Parts :=
  { readParts d (d.slots.at (pktSlot c.pkt)) p
      (recordPlaces (addrDevice (field (c.descs.getD 0 []) 24 8)) (recordLen (fieldBits c.pkt 17 1 0 2)) o.1.length) with
    blockBytes := o.1, bias := o.2 }

theorem coupleParts_count (d : Desk) (c : Cmd) (p : CommitParams) (o : List Bytes × Option Bytes) : (coupleParts d c p o).blocks.length = o.1.length := by
  simp [coupleParts, readParts, recordPlaces]

/-- A COUPLE_OUT once its records and its table have been written. -/
def coupleWritten (n : Fin 64) (c : Cmd) (p : CommitParams) (o : List Bytes × Option Bytes) (w1 w2 : Access) : Desk :=
  if (w1.fail.orElse fun _ => w2.fail).isSome then
    endWork (openLimit w2.desk).2 n { c with fault := true } stDataLost [] (openLimit w2.desk).1
  else
    match firstBad w2.desk (partRanges w2.desk (w2.desk.slots.at (pktSlot c.pkt)) p) with
    | some x => commitLost w2.desk n c x
    | none => commitImage w2.desk n c p (coupleParts w2.desk c p o) (o.1.length :: List.replicate 7 0) fun s =>
      leBytes 4 s.gen ++ leBytes 4 o.1.length

theorem coupleCommit_eq (e : Env) (d : Desk) (n : Fin 64) (c : Cmd) (p : CommitParams) (recs : List (Nat × Bool)) (l : List (Nat × Opnd)) :
    coupleCommit e d n c p recs l = coupleWritten n c p (coupleOutput c p recs l)
      (writeRange e d n (field (c.descs.getD 0 []) 24 8) (coupleOutput c p recs l).1.flatten)
      (optWrite e (writeRange e d n (field (c.descs.getD 0 []) 24 8) (coupleOutput c p recs l).1.flatten).desk n
        (field (c.descs.getD 0 []) 32 8) (coupleOutput c p recs l).2) := rfl

theorem coupleCommit_sound {e : Env} {d d1 d2 : Desk} {n : Fin 64} {c : Cmd} {p : CommitParams} {recs : List (Nat × Bool)}
    {l : List (Nat × Opnd)} {o : List Bytes × Option Bytes} {bs bs' : Bytes} (is_o : coupleOutput c p recs l = o)
    (records : writeRange e d n (field (c.descs.getD 0 []) 24 8) o.1.flatten = ⟨d1, bs, none⟩)
    (table : optWrite e d1 n (field (c.descs.getD 0 []) 32 8) o.2 = ⟨d2, bs', none⟩)
    (sound : firstBad d2 (partRanges d2 (d2.slots.at (pktSlot c.pkt)) p) = none) :
    coupleCommit e d n c p recs l = commitImage d2 n c p (coupleParts d2 c p o) (o.1.length :: List.replicate 7 0)
      fun s => leBytes 4 s.gen ++ leBytes 4 o.1.length := by
  rw [coupleCommit_eq, is_o, records, table]
  unfold coupleWritten
  simp only [sound]
  rfl

/-! ## The command -/

theorem deskCouple_empty {s : State} {n : Fin 64} {c : Cmd} {p : CommitParams} (work : workOf s.desk n .coupleOut = some c)
    (is_p : p = coupleParams c.pkt (c.descs.getD 0 [])) (zero : p.n = 0) : ∃ limit,
    deskCouple (envOf s) s.desk n = commitEnds s.desk n (pktSlot c.pkt) (emptySlot (s.desk.slots.at (pktSlot c.pkt)))
      (leaveSlot s.desk (pktSlot c.pkt)).tiles (s.desk.freeCtr + 1)
      (endedWith (beginWork s.desk c) stOk (leBytes 4 (s.desk.slots.at (pktSlot c.pkt)).gen) limit) := by
  subst is_p
  refine ⟨(openLimit (updSlot (leaveSlot s.desk (pktSlot c.pkt)) (pktSlot c.pkt) emptySlot)).1, Eq.trans ?_
    (emptied_ends s.desk n (pktSlot c.pkt) (beginWork s.desk c) _)⟩
  unfold deskCouple
  simp only [work, cmdSlot, zero, if_true]

/-- Front Desk with the slot of a COUPLE_OUT as its start records it (R152 step 1). -/
def coupleOpened (d : Desk) (n : Fin 64) (c : Cmd) (p : CommitParams) (nr : Nat) : Desk :=
  takeTiles (withSlot (leaveSlot d (pktSlot c.pkt)) (pktSlot c.pkt)
    (coupleSlot (queuePort n) p (c.descs.getD 0 []) nr (d.slots.at (pktSlot c.pkt)))) c.tiles none

theorem coupleOpened_eq (d : Desk) (n : Fin 64) (c : Cmd) (p : CommitParams) (nr : Nat) : ∃ ts, coupleOpened d n c p nr =
    { withSlot d (pktSlot c.pkt) (coupleSlot (queuePort n) p (c.descs.getD 0 []) nr (d.slots.at (pktSlot c.pkt))) with tiles := ts } := by
  have left := leaveSlot_tiles d (pktSlot c.pkt)
  have taken := takeTiles_tiles (withSlot (leaveSlot d (pktSlot c.pkt)) (pktSlot c.pkt)
    (coupleSlot (queuePort n) p (c.descs.getD 0 []) nr (d.slots.at (pktSlot c.pkt)))) c.tiles none
  unfold coupleOpened
  generalize leaveSlot d (pktSlot c.pkt) = e at left taken
  generalize takeTiles _ c.tiles none = f at taken
  rw [OnlyTiles] at left taken
  refine ⟨f.tiles, ?_⟩
  rw [taken, left]
  rfl

theorem deskCouple_commits {s : State} {n : Fin 64} {c c1 : Cmd} {p : CommitParams} {recs : List (Nat × Bool)} {l : List (Nat × Opnd)}
    (work : workOf s.desk n .coupleOut = some c) (stage : c.stage = .dispatched) (fresh : Untouched c)
    (is_p : p = coupleParams c.pkt (c.descs.getD 0 [])) (some_ : p.n ≠ 0)
    (is_recs : recs = coupleRecords p.n p.t p.m p.rank (bit (field c.pkt 17 1) 2) (pairList (c.descs.getD 3 [])))
    (is_c1 : c1 = { beginWork s.desk c with asked := 1 })
    (own : ∀ q ∈ coupleNeeds c recs, ∀ r ∈ rowRanges (descOf c q.1) q.2, addrOwn (envOf s) r.1 = true)
    (read : readOperands (envOf s) (coupleOpened s.desk n c p recs.length) n c1 (coupleNeeds c recs) =
      (coupleOpened s.desk n c p recs.length, l, none)) :
    deskCouple (envOf s) s.desk n = coupleCommit (envOf s) (coupleOpened s.desk n c p recs.length) n c1 p recs l := by
  obtain ⟨-, asked, remote, -⟩ := fresh
  obtain ⟨-, -, -, -, asked', remote'⟩ := beginWork_rest (d := s.desk) stage
  have kept := leaveSlot_keeps s.desk (pktSlot c.pkt)
  have opened : takeTiles (updSlot (leaveSlot s.desk (pktSlot c.pkt)) (pktSlot c.pkt)
      (coupleSlot (queuePort n) p (c.descs.getD 0 []) recs.length)) c.tiles none = coupleOpened s.desk n c p recs.length := by
    unfold coupleOpened
    generalize leaveSlot s.desk (pktSlot c.pkt) = e at kept
    rw [← kept]
    rfl
  have asks := askOperands_own (e := envOf s) (coupleOpened s.desk n c p recs.length) (c := beginWork s.desk c) 2
    (rs := (coupleNeeds c recs).flatMap fun q => rowRanges (descOf c q.1) q.2) (asked'.trans asked) fun r mem => by
      obtain ⟨q, need, row⟩ := List.mem_flatMap.mp mem
      exact own q need r row
  have none := readsOut_local (c := { beginWork s.desk c with asked := 1 }) (remote'.trans remote)
  subst is_p is_recs is_c1
  unfold deskCouple
  simp only [work, cmdSlot, if_neg some_, stage, beq_self_eq_true, if_true, opened, asks, none, read, Bool.false_eq_true, if_false]

theorem coupleOutput_congr {c c1 : Cmd} (pkt : c1.pkt = c.pkt) (descs : c1.descs = c.descs) (p : CommitParams) (recs : List (Nat × Bool))
    (l : List (Nat × Opnd)) : coupleOutput c1 p recs l = coupleOutput c p recs l := by
  unfold coupleOutput opnd? opnd descOf
  rw [pkt, descs]

/-- The commit of a COUPLE_OUT whose writes land and whose parts read soundly, as it ends. -/
theorem couple_ends {s : State} {d0 : Desk} {n i : Fin 64} {c : Cmd} {p : CommitParams} {recs : List (Nat × Bool)} {l : List (Nat × Opnd)}
    {o : List Bytes × Option Bytes} {b : Bytes} {tiles : List Nat} (at_ : pktSlot c.pkt = i) (on : c.tiles = tiles)
    (is_b : c.descs.getD 0 [] = b) (is_o : coupleOutput c p recs l = o) (mem : d0.mem = s.desk.mem) (plain : p.twin = none)
    (records : PlainSpan s (field b 24 8) o.1.flatten.length) (table : ∀ u, o.2 = some u → PlainSpan s (field b 32 8) u.length)
    (sound : ∀ d : Desk, d.mem.ue = s.desk.mem.ue → firstBad d (partRanges d (d0.slots.at i) p) = none)
    (room : ∀ a, p.work = some a → narrowHits s.desk.mem (addrDevice a) (8 * o.1.length + 4096) = []) :
    ∃ (m : Memory) (parts : Parts) (held : Tiles) (f limit : Nat), coupleCommit (envOf s) d0 n c p recs l =
      commitEnds { d0 with mem := m } n i (commitsTo d0 n i p parts (o.1.length :: List.replicate 7 0) tiles) held f
        (endedWith { c with digest := imageDigest p parts } stOk (leBytes 4 ((d0.slots.at i).gen + 1) ++ leBytes 4 o.1.length) limit) ∧
      (p.work = none ∨ dirFits d0 i (buildImage p parts) (o.1.length :: List.replicate 7 0) tiles = true →
        m.cells = optCells (cellWrites s.desk.mem.cells (addrDevice (field b 24 8)) o.1.flatten) (addrDevice (field b 32 8)) o.2) := by
  obtain ⟨m1, wrote, cells, ue⟩ := writeRange_lands (d := d0) records (congrArg Memory.ue mem) n
  obtain ⟨m2, bs, wrote', cells', ue'⟩ := optWrite_lands (d := { d0 with mem := m1 }) table ue n
  subst at_ on is_b
  have committed := coupleCommit_sound is_o wrote wrote' (sound { d0 with mem := m2 } ue')
  have count := coupleParts_count { d0 with mem := m2 } c p o
  have room' : ∀ a, p.work = some a → narrowHits ({ d0 with mem := m2 } : Desk).mem (addrDevice a)
      (8 * (coupleParts { d0 with mem := m2 } c p o).blocks.length + 4096) = [] := fun a work => by
    rw [count, ← room a work]
    unfold narrowHits
    rw [show ({ d0 with mem := m2 } : Desk).mem.ue = s.desk.mem.ue from ue']
  generalize coupleParts { d0 with mem := m2 } c p o = parts at *
  obtain ⟨m, stored, same⟩ := commitStores_spill (counts := o.1.length :: List.replicate 7 0) (tiles := c.tiles) (i := pktSlot c.pkt) plain room'
  obtain ⟨held, f, limit, ends⟩ := commitImage_ends (n := n) (fun s => leBytes 4 s.gen ++ leBytes 4 o.1.length) rfl rfl stored
  refine ⟨m, parts, held, f, limit, committed.trans ends, fun needs => ?_⟩
  rw [same needs]
  show m2.cells = _
  rw [cells']
  show optCells m1.cells _ _ = _
  rw [cells, mem]

/-- Settles O48, by the slot that the start records, the writes and the commit over what they leave. -/
theorem networksBecomeProblems : Obligations.NetworksBecomeProblems := by
  unfold Obligations.NetworksBecomeProblems
  intro s n c b p h fresh clock is_b is_p
  obtain ⟨cur, op, stage, stop⟩ := h
  have work := workOf_of cur op (.inl clock) (.inl stage) stop
  subst is_b
  refine ⟨fun zero => ?empty, fun recs d0 c1 l o x some_ plain is_recs is_d0 is_c1 own read is_o records table is_x sound room => ?commit⟩
  case empty =>
    obtain ⟨limit, made⟩ := deskCouple_empty work is_p zero
    have ran : exec (.coupleOut n) s = .next (settle { s with desk := deskCouple (envOf s) s.desk n }) := rfl
    generalize leaveSlot s.desk (pktSlot c.pkt) = e at made
    rw [made] at ran
    obtain ⟨cur, slot, -, -, tiles, memory, -⟩ := commitEnds_settled s s.desk n (pktSlot c.pkt) (emptySlot (s.desk.slots.at (pktSlot c.pkt)))
      e.tiles (s.desk.freeCtr + 1) (endedWith (beginWork s.desk c) stOk (leBytes 4 (s.desk.slots.at (pktSlot c.pkt)).gen) limit)
    refine ⟨_, _, ran, cur, begun_endedAs stage stOk _ limit, rfl, ?_, ?_⟩
    · rw [slot]
      rfl
    · rw [slot, tiles]
      exact memory
  case commit =>
    obtain ⟨pkt, tiles, descs, -⟩ := beginWork_rest (d := s.desk) stage
    obtain ⟨ts, opened⟩ := coupleOpened_eq s.desk n c p recs.length
    have is_d0 : coupleOpened s.desk n c p recs.length = d0 := is_d0.symm
    rw [← is_d0] at read
    have made := deskCouple_commits work stage fresh is_p some_ is_recs is_c1 own read
    rw [is_d0] at made opened
    have mem : d0.mem = s.desk.mem := by rw [opened]; rfl
    subst is_x
    have pkt' : c1.pkt = c.pkt := (congrArg Cmd.pkt is_c1).trans pkt
    have descs' : c1.descs = c.descs := (congrArg Cmd.descs is_c1).trans descs
    obtain ⟨m, parts, held, f, limit, ends, cells⟩ := couple_ends (congrArg pktSlot pkt') ((congrArg Cmd.tiles is_c1).trans tiles)
      (congrArg (fun l => l.getD 0 []) descs') ((coupleOutput_congr pkt' descs' p recs l).trans is_o.symm) mem plain records table sound room
    obtain ⟨y, is_y⟩ : ∃ y, y = commitsTo d0 n (pktSlot c.pkt) p parts (o.1.length :: List.replicate 7 0) c.tiles := ⟨_, rfl⟩
    obtain ⟨c', is_c'⟩ : ∃ c', c' = endedWith { c1 with digest := imageDigest p parts } stOk
      (leBytes 4 ((d0.slots.at (pktSlot c.pkt)).gen + 1) ++ leBytes 4 o.1.length) limit := ⟨_, rfl⟩
    rw [← is_y, ← is_c'] at ends
    have ran : exec (.coupleOut n) s = .next (settle { s with desk := deskCouple (envOf s) s.desk n }) := rfl
    rw [made, ends] at ran
    obtain ⟨cur, slot, -, mem', -⟩ := commitEnds_settled s { d0 with mem := m } n (pktSlot c.pkt) y held f c'
    have start : d0.slots.at (pktSlot c.pkt) =
        coupleSlot (queuePort n) p (c.descs.getD 0 []) recs.length (s.desk.slots.at (pktSlot c.pkt)) := by
      rw [opened]
      exact Tab.at_put_same _ _ _
    have others : ∀ k, k ≠ pktSlot c.pkt → d0.slots.at k = s.desk.slots.at k := fun k other => by
      rw [opened]
      exact Tab.at_put_ne _ _ _ _ other
    have ended : EndedAs c' c stOk := by
      rw [is_c', is_c1]
      exact begun_endedAs (d := s.desk) stage stOk (leBytes 4 ((d0.slots.at (pktSlot c.pkt)).gen + 1) ++ leBytes 4 o.1.length) limit
    refine ⟨_, c', ran, cur, ended, fun needs => ?_, ?_, ?_, ?_, ?_, ?_, ?_⟩
    · have fits : p.work = none ∨ dirFits d0 (pktSlot c.pkt) (buildImage p parts) (o.1.length :: List.replicate 7 0) c.tiles = true := by
        refine needs.imp id ?_
        rintro ⟨g, image, fits⟩
        rw [slot, is_y] at image fits
        rw [dirFits_congr others]
        obtain rfl : buildImage p parts = g := Option.some.inj image
        exact fits
      rw [mem']
      refine (cells fits).trans ?_
      cases o.2 <;> rfl
    · rw [slot, is_y]
      rfl
    · rw [slot, is_y]
      show (d0.slots.at (pktSlot c.pkt)).gen + 1 = _
      rw [start]
      rfl
    · rw [slot, is_y]
      show (d0.slots.at (pktSlot c.pkt)).extents = _
      rw [start]
      rfl
    · rw [slot, is_y]
      show (d0.slots.at (pktSlot c.pkt)).biasBase = _
      rw [start]
      rfl
    · rw [slot, is_y, is_c']
      rfl
    · rw [slot, is_y, is_c']
      rfl

end Sys2Proof.Machine
end

section
/-! SUPPORT. Tensor commands: the rows a unit writes, the unit of work, and the end of the command. -/
namespace Sys2Proof.Machine

/-! ## The job of a command -/

/-- The same packet and descriptors. -/
def SameJob (c c' : Cmd) : Prop := c'.pkt = c.pkt ∧ c'.descs = c.descs

set_option Elab.async false in
theorem SameJob.refl (c : Cmd) : SameJob c c := ⟨rfl, rfl⟩

theorem SameJob.trans {a b c : Cmd} (h : SameJob a b) (k : SameJob b c) : SameJob a c := ⟨k.1.trans h.1, k.2.trans h.2⟩

theorem groupBlocks_job {c c' : Cmd} (job : SameJob c c') (o : Op) : groupBlocks o c' = groupBlocks o c := by
  obtain ⟨pkt, descs⟩ := job
  unfold groupBlocks descOf
  rw [pkt, descs]

theorem rowVals_job {c c' : Cmd} (job : SameJob c c') (o : Op) (l : List (Nat × Opnd)) (r c0 c1 : Nat) :
    rowVals o c' l r c0 c1 = rowVals o c l r c0 c1 := by
  obtain ⟨pkt, descs⟩ := job
  unfold rowVals opnd? opnd descOf
  rw [pkt, descs]

theorem rowWrites_job {c c' : Cmd} (job : SameJob c c') (o : Op) (l : List (Nat × Opnd)) (r c0 : Nat) (vs : List Val) :
    rowWrites o c' l r c0 vs = rowWrites o c l r c0 vs := by
  obtain ⟨pkt, descs⟩ := job
  unfold rowWrites opnd descOf
  rw [pkt, descs]

theorem keptLen_job {c c' : Cmd} (job : SameJob c c') (o : Op) : keptLen o c' = keptLen o c := by
  unfold keptLen descOf
  rw [job.2]

theorem remoteOperands_job {c c' : Cmd} (job : SameJob c c') (o : Op) : remoteOperands o c' = remoteOperands o c := by
  unfold remoteOperands
  rw [job.1, job.2]

/-! ## Rows -/

/-- A write of sound memory, of any length. -/
theorem cmdPut_lands {s : State} {d : Desk} {addr : Nat} {bs : Bytes} (plain : PlainSpan s addr bs.length) (ue : d.mem.ue = s.desk.mem.ue)
    (n : Fin 64) (c : Cmd) (cls : Nat) : ∃ m : Memory, cmdPut (envOf s) d n c cls addr bs = ⟨{ d with mem := m }, c, bs, true⟩ ∧
    m.cells = cellWrites d.mem.cells (addrDevice addr) bs ∧ m.ue = s.desk.mem.ue := by
  by_cases some_ : bs = []
  · subst some_
    exact ⟨d.mem, rfl, rfl, ue⟩
  · have sound : badSector d.mem (addrDevice addr) bs.length = none := (badSector_congr ue _ _).trans plain.2.2
    exact ⟨_, cmdPut_plain plain ue some_ n c cls, memStore_cells sound, (memStore_ue sound).trans ue⟩

/-- A part of the output written and noted, after those before it. -/
def putPart (e : Env) (n : Fin 64) (y : Put) (q : Nat × Nat × Bytes) : Put :=
  if !y.ok then y
  else
    let z := cmdPut e y.desk n y.cmd 2 q.2.1 q.2.2
    { z with cmd := noteLanded z.cmd q.1 z.landed }

theorem doRow_eq (e : Env) (n : Fin 64) (o : Op) (l : List (Nat × Opnd)) (b : RowBlock) (x : Desk × Cmd) (r : Nat) : doRow e n o l b x r =
    if x.2.stop.isSome then x
    else
      let v := rowVals o x.2 l r b.c0 b.c1
      let c1 := { x.2 with accLong := x.2.accLong || v.2 }
      let w := ((keptPlaces o c1 r b.c0).zip (rowWrites o c1 l r b.c0 v.1)).foldl (putPart e n) ⟨x.1, c1, [], true⟩
      (w.desk, w.cmd) := rfl

theorem putParts_land {s : State} {n : Fin 64} {qs : List (Nat × Nat × Bytes)} (plain : ∀ q ∈ qs, PlainSpan s q.2.1 q.2.2.length) {d : Desk}
    (ue : d.mem.ue = s.desk.mem.ue) (c : Cmd) (before : Bytes) : ∃ (m : Memory) (out landed : Bytes) (parts : List (Nat × Nat)),
    qs.foldl (putPart (envOf s) n) ⟨d, c, before, true⟩ = ⟨{ d with mem := m }, { c with out := out, landed := parts }, landed, true⟩ ∧
    m.cells = afterWrites d.mem.cells (qs.map fun q => q.2) ∧ m.ue = s.desk.mem.ue := by
  induction qs generalizing d c before with
  | nil => exact ⟨d.mem, c.out, before, c.landed, rfl, rfl, ue⟩
  | cons q qs ih =>
    obtain ⟨m, put, cells, same⟩ := cmdPut_lands (plain q List.mem_cons_self) ue n c 2
    have first : putPart (envOf s) n ⟨d, c, before, true⟩ q = ⟨{ d with mem := m }, noteLanded c q.1 q.2.2, q.2.2, true⟩ := by
      unfold putPart
      simp only [Bool.not_true, Bool.false_eq_true, if_false, put]
    obtain ⟨m', out, landed, parts, rest, cells', same'⟩ := ih (fun q mem => plain q (List.mem_cons_of_mem _ mem)) (d := { d with mem := m }) same
      (noteLanded c q.1 q.2.2) q.2.2
    refine ⟨m', out, landed, parts, ?_, ?_, same'⟩
    · rw [List.foldl_cons, first, rest]
      rfl
    · rw [cells', List.map_cons]
      show afterWrites m.cells _ = _
      rw [cells]
      rfl

theorem keptPlaces_length (o : Op) (c : Cmd) (l : List (Nat × Opnd)) (r c0 : Nat) (vs : List Val) :
    (keptPlaces o c r c0).length = (rowWrites o c l r c0 vs).length := by
  unfold keptPlaces rowWrites
  simp only [List.length_append]
  split <;> split <;> rfl

/-- A row whose writes land. -/
theorem doRow_lands {s : State} {n : Fin 64} {o : Op} {l : List (Nat × Opnd)} {b : RowBlock} {d : Desk} {c : Cmd} {r : Nat}
    (going : c.stop = none) (ue : d.mem.ue = s.desk.mem.ue)
    (plain : ∀ w ∈ rowWrites o c l r b.c0 (rowVals o c l r b.c0 b.c1).1, PlainSpan s w.1 w.2.length) :
    ∃ (m : Memory) (out : Bytes) (parts : List (Nat × Nat)), doRow (envOf s) n o l b (d, c) r =
      ({ d with mem := m }, { c with accLong := c.accLong || (rowVals o c l r b.c0 b.c1).2, out := out, landed := parts }) ∧
    m.cells = afterWrites d.mem.cells (rowWrites o c l r b.c0 (rowVals o c l r b.c0 b.c1).1) ∧ m.ue = s.desk.mem.ue := by
  generalize is_v : rowVals o c l r b.c0 b.c1 = v at *
  have job : SameJob c { c with accLong := c.accLong || v.2 } := ⟨rfl, rfl⟩
  have count := keptPlaces_length o { c with accLong := c.accLong || v.2 } l r b.c0 v.1
  rw [rowWrites_job job] at count
  have second : ((keptPlaces o { c with accLong := c.accLong || v.2 } r b.c0).zip (rowWrites o c l r b.c0 v.1)).map (fun q => q.2) =
      rowWrites o c l r b.c0 v.1 := List.map_snd_zip (Nat.le_of_eq count.symm)
  obtain ⟨m, out, landed, parts, put, cells, same⟩ := putParts_land (n := n)
    (qs := (keptPlaces o { c with accLong := c.accLong || v.2 } r b.c0).zip (rowWrites o c l r b.c0 v.1))
    (fun q mem => plain q.2 (List.of_mem_zip mem).2) ue { c with accLong := c.accLong || v.2 } []
  rw [second] at cells
  refine ⟨m, out, parts, ?_, cells, same⟩
  rw [doRow_eq, if_neg (by rw [going]; exact nofun)]
  simp only [is_v, rowWrites_job job, put]

/-! ## The rows of a unit -/

/-- A row of a row-block of a group: the group, the row-block, the row. -/
abbrev UnitRow := (Nat × RowBlock) × Nat

/-- The rows that a unit writes, in order. -/
def unitRows (bs : List (Nat × RowBlock)) : List UnitRow := bs.flatMap fun b => b.2.rows.map fun r => (b, r)

/-- The values of a row, from the operands of its group. -/
def unitVals (o : Op) (c : Cmd) (ops : Nat → List (Nat × Opnd)) (q : UnitRow) : List Val × Bool :=
  rowVals o c (ops q.1.1) q.2 q.1.2.c0 q.1.2.c1

/-- What a row writes. -/
def unitWrites (o : Op) (c : Cmd) (ops : Nat → List (Nat × Opnd)) (q : UnitRow) : List (Nat × Bytes) :=
  rowWrites o c (ops q.1.1) q.2 q.1.2.c0 (unitVals o c ops q).1

theorem afterWrites_append (l : List Host.Cell) (a b : List (Nat × Bytes)) : afterWrites l (a ++ b) = afterWrites (afterWrites l a) b :=
  List.foldl_append

/-- A command with its rows so far noted. -/
def rowsNoted (c : Cmd) (long : Bool) (out : Bytes) (parts : List (Nat × Nat)) : Cmd := { c with accLong := long, out := out, landed := parts }

theorem rows_land {s : State} {n : Fin 64} {o : Op} {c0 : Cmd} {ops : Nat → List (Nat × Opnd)} {qs : List UnitRow} {d : Desk} {c : Cmd}
    (job : SameJob c0 c) (going : c.stop = none) (ue : d.mem.ue = s.desk.mem.ue)
    (plain : ∀ q ∈ qs, ∀ w ∈ unitWrites o c0 ops q, PlainSpan s w.1 w.2.length) : ∃ (m : Memory) (out : Bytes) (parts : List (Nat × Nat)),
    qs.foldl (fun y q => doRow (envOf s) n o (ops q.1.1) q.1.2 y q.2) (d, c) =
      ({ d with mem := m }, rowsNoted c (c.accLong || qs.any fun q => (unitVals o c0 ops q).2) out parts) ∧
    m.cells = afterWrites d.mem.cells (qs.flatMap (unitWrites o c0 ops)) := by
  induction qs generalizing d c with
  | nil => exact ⟨d.mem, c.out, c.landed, by simp [rowsNoted], rfl⟩
  | cons q qs ih =>
    have here := plain q List.mem_cons_self
    unfold unitWrites unitVals at here
    rw [← rowVals_job job, ← rowWrites_job job] at here
    obtain ⟨m, out, parts, row, cells, same⟩ := doRow_lands going ue here
    rw [rowVals_job job, rowWrites_job job] at cells
    rw [rowVals_job job] at row
    obtain ⟨m', out', parts', rest, cells'⟩ := ih (d := { d with mem := m })
      (c := rowsNoted c (c.accLong || (unitVals o c0 ops q).2) out parts) job going same fun q mem => plain q (List.mem_cons_of_mem _ mem)
    refine ⟨m', out', parts', ?_, ?_⟩
    · rw [List.foldl_cons, row]
      refine Eq.trans rest ?_
      rw [List.any_cons, ← Bool.or_assoc]
      rfl
    · rw [cells', List.flatMap_cons, afterWrites_append]
      exact congrArg (fun l => afterWrites l _) cells

theorem unitRows_fold {α : Type} (bs : List (Nat × RowBlock)) (f : α → UnitRow → α) (y : α) :
    bs.foldl (fun y b => b.2.rows.foldl (fun y r => f y (b, r)) y) y = (unitRows bs).foldl f y := by
  unfold unitRows
  rw [List.foldl_flatMap]
  simp only [List.foldl_map]

theorem unitRows_writes (o : Op) (c : Cmd) (ops : Nat → List (Nat × Opnd)) (bs : List (Nat × RowBlock)) :
    (unitRows bs).flatMap (unitWrites o c ops) = bs.flatMap fun b => b.2.rows.flatMap fun r =>
      rowWrites o c (ops b.1) r b.2.c0 (rowVals o c (ops b.1) r b.2.c0 b.2.c1).1 := by
  unfold unitRows
  rw [List.flatMap_assoc]
  simp only [List.flatMap_map]
  rfl

theorem unitRows_long (o : Op) (c : Cmd) (ops : Nat → List (Nat × Opnd)) (bs : List (Nat × RowBlock)) :
    ((unitRows bs).any fun q => (unitVals o c ops q).2) = true ↔
      ∃ b ∈ bs, ∃ r ∈ b.2.rows, (rowVals o c (ops b.1) r b.2.c0 b.2.c1).2 = true := by
  unfold unitRows
  rw [List.any_flatMap, List.any_eq_true]
  simp only [List.any_map, List.any_eq_true]
  rfl

/-! ## The unit -/

/-- Only the tiles and the free values change. -/
def OnlyNotes (d e : Desk) : Prop := e = { d with tiles := e.tiles, freeCtr := e.freeCtr }

theorem OnlyNotes.trans {d e f : Desk} (h : OnlyNotes d e) (k : OnlyNotes e f) : OnlyNotes d f := by
  rw [OnlyNotes] at *
  rw [k, h]

theorem OnlyNotes.foldl {α : Type} {f : Desk → α → Desk} (h : ∀ d x, OnlyNotes d (f d x)) (l : List α) (d : Desk) :
    OnlyNotes d (l.foldl f d) := by
  induction l generalizing d with
  | nil => rfl
  | cons x l ih => exact (h d x).trans (ih (f d x))

/-- One output row group taken up by a tile's unit. -/
def noteGroup (l : Nat) (d : Desk) (q : Fin 4 × GroupReg) : Desk :=
  let d1 := updUnit d l fun u => { leaveRows u ⟨q.2.firstRow, q.2.rows, .free d.freeCtr⟩ with active := u.active.put q.1 q.2 }
  { d1 with freeCtr := d.freeCtr + 256 * q.2.rows }

theorem noteGroup_notes (l : Nat) (d : Desk) (q : Fin 4 × GroupReg) : OnlyNotes d (noteGroup l d q) := by
  rw [OnlyNotes, noteGroup, updUnit_tiles]

theorem noteGroups_notes (d : Desk) (l : Nat) (gs : List (Fin 4 × GroupReg)) : OnlyNotes d (noteGroups d l gs) :=
  OnlyNotes.foldl (f := noteGroup l) (noteGroup_notes l) gs d

theorem closeBlock_notes (o : Op) (c : Cmd) (u : Nat) (d : Desk) (x : Nat × RowBlock) : OnlyNotes d (closeBlock o c u d x) :=
  OnlyNotes.foldl (fun d _ => noteGroups_notes d _ _) _ d

/-- The command after a unit. -/
def unitDone (now : Nat) (c : Cmd) : Cmd := { c with done := c.done + 1, landed := [], progressAt := now }

theorem doUnit_lands {s : State} {n : Fin 64} {o : Op} {c0 c2 c3 : Cmd} {d0 : Desk} {gs : List (List RowBlock)} {bs : List (Nat × RowBlock)}
    {l : List (Nat × Opnd)} (is_gs : gs = groupBlocks o c2) (is_bs : bs = nextBlocks gs c2.done)
    (kept : fetchKept (envOf s) d0 n o c2 = (d0, c3, none)) (read : readOperands (envOf s) d0 n c3 (unitNeeds o c3 gs bs) = (d0, l, none))
    (job : SameJob c0 c3) (going : c3.stop = none) (mem : d0.mem = s.desk.mem)
    (plain : ∀ q ∈ unitRows bs, ∀ w ∈ unitWrites o c0 (blockOperands o c3 gs l) q, PlainSpan s w.1 w.2.length) :
    ∃ (m : Memory) (out : Bytes) (parts : List (Nat × Nat)) (tiles : Tiles) (f : Nat), doUnit (envOf s) n o (d0, c2) =
      ({ d0 with mem := m, tiles := tiles, freeCtr := f }, unitDone d0.now (rowsNoted c3
        (c3.accLong || (unitRows bs).any fun q => (unitVals o c0 (blockOperands o c3 gs l) q).2) out parts)) ∧
    m.cells = afterWrites s.desk.mem.cells ((unitRows bs).flatMap (unitWrites o c0 (blockOperands o c3 gs l))) := by
  obtain ⟨m, out, parts, landed, cells⟩ := rows_land (n := n) (d := d0) (c := c3) job going (congrArg Memory.ue mem) plain
  have folded := unitRows_fold bs (fun (y : Desk × Cmd) q => doRow (envOf s) n o (blockOperands o c3 gs l q.1.1) q.1.2 y q.2) (d0, c3)
  rw [landed] at folded
  have notes : OnlyNotes { d0 with mem := m } (bs.foldl (closeBlock o c3 c3.done) { d0 with mem := m }) :=
    OnlyNotes.foldl (closeBlock_notes o c3 c3.done) bs _
  rw [mem] at cells
  refine ⟨m, out, parts, (bs.foldl (closeBlock o c3 c3.done) { d0 with mem := m }).tiles,
    (bs.foldl (closeBlock o c3 c3.done) { d0 with mem := m }).freeCtr, ?_, cells⟩
  have fails : (rowsNoted c3 (c3.accLong || (unitRows bs).any fun q => (unitVals o c0 (blockOperands o c3 gs l) q).2) out parts).stop.isSome = false :=
    congrArg Option.isSome going
  unfold doUnit
  simp only [← is_gs, ← is_bs, kept, read]
  rw [folded]
  simp only [fails, Bool.false_eq_true, if_false]
  exact congrArg (fun d => (d, _)) notes

/-! ## The command -/

theorem fetchKept_keeps {e : Env} {d d0 : Desk} {n : Fin 64} {o : Op} {c c3 : Cmd} (made : fetchKept e d n o c = (d0, c3, none)) :
    ∃ kept, c3 = { c with kept := kept } := by
  unfold fetchKept at made
  simp only at made
  split at made
  · cases made
    exact ⟨_, rfl⟩
  · obtain ⟨_, rest⟩ := Prod.ext_iff.mp made
    obtain ⟨is_c3, sound⟩ := Prod.ext_iff.mp rest
    simp only at is_c3 sound
    rw [sound] at is_c3
    exact ⟨_, is_c3.symm⟩

/-- What a tensor command does after its units. -/
def tensorAfter (e : Env) (n : Fin 64) (o : Op) (r : Desk × Cmd) : Desk :=
  if r.2.stop.isSome || decide (r.2.done < unitCount (groupBlocks o r.2)) then setCur r.1 n (some r.2) else tensorEnd e r.1 n o r.2 stOk

theorem doUnits_one {e : Env} {n : Fin 64} {o : Op} {d : Desk} {c : Cmd} (going : c.stop = none) (more : c.done < unitCount (groupBlocks o c)) :
    doUnits e n o 1 (d, c) = doUnit e n o (d, c) :=
  if_neg (by simp [going, more])

/-- A tensor command that begins: it takes its tiles and asks no other module. -/
theorem tensorExec_begins {s : State} {n : Fin 64} {o : Op} {c c2 : Cmd} (h : AtHand s n o c) (untouched : Untouched c)
    (clock : s.desk.tclkOff = false) (own : ∀ r ∈ remoteOperands o c, addrOwn (envOf s) r.1 = true)
    (is_c2 : c2 = { beginWork s.desk c with out := List.replicate (keptLen o c) 0, asked := 1 }) (more : c.done < unitCount (groupBlocks o c)) :
    tensorExec (envOf s) s.desk n o 1 = tensorAfter (envOf s) n o (doUnit (envOf s) n o (takeTiles s.desk c.tiles none, c2)) := by
  obtain ⟨cur, op, stage, stop⟩ := h
  obtain ⟨_, asked, remote, _⟩ := untouched
  have work : workOf s.desk n o = some c := workOf_of cur op (.inl clock) (.inl stage) stop
  have job : SameJob c (beginWork s.desk c) := by
    rw [beginWork_dispatched s.desk stage]
    exact ⟨rfl, rfl⟩
  have ask : askOperands (envOf s) (takeTiles s.desk c.tiles none) { beginWork s.desk c with out := List.replicate (keptLen o c) 0 } 2
      (remoteOperands o { beginWork s.desk c with out := List.replicate (keptLen o c) 0 }) = (takeTiles s.desk c.tiles none, c2) := by
    have job' : SameJob c { beginWork s.desk c with out := List.replicate (keptLen o c) 0 } := job
    rw [is_c2, remoteOperands_job job']
    exact askOperands_own _ 2 (by rw [beginWork_dispatched s.desk stage]; exact asked) own
  have quiet : readsOut c2 = false := readsOut_local (by rw [is_c2, beginWork_dispatched s.desk stage]; exact remote)
  have goes : c2.stop = none := by rw [is_c2, beginWork_dispatched s.desk stage]; exact stop
  have job2 : SameJob c c2 := by rw [is_c2]; exact job
  have first : c2.done = c.done := by rw [is_c2, beginWork_dispatched s.desk stage]
  have fresh : (c.stage == .dispatched) = true := by rw [stage]; rfl
  unfold tensorExec
  simp only [work, fresh, if_true, keptLen_job job, ask, quiet, Bool.false_eq_true, if_false]
  rw [doUnits_one goes (by rw [groupBlocks_job job2, first]; exact more)]
  rfl

/-- A tensor command at work goes on. -/
theorem tensorExec_goes {s : State} {n : Fin 64} {o : Op} {c : Cmd} (cur : (s.desk.sqs.at n).cur = some c) (op : pktOp c.pkt = some o)
    (stage : c.stage = .working) (stop : c.stop = none) (asked : c.asked ≠ 0) (remote : c.remote = [])
    (clock : s.desk.tclkOff = false) (more : c.done < unitCount (groupBlocks o c)) :
    tensorExec (envOf s) s.desk n o 1 = tensorAfter (envOf s) n o (doUnit (envOf s) n o (s.desk, c)) := by
  have work : workOf s.desk n o = some c := workOf_of cur op (.inl clock) (.inr stage) stop
  have ask : askOperands (envOf s) s.desk c 2 (remoteOperands o c) = (s.desk, c) := if_neg asked
  have fresh : (c.stage == .dispatched) = false := by rw [stage]; rfl
  unfold tensorExec
  simp only [work, fresh, Bool.false_eq_true, if_false, beginWork_working _ stage, ask, readsOut_local remote]
  rw [doUnits_one stop more]
  rfl

/-- The end of a tensor command, its row-blocks counted. -/
theorem tensorEnd_ends (e : Env) (d : Desk) (n : Fin 64) (o : Op) (c : Cmd) : ∃ f c', tensorEnd e d n o c stOk = withCur { d with freeCtr := f } n c' ∧
    c'.pkt = c.pkt ∧ c'.done = c.done ∧ c'.accLong = c.accLong ∧ c'.stage = .ended ∧ c'.status = stOk ∧
    c'.result.take 4 = leBytes 4 (blocksDone (groupBlocks o c) c.done) := by
  have cycles : ∃ v f, tensorCycles d o c = (v, { d with freeCtr := f }) := by
    unfold tensorCycles
    simp only
    split
    · exact ⟨_, _, rfl⟩
    · split
      · exact ⟨_, _, rfl⟩
      · exact ⟨_, _, rfl⟩
  obtain ⟨v, f, cycles⟩ := cycles
  have limit : ∃ k f', tensorLimit e { d with freeCtr := f } o c = (k, { d with freeCtr := f' }) := ⟨_, _, rfl⟩
  obtain ⟨k, f', limit⟩ := limit
  unfold tensorEnd
  simp only [cycles, limit]
  refine ⟨f', _, rfl, rfl, rfl, rfl, rfl, rfl, ?_⟩
  rfl

/-- What the executable of a tensor command does. -/
theorem exec_tensor {s : State} {n : Fin 64} {o : Op} {c : Cmd} {i : Instr} (cur : (s.desk.sqs.at n).cur = some c) (op : pktOp c.pkt = some o)
    (clock : s.desk.tclkOff = false)
    (instr : (i = .matmul n 1 ∧ o = .matmul) ∨ (i = .conv2d n 1 ∧ o = .conv2d) ∨ (i = .attend n 1 ∧ o = .attend) ∨
      (i = .vectorOp n 1 ∧ o = .vectorOp) ∨ (i = .reduce n 1 ∧ o = .reduce) ∨
      (i = .rowBlockDone n ∧ opTensor o = true ∧ c.stage = .working)) :
    exec i s = .next (settle { s with desk := tensorExec (envOf s) s.desk n o 1 }) := by
  obtain ⟨rfl, rfl⟩ | ⟨rfl, rfl⟩ | ⟨rfl, rfl⟩ | ⟨rfl, rfl⟩ | ⟨rfl, rfl⟩ | ⟨rfl, tensor, stage⟩ := instr
  case inr.inr.inr.inr.inr =>
    have at_ : tensorAt s.desk n = some o := by
      unfold tensorAt
      simp only [cur, op, tensor, clock, stage]
      rfl
    have body : (match tensorAt s.desk n with
        | some o => tensorExec (envOf s) s.desk n o 1
        | none => s.desk) = tensorExec (envOf s) s.desk n o 1 := by rw [at_]
    exact congrArg (fun d => Host.Outcome.next (settle { s with desk := d })) body
  all_goals rfl

/-- Settles O53: a unit of a tensor command is its operands read, its rows written, and then its next unit or its end. -/
theorem tensorCommandsFillTheirOutput : Obligations.TensorCommandsFillTheirOutput := by
  intro s n c c2 c3 o i d0 d1 l k ws gs bs clock instr start is_gs is_bs more kept read
  have begun : tensorExec (envOf s) s.desk n o 1 = tensorAfter (envOf s) n o (doUnit (envOf s) n o (d0, c2)) ∧ OnlyTiles s.desk d0 ∧
      SameJob c c2 ∧ c2.stop = none ∧ c2.done = c.done ∧ c2.accLong = c.accLong ∧ c2.stage = .working ∧
      (s.desk.sqs.at n).cur = some c ∧ pktOp c.pkt = some o := by
    subst is_gs
    obtain ⟨h, untouched, own, is_d0, is_c2⟩ | ⟨cur, op, stage, stop, asked, remote, is_d0, is_c2⟩ := start
    · have ran := tensorExec_begins h untouched clock own is_c2 more
      obtain ⟨cur, op, stage, stop⟩ := h
      rw [beginWork_dispatched s.desk stage] at is_c2
      subst is_d0 is_c2
      exact ⟨ran, takeTiles_tiles _ _ _, ⟨rfl, rfl⟩, stop, rfl, rfl, rfl, cur, op⟩
    · subst is_d0 is_c2
      exact ⟨tensorExec_goes cur op stage stop asked remote clock more, rfl, .refl _, stop, rfl, rfl, stage, cur, op⟩
  obtain ⟨ran, tiles0, job2, stop2, done2, long2, stage2, cur, op⟩ := begun
  have ran := (exec_tensor cur op clock instr).trans (congrArg (fun d => Host.Outcome.next (settle { s with desk := d })) ran)
  obtain ⟨kept', is_c3⟩ := fetchKept_keeps kept
  have job3 : SameJob c c3 := by rw [is_c3]; exact job2
  have stop3 : c3.stop = none := by rw [is_c3]; exact stop2
  have done3 : c3.done = c.done := by rw [is_c3]; exact done2
  have stage3 : c3.stage = .working := by rw [is_c3]; exact stage2
  have long3 : c3.accLong = c.accLong := by rw [is_c3]; exact long2
  have gs2 : gs = groupBlocks o c2 := by rw [is_gs, groupBlocks_job job2]
  have bs2 : bs = nextBlocks gs c2.done := by rw [is_bs, done2]
  refine ⟨?_, ?_⟩
  · intro sound same is_ws plain
    rw [sound, same] at read
    have rows := unitRows_writes o c (blockOperands o c3 gs l) bs
    rw [← is_ws] at rows
    have each : ∀ q ∈ unitRows bs, ∀ w ∈ unitWrites o c (blockOperands o c3 gs l) q, PlainSpan s w.1 w.2.length := fun q mem w at_ =>
      plain w (rows ▸ List.mem_flatMap.mpr ⟨q, mem, at_⟩)
    obtain ⟨m, out, parts, tiles, f, unit_, cells⟩ := doUnit_lands gs2 bs2 kept read job3 stop3 (by rw [tiles0]) each
    rw [rows] at cells
    have long := unitRows_long o c (blockOperands o c3 gs l) bs
    generalize is_c4 : unitDone d0.now (rowsNoted c3 (c3.accLong || (unitRows bs).any fun q =>
      (unitVals o c (blockOperands o c3 gs l) q).2) out parts) = c4 at unit_
    have job4 : SameJob c c4 := by rw [← is_c4]; exact job3
    have done4 : c4.done = c.done + 1 := by rw [← is_c4, ← done3]; rfl
    have stop4 : c4.stop = none := by rw [← is_c4]; exact stop3
    have stage4 : c4.stage = .working := by rw [← is_c4]; exact stage3
    have long4 : c4.accLong = true ↔ c.accLong = true ∨ ∃ b ∈ bs, ∃ r ∈ b.2.rows,
        (rowVals o c (blockOperands o c3 gs l b.1) r b.2.c0 b.2.c1).2 = true := by
      rw [← long, ← long3, ← Bool.or_eq_true, ← is_c4]
      rfl
    have gs4 : groupBlocks o c4 = gs := by rw [is_gs, groupBlocks_job job4]
    have desk4 : ({ d0 with mem := m, tiles := tiles, freeCtr := f } : Desk) = { s.desk with mem := m, tiles := tiles, freeCtr := f } := by
      rw [tiles0]
    rw [desk4] at unit_
    by_cases last : c.done + 1 < unitCount gs
    · have made : tensorAfter (envOf s) n o (doUnit (envOf s) n o (d0, c2)) =
          setCur { s.desk with mem := m, tiles := tiles, freeCtr := f } n (some c4) := by
        rw [unit_]
        exact if_pos (by simp [gs4, done4, last])
      rw [made] at ran
      refine ⟨_, c4, ran, settle_cur (setCur_same _ _ _), job4.1, done4, ?_, long4, fun _ => ⟨stage4, stop4⟩, fun all => absurd all (by omega), ?_,
        onlyDesk_settled _ _⟩
      · rw [(settle_desk_rest _).2.2.2.2.1]
        exact cells
      · rw [(settle_desk_rest _).2.2.2.2.2.2.2.1]
        exact onlyMemory_settled (s := { s with desk := { s.desk with tiles := tiles } }) ⟨rfl, fun k other => setCur_ne _ _ other⟩
    · obtain ⟨f', c5, end_, pkt5, done5, long5, stage5, status5, result5⟩ :=
        tensorEnd_ends (envOf s) { s.desk with mem := m, tiles := tiles, freeCtr := f } n o c4
      have made : tensorAfter (envOf s) n o (doUnit (envOf s) n o (d0, c2)) =
          withCur { s.desk with mem := m, tiles := tiles, freeCtr := f' } n c5 := by
        rw [unit_, ← end_]
        exact if_neg (by simp [gs4, done4, stop4, last])
      rw [made] at ran
      rw [gs4, done4] at result5
      refine ⟨_, c5, ran, settle_cur (withCur_cur _ _ _), pkt5.trans job4.1, done5.trans done4, ?_, by rw [long5]; exact long4,
        fun more => absurd more last, fun _ => ⟨stage5, status5, result5⟩, ?_, onlyDesk_settled _ _⟩
      · rw [(settle_desk_rest _).2.2.2.2.1]
        exact cells
      · rw [(settle_desk_rest _).2.2.2.2.2.2.2.1]
        exact onlyMemory_settled (s := { s with desk := { s.desk with tiles := tiles } }) ⟨rfl, fun k other => withCur_ne _ _ other⟩
  · intro f lost cells
    subst lost
    have unit_ : doUnit (envOf s) n o (d0, c2) = (d1, operandLost d1 c3 f) := by
      unfold doUnit
      simp only [← gs2, ← bs2, kept, read]
    have told : operandLost d1 c3 f = { c3 with stop := some f, stopAt := d1.now, fault := c3.fault || f == .dataLost } := by
      unfold operandLost askStop
      rw [stop3]
    have made : tensorAfter (envOf s) n o (doUnit (envOf s) n o (d0, c2)) = setCur d1 n (some (operandLost d1 c3 f)) := by
      rw [unit_, told]
      rfl
    rw [made] at ran
    refine ⟨_, operandLost d1 c3 f, ran, settle_cur (setCur_same _ _ _), ?_, ?_, ?_⟩
    · rw [told]
    · rw [told]
      exact done3
    · rw [(settle_desk_rest _).2.2.2.2.1]
      exact cells

end Sys2Proof.Machine
end

section
/-! SUPPORT. Records of other ranks: the run of a job that stands in the preload place of its queue. -/
namespace Sys2Proof.Machine

/-- An image on two modules, of which this is the second; its one phase visits window 1 here. -/
def secondRankImage : Image :=
  ⟨512, 1, 2, 1, false, 7, [0, 1], [], [], List.replicate 256 0, 0, List.replicate 16 0, [[some 0, some 1]], 0, none,
    List.replicate 256 0, [0], []⟩

/-- A run on slot 0 that has begun. -/
def begunRun : Cmd :=
  { freshCmd State.reset.desk (State.reset.desk.sqs.at 0) (0x10 :: List.replicate 127 0) 0 none 0 with stage := .working, began := true }

/-- The stop record of the job, from module 1. -/
def jobStop : Msg := ⟨0, 3, 1, 0, false, 7, List.replicate 528 0, 0⟩

/-- The slot of the job, whose tile is inside the phase. -/
def insideSlot : Slot := { state := .committed, m := 2, jobKey := 7, image := some secondRankImage, visited := [⟨1, 0, [], 0, 0⟩] }

/-- A stop record waits, and the run of its job stands in the preload place of a queue that has no command. -/
def preloadedRun : State := { State.reset with
  desk := { State.reset.desk with slots := State.reset.desk.slots.put 0 insideSlot, sqs := State.reset.desk.sqs.put 0 { pre := some begunRun } }
  fab := { State.reset.fab with inbox := [(0, jobStop)] } }

set_option Elab.async false in
theorem preloadedRun_meets : jobSlot preloadedRun.desk 7 = some 0 ∧ slotRun preloadedRun.desk 0 = some (0, begunRun) ∧
    preloadedRun.desk.slots.at 0 = insideSlot ∧ midPhase secondRankImage insideSlot = true := by
  decide +kernel

/-- The stop record leaves the queue as it is. -/
theorem preloadedRun_stop : ((takeRecordRow 0 3 preloadedRun).desk.sqs.at 0).cur = none := by
  decide +kernel

/-- Refutes O44: the run of a job may stand in the preload place of a queue that has no command; the stop record that comes while a tile is
inside the phase leaves it there, and the queue is without a command after it. -/
theorem not_recordsReachTheirRun : ¬ Obligations.RecordsReachTheirRun := by
  intro h
  obtain ⟨job, run, slot, inside⟩ := preloadedRun_meets
  obtain ⟨_, rows⟩ := h preloadedRun 0 jobStop ⟨rfl, .inr rfl⟩
  obtain ⟨_, _, _, _, stop, _⟩ := rows 0 0 begunRun secondRankImage job run (by decide +kernel) (congrArg Slot.image slot) rfl rfl
  rw [slot] at stop
  obtain ⟨t, ran, _, _, during, _⟩ := stop rfl rfl (by decide) rfl (by decide)
  obtain rfl : takeRecordRow 0 3 preloadedRun = t := Host.Outcome.next.inj ran
  exact nomatch preloadedRun_stop.symm.trans (during inside)

end Sys2Proof.Machine
end

section
/-! SUPPORT. Events of a run on one module: visits, boundaries, fetches, exchanges and boundary tests. -/
namespace Sys2Proof.Machine

/-! ## A run that goes on -/

set_option Elab.async false in
theorem curOf_eq_some {d : Desk} {n : Fin 64} {ops : List Op} {c : Cmd} (h : curOf d n ops = some c) :
    (d.sqs.at n).cur = some c ∧ ∃ o, pktOp c.pkt = some o ∧ ops.contains o = true := by
  unfold curOf at h
  split at h
  case h_2 => exact nomatch h
  case h_1 cur =>
    split at h
    case h_2 => exact nomatch h
    case h_1 o op =>
      split at h
      case isFalse => exact nomatch h
      case isTrue held =>
        cases h
        exact ⟨cur, o, op, held⟩

/-- A run that has begun and goes on: its clock, its command, its image and its stage. -/
theorem runningOf_eq_some {d : Desk} {n : Fin 64} {c : Cmd} {g : Image} (h : runningOf d n = some (c, g)) :
    d.tclkOff = false ∧ curOf d n [.anneal, .sample, .correlate, .resume] = some c ∧ (d.slots.at (cmdSlot c)).image = some g ∧
    c.stage = .working ∧ goesOn g c (d.slots.at (cmdSlot c)) = true := by
  unfold runningOf tileCur at h
  split at h
  case h_2 => exact nomatch h
  case h_1 c1 cur =>
    split at cur
    case isTrue => exact nomatch cur
    case isFalse clock =>
      split at h
      case h_2 => exact nomatch h
      case h_1 g1 image =>
        split at h
        case isFalse => exact nomatch h
        case isTrue goes =>
          cases h
          have stage := goes
          unfold goesOn at stage
          rw [Bool.and_eq_true, beq_iff_eq] at stage
          exact ⟨by simpa using clock, cur, image, stage.1, goes⟩

theorem RunOn.begun {s : State} {n : Fin 64} {c : Cmd} {g : Image} {x : Slot} (h : RunOn s n c g x) : s.desk.tclkOff = false ∧
    (s.desk.sqs.at n).cur = some c ∧ s.desk.slots.at (cmdSlot c) = x ∧ x.image = some g ∧ c.stage = .working ∧ goesOn g c x = true := by
  obtain ⟨running, rfl, _, _⟩ := h
  obtain ⟨clock, cur, image, stage, goes⟩ := runningOf_eq_some running
  exact ⟨clock, (curOf_eq_some cur).1, rfl, image, stage, goes⟩

theorem RunOn.tileCur {s : State} {n : Fin 64} {c : Cmd} {g : Image} {x : Slot} (h : RunOn s n c g x) :
    Machine.tileCur s.desk n [.anneal, .sample, .correlate, .resume] = some c := by
  obtain ⟨running, _, _, _⟩ := h
  obtain ⟨clock, cur, _⟩ := runningOf_eq_some running
  unfold Machine.tileCur
  rw [clock]
  exact cur

/-- A slot and the command of a queue written together. -/
theorem setCur_updSlot (d : Desk) (n : Fin 64) (c : Cmd) (y : Slot) : setCur (updSlot d (cmdSlot c) fun _ => y) n (some c) = withRun d n c y := rfl

/-- What settles keeps of a run. -/
theorem withRun_settled (s : State) (n : Fin 64) (c : Cmd) (y : Slot) : let t := settle { s with desk := withRun s.desk n c y }
    t.desk.slots.at (cmdSlot c) = y ∧ (t.desk.sqs.at n).cur = some c ∧ t.desk.mem = s.desk.mem ∧
    (∀ i, i ≠ cmdSlot c → t.desk.slots.at i = s.desk.slots.at i) ∧ OnlyDesk s t := by
  intro t
  obtain ⟨sqs, _, slots, _, mem, _⟩ := settle_desk_rest { s with desk := withRun s.desk n c y }
  refine ⟨?_, ?_, mem, fun i other => ?_, onlyDesk_settled _ _⟩
  · rw [slots]
    exact Tab.at_put_same _ _ _
  · rw [sqs]
    exact withCur_cur _ _ _
  · rw [slots]
    exact Tab.at_put_ne _ _ _ _ other

/-! ## Visits -/

theorem flipSet_xor (s f : BitVec 256) (xs : List Nat) : flipSet (s ^^^ f) xs = s ^^^ flipSet f xs := by
  unfold flipSet
  induction xs generalizing f with
  | nil => rfl
  | cons x xs ih => rw [List.foldl_cons, List.foldl_cons, BitVec.xor_assoc, ih]

/-- The spins under way are the first ones with the flips so far. -/
def FlipsNoted (s0 : BitVec 256) (v : Visit) : Prop := v.s = s0 ^^^ v.flips

theorem commitMove_flips {s0 : BitVec 256} {v : Visit} (h : FlipsNoted s0 v) (c : VisitCtx) (r : Nat) (xs : List Nat) (de : Int) :
    FlipsNoted s0 (commitMove c v r xs de) := by
  show flipSet v.s xs = s0 ^^^ flipSet v.flips xs
  rw [h, flipSet_xor]

theorem visitPos_flips {s0 : BitVec 256} {v : Visit} (h : FlipsNoted s0 v) (c : VisitCtx) (k beta r : Nat) :
    FlipsNoted s0 (visitPos c k beta v r) := by
  unfold visitPos
  split
  · exact h
  · have proposed : FlipsNoted s0 { v with proposed := v.proposed + 1 } := h
    dsimp only
    split
    · split
      · exact commitMove_flips proposed _ _ _ _
      · exact proposed
    · split
      · exact commitMove_flips proposed _ _ _ _
      · exact proposed

theorem visitReplica_flips (c : VisitCtx) (k beta : Nat) (s : BitVec 256) (h : List Int) :
    (visitReplica c k beta s h).s = s ^^^ (visitReplica c k beta s h).flips := by
  have folded : ∀ (l : List Nat) (v : Visit), FlipsNoted s v → FlipsNoted s (l.foldl (visitPos c k beta) v) := by
    intro l
    induction l with
    | nil => exact fun _ h => h
    | cons r l ih => exact fun v h => ih _ (visitPos_flips h c k beta r)
  exact folded _ _ BitVec.xor_zero.symm

theorem getD_map_range {α : Type} {m k : Nat} (h : k < m) (f : Nat → α) (z : α) : ((List.range m).map f).getD k z = f k := by
  rw [List.getD_eq_getElem?_getD, List.getElem?_map, List.getElem?_range h]
  rfl

/-- The visits of a window by the replicas. -/
def windowVisits (g : Image) (x : Slot) (w : Nat) : List Visit := (List.range 16).map fun k =>
  visitReplica (visitCtx g (slotParams x) x.ann x.biases w) k (getn x.betas k) ((x.ann.spins.getD k []).getD (g.pos w) 0)
    (((x.fields.getD k []).drop (256 * g.pos w)).take 256)

theorem windowVisits_flips (g : Image) (x : Slot) (w : Nat) {k : Nat} (h : k < 16) (v : Visit) :
    ((windowVisits g x w).getD k v).s =
      (x.ann.spins.getD k []).getD (g.pos w) 0 ^^^ ((windowVisits g x w).map (·.flips)).getD k 0 := by
  unfold windowVisits
  rw [List.map_map, getD_map_range h, getD_map_range h]
  exact visitReplica_flips _ _ _ _ _

theorem visitWindow_visits (g : Image) {x : Slot} {w : Nat} (first : ∀ z ∈ x.visited, z.window ≠ w) :
    ∃ z : Notice, (visitWindow g (slotParams x) x w).visited = x.visited ++ [z] ∧ z.window = w ∧
      (∀ k, k < 16 → (visitWindow g (slotParams x) x w).ann.spins.getD k [] =
        (x.ann.spins.getD k []).set (g.pos w) ((x.ann.spins.getD k []).getD (g.pos w) 0 ^^^ z.flips.getD k 0)) ∧
      (visitWindow g (slotParams x) x w).fields = x.fields ∧ (visitWindow g (slotParams x) x w).mirror = x.mirror ∧
      (visitWindow g (slotParams x) x w).ann.sweep = x.ann.sweep ∧ (visitWindow g (slotParams x) x w).ann.phase = x.ann.phase ∧
      (visitWindow g (slotParams x) x w).ann.counters.visits = addCount x.ann.counters.visits 1 := by
  have fresh : ¬ (x.visited.any fun z => z.window == w) = true := by
    rw [List.any_eq_true]
    rintro ⟨z, mem, at_⟩
    exact first z mem (eq_of_beq at_)
  unfold visitWindow
  rw [if_neg fresh]
  refine ⟨_, rfl, rfl, fun k lt => ?_, rfl, rfl, rfl, rfl, rfl⟩
  show ((List.range 16).map fun k => (x.ann.spins.getD k []).set (g.pos w)
    ((windowVisits g x w).getD k ⟨0, [], 0, 0, 0, 0, 0, 0⟩).s).getD k [] = (x.ann.spins.getD k []).set (g.pos w)
      ((x.ann.spins.getD k []).getD (g.pos w) 0 ^^^ ((windowVisits g x w).map (·.flips)).getD k 0)
  rw [getD_map_range lt, windowVisits_flips g x w lt]

theorem deskVisit_makes {e : Env} {d : Desk} {c : Cmd} {g : Image} {w : Nat} {x : Slot} (is_x : d.slots.at (cmdSlot c) = x) (alone : g.m = 1)
    (rank : g.rank = 0) (may : mayVisit g x = true) (own : w ∈ ownPhase g x.ann) (first : ∀ z ∈ x.visited, z.window ≠ w) :
    deskVisit e d c g w = updSlot d (cmdSlot c) fun _ => visitWindow g (slotParams x) x w := by
  have fresh : (x.visited.any fun z => z.window == w) = false := by
    rw [List.any_eq_false]
    exact fun z mem => by simpa using first z mem
  unfold deskVisit
  simp only [is_x, may, List.contains_iff_mem.mpr own, fresh, toRanks_alone e alone rank, Bool.not_false, Bool.and_self, if_true, List.append_nil]
  split <;> simp only [List.append_nil] <;> rfl

theorem tileVisit_makes {s : State} {n : Fin 64} {c : Cmd} {g : Image} {x : Slot} (h : RunOn s n c g x) {tile w : Nat} (tiles : tile < g.t)
    (entry : phaseEntry g x.ann.phase tile = some w) (may : mayVisit g x = true) (first : ∀ z ∈ x.visited, z.window ≠ w) :
    tileVisit (envOf s) s.desk n c g tile =
      withRun s.desk n { c with progressAt := s.desk.now } (visitWindow g (slotParams x) x w) := by
  obtain ⟨_, _, is_x, _⟩ := h.begun
  obtain ⟨_, _, alone, rank⟩ := h
  have own : w ∈ ownPhase g x.ann := List.mem_filterMap.mpr ⟨tile, List.mem_range.mpr tiles, entry⟩
  obtain ⟨z, visited, _⟩ := visitWindow_visits g first
  have grew : (visitWindow g (slotParams x) x w).visited.length ≠ x.visited.length := by
    rw [visited, List.length_append]
    exact Nat.succ_ne_self _
  have visit := deskVisit_makes (e := envOf s) is_x alone rank may own first
  have slot : (updSlot s.desk (cmdSlot c) fun _ => visitWindow g (slotParams x) x w).slots.at (cmdSlot c) =
      visitWindow g (slotParams x) x w := Tab.at_upd_same _ _ _
  unfold tileVisit
  simp only [is_x, tiles, if_true, entry, visit, slot, grew, if_false]
  rfl

/-- A tile that visits nothing in the phase. -/
theorem tileVisit_none {e : Env} {d : Desk} {n : Fin 64} {c : Cmd} {g : Image} {tile : Nat}
    (idle : g.t ≤ tile ∨ phaseEntry g (d.slots.at (cmdSlot c)).ann.phase tile = none) : tileVisit e d n c g tile = d := by
  have none_ : (if tile < g.t then phaseEntry g (d.slots.at (cmdSlot c)).ann.phase tile else none) = none := by
    split
    · exact idle.resolve_left (by omega)
    · rfl
  unfold tileVisit
  simp only [none_]

/-! ## Boundaries -/

/-- The slot after the fields of a boundary are updated. -/
def updatedSlot (g : Image) (x : Slot) : Slot := { phaseBoundary g x with fetched := [], primed := true }

/-- The boundary that a FIRSTWIN run keeps for its tests. -/
def keptBoundary (g : Image) (x : Slot) : Boundary :=
  ⟨x.ann.sweep, x.ann.phase, energiesNow g (updatedSlot g x), (updatedSlot g x).ann.spins, List.range 16⟩

/-- The slot after the tests of a boundary are set up. -/
def testedSlot (g : Image) (c : Cmd) (x : Slot) : Slot :=
  if (slotParams x).firstWin && !c.strict && !(updatedSlot g x).sweepDue then
    { updatedSlot g x with boundaries := (updatedSlot g x).boundaries ++ [keptBoundary g x] }
  else updatedSlot g x

/-- The slot after a boundary. -/
def boundarySlot (g : Image) (c : Cmd) (x : Slot) : Slot :=
  { testedSlot g c x with point := if (testedSlot g c x).sweepDue then (testedSlot g c x).point else some (testedSlot g c x).ann }

theorem useRecords_none (g : Image) {x : Slot} (none_ : x.overflow = []) : useRecords g x = x := by
  unfold useRecords
  rw [none_]
  rfl

theorem updatedSlot_plain (g : Image) {x : Slot} (none_ : x.overflow = []) :
    (updatedSlot g x).fields = (List.range 16).map (fun k => (boundaryReplica g x k).1) ∧ (updatedSlot g x).mirror = mirrorAfter x ∧
    (updatedSlot g x).ann.spins = x.ann.spins ∧ (updatedSlot g x).ann.sweep = x.ann.sweep ∧
    (updatedSlot g x).ann.phase = (if g.phases.length ≤ x.ann.phase + 1 then x.ann.phase else x.ann.phase + 1) ∧
    (updatedSlot g x).sweepDue = decide (g.phases.length ≤ x.ann.phase + 1) ∧
    (updatedSlot g x).visited = (x.early.filter fun z => z.1 == barrierNo g x.ann + 1).map (·.2) ∧
    (updatedSlot g x).boundaries = x.boundaries := by
  unfold updatedSlot phaseBoundary
  rw [useRecords_none g none_]
  refine ⟨?_, rfl, rfl, rfl, ?_, rfl, rfl, rfl⟩
  · exact List.map_map
  · simp only [decide_eq_true_eq]

/-- Beside its boundaries, the slot whose tests are set up is the one updated. -/
theorem testedSlot_eq (g : Image) (c : Cmd) (x : Slot) :
    testedSlot g c x = { updatedSlot g x with boundaries := (testedSlot g c x).boundaries } := by
  unfold testedSlot
  split <;> rfl

theorem testedSlot_boundaries (g : Image) (c : Cmd) (x : Slot) : (testedSlot g c x).boundaries =
    if (slotParams x).firstWin && !c.strict && !(updatedSlot g x).sweepDue then (updatedSlot g x).boundaries ++ [keptBoundary g x]
    else (updatedSlot g x).boundaries := by
  unfold testedSlot
  split <;> rfl

/-- Only the counts of a run change, and when it last went on. -/
def OnlyCounts (c c' : Cmd) : Prop :=
  c' = { c with cycles := c'.cycles, resolverStall := c'.resolverStall, flipStall := c'.flipStall, progressAt := c'.progressAt }

theorem OnlyCounts.same {c c' : Cmd} (h : OnlyCounts c c') : cmdSlot c' = cmdSlot c ∧ c'.stage = c.stage ∧ c'.stop = c.stop := by
  rw [OnlyCounts] at h
  rw [h]
  exact ⟨rfl, rfl, rfl⟩

/-- The boundary of a run on one module changes the slot, and counts in the command. -/
theorem deskBoundary_ends {e : Env} {d : Desk} {n : Fin 64} {c : Cmd} {g : Image} {x : Slot} (is_x : d.slots.at (cmdSlot c) = x)
    (alone : g.m = 1) (rank : g.rank = 0) (due : x.sweepDue = false) (held : phaseHeld g x = true) (fills : fillsHeld x = true) :
    ∃ c', OnlyCounts c c' ∧ deskBoundary e d n c g = withRun d n c' (boundarySlot g c x) := by
  refine ⟨{ c with
    cycles := c.cycles + phaseCost g x (spansDies c.tiles)
    resolverStall := c.resolverStall + sumNat (x.visited.map fun x => x.rho - 16)
    flipStall := c.flipStall + g.t * broadcastCost g x.ann.phase (spansDies c.tiles), progressAt := d.now }, rfl, ?_⟩
  unfold deskBoundary
  simp only [is_x, due, held, fills, rank, toRanks_alone e alone rank, Bool.not_true, Bool.or_self, Bool.false_eq_true, if_false,
    List.append_nil, BEq.rfl, if_true, Bool.and_false]
  refine (ite_self _).trans ?_
  rfl

/-- Nothing is left to fetch where the sweep has ended, no tile streams, or the home copy reads as it did. -/
theorem phaseStream_still {d : Desk} {n : Fin 64} {c : Cmd} {g : Image} {x : Slot} (cur : (d.sqs.at n).cur = some c)
    (is_x : d.slots.at (cmdSlot c) = x) (image : x.image = some g) (still : x.sweepDue = true ∨ streamCount g = 0 ∨ homeMoved d g = false) :
    phaseStream d n = d := by
  unfold phaseStream
  simp only [cur, is_x, image]
  refine if_pos ?_
  obtain due | none_ | same := still <;> simp [*]

theorem finishFirstWin_not {e : Env} {d : Desk} {n : Fin 64} {c : Cmd} {g : Image} (not_ : (d.slots.at (cmdSlot c)).winPhase = 0xFFFF) :
    finishFirstWin e d n c g = d := by
  unfold finishFirstWin
  exact if_pos (by simp [not_])

/-- A boundary that is not due changes nothing. -/
theorem deskBoundary_waits {e : Env} {d : Desk} {n : Fin 64} {c : Cmd} {g : Image} {x : Slot} (is_x : d.slots.at (cmdSlot c) = x)
    (waits : x.sweepDue = true ∨ phaseHeld g x = false ∨ fillsHeld x = false) : deskBoundary e d n c g = d := by
  unfold deskBoundary
  refine if_pos ?_
  obtain due | held | fills := waits <;> simp [*]

theorem phaseEnd_waits {s : State} {n : Fin 64} {c : Cmd} {g : Image} {x : Slot} (h : RunOn s n c g x)
    (still : phaseStream s.desk n = s.desk) (waits : x.sweepDue = true ∨ phaseHeld g x = false ∨ fillsHeld x = false)
    (win : x.winPhase = 0xFFFF) : phaseEnd (envOf s) s.desk n = s.desk := by
  obtain ⟨_, cur, is_x, _, stage, _⟩ := h.begun
  obtain ⟨running, _⟩ := h
  unfold phaseEnd
  simp only [still, running, deskBoundary_waits is_x waits, cur, stage, BEq.rfl, if_true]
  exact finishFirstWin_not (by rw [is_x]; exact win)

theorem boundarySlot_winPhase {g : Image} {x : Slot} (none_ : x.overflow = []) (c : Cmd) : (boundarySlot g c x).winPhase = x.winPhase := by
  unfold boundarySlot
  rw [testedSlot_eq]
  unfold updatedSlot phaseBoundary
  rw [useRecords_none g none_]

theorem withRun_at (d : Desk) (n : Fin 64) {c c' : Cmd} (same : cmdSlot c' = cmdSlot c) (y : Slot) :
    ((withRun d n c' y).sqs.at n).cur = some c' ∧ (withRun d n c' y).slots.at (cmdSlot c) = y := by
  rw [← same]
  exact ⟨withCur_cur _ _ _, Tab.at_put_same _ _ _⟩

theorem phaseEnd_ends {s : State} {n : Fin 64} {c : Cmd} {g : Image} {x : Slot} (h : RunOn s n c g x) (still : phaseStream s.desk n = s.desk)
    (due : x.sweepDue = false) (held : phaseHeld g x = true) (fills : fillsHeld x = true) (win : x.winPhase = 0xFFFF)
    (none_ : x.overflow = []) : ∃ c', cmdSlot c' = cmdSlot c ∧ phaseEnd (envOf s) s.desk n = withRun s.desk n c' (boundarySlot g c x) := by
  obtain ⟨_, _, is_x, _, stage, _⟩ := h.begun
  obtain ⟨running, _, alone, rank⟩ := h
  obtain ⟨c', counts, ends⟩ := deskBoundary_ends (e := envOf s) (n := n) is_x alone rank due held fills
  obtain ⟨slot, stage', _⟩ := counts.same
  obtain ⟨cur, is_y⟩ := withRun_at s.desk n slot (boundarySlot g c x)
  refine ⟨c', slot, ?_⟩
  unfold phaseEnd
  simp only [still, running, ends, cur, stage', stage, BEq.rfl, if_true]
  exact finishFirstWin_not (by rw [slot, is_y, boundarySlot_winPhase none_ c]; exact win)

/-! ## Fetches -/

theorem filterMap_getElem_range {α : Type} (l : List α) : (List.range l.length).filterMap (fun k => l[k]?) = l := by
  induction l with
  | nil => rfl
  | cons a l ih =>
    rw [List.length_cons, List.range_succ_eq_map, List.filterMap_cons, List.filterMap_map]
    exact congrArg (a :: ·) ih

/-- A block that reads as it did leaves the image as it is. -/
theorem rereadBlocks_same {d : Desk} {g : Image} {i : Nat} {b : Block} (at_ : g.blocks[i]? = some b) (same : rereadBlock d g b = b) :
    ((List.range g.blocks.length).filterMap fun k => (g.blocks[k]?).map fun b => if k = i then rereadBlock d g b else b) = g.blocks := by
  have each : (fun k => (g.blocks[k]?).map fun b => if k = i then rereadBlock d g b else b) = fun k => g.blocks[k]? := by
    funext k
    by_cases here : k = i
    · subst here
      rw [at_]
      simp [same]
    · simp [here]
  rw [each]
  exact filterMap_getElem_range _

theorem phaseHeads_none {d : Desk} {n : Fin 64} {c : Cmd} {g : Image} {x : Slot} (none_ : (List.range 4).any (dirLost g x c.tiles) = false) :
    phaseHeads d n c g x = (d, c) := by
  unfold phaseHeads
  exact if_neg (by rw [none_, Bool.and_false]; exact Bool.false_ne_true)

theorem fetchBlock_turn {d : Desk} {n : Fin 64} {c : Cmd} {g : Image} {x : Slot} {tile i : Nat} (is_x : d.slots.at (cmdSlot c) = x)
    (due : x.sweepDue = false) (turn : (phaseFetches g x tile)[(tileBufs x tile).done]? = some i)
    (dirs : (List.range 4).any (dirLost g x c.tiles) = false) : fetchBlock d n c g tile i =
      setCur (updSlot (fetchRead d n c i).1 (cmdSlot c) fun s =>
        { s with fetched := (s.fetched.filter fun x => x.tile != tile) ++ [(tileBufs x tile).take g i] }) n
        (some { (fetchRead d n c i).2 with progressAt := d.now }) := by
  unfold fetchBlock
  simp only [is_x, turn, due, phaseHeads_none dirs]
  simp

theorem fetchBlock_out_of_turn {d : Desk} {n : Fin 64} {c : Cmd} {g : Image} {x : Slot} {tile i : Nat} (is_x : d.slots.at (cmdSlot c) = x)
    (out_ : x.sweepDue = true ∨ (phaseFetches g x tile)[(tileBufs x tile).done]? ≠ some i) : fetchBlock d n c g tile i = d := by
  unfold fetchBlock
  simp only [is_x]
  refine if_pos ?_
  obtain due | other := out_ <;> simp [*]

theorem fetchRead_sound {d : Desk} {n : Fin 64} {c : Cmd} {g : Image} {x : Slot} {i : Nat} {b : Block} (is_x : d.slots.at (cmdSlot c) = x)
    (image : x.image = some g) (at_ : g.blocks[i]? = some b) (sound : badSector d.mem b.addr (recordLen b.fmt) = none)
    (same : rereadBlock d g b = b) : fetchRead d n c i = (d, c) := by
  have read : readBlock d n c g i = (d, c) := by
    unfold readBlock readRecord
    simp only [at_, sound]
  unfold fetchRead
  simp only [is_x, image, read, rereadBlocks_same at_ same]
  have still : (updSlot d (cmdSlot c) fun s => { s with image := some g }) = d := by
    unfold updSlot Tab.upd
    rw [is_x, ← image, ← is_x]
    exact congrArg (fun l => { d with slots := l }) (Tab.put_at_self _ _)
  exact congrArg (fun d => (d, c)) still

theorem fetchRead_lost {d : Desk} {n : Fin 64} {c : Cmd} {g : Image} {x : Slot} {i k : Nat} {b : Block} (is_x : d.slots.at (cmdSlot c) = x)
    (image : x.image = some g) (at_ : g.blocks[i]? = some b) (lost : badSector d.mem b.addr (recordLen b.fmt) = some k) (twin : g.twin = none) :
    (fetchRead d n c i).2 = lostRead d c := by
  unfold fetchRead readBlock readRecord
  simp only [is_x, image, at_, lost, twin]

/-! ## Asynchronous exchanges -/

theorem asyncExchange_not {e : Env} {d : Desk} {c : Cmd} {g : Image} {x : Slot} (is_x : d.slots.at (cmdSlot c) = x)
    (not_ : (slotParams x).rxMode ≠ 2 ∨ c.strict = true ∨ x.ann.sweep < rxDue (slotParams x) x.rxDone) : asyncExchange e d c g = d := by
  unfold asyncExchange
  simp only [is_x]
  refine if_pos ?_
  obtain mode | strict | early := not_ <;> simp [*]

/-- The slot after an asynchronous exchange. -/
def exchangedSlot (x : Slot) (r : List Nat × Nat × Nat) : Slot := { x with
  piNext := some r.1
  rxDone := rxDue (slotParams x) x.rxDone
  ann := { x.ann with
    exch := x.ann.exch + 1
    counters := { x.ann.counters with
      rxAttempts := addCount x.ann.counters.rxAttempts r.2.1, rxAccepts := addCount x.ann.counters.rxAccepts r.2.2 } } }

theorem asyncExchange_counts {e : Env} {d : Desk} {c : Cmd} {g : Image} {x : Slot} (is_x : d.slots.at (cmdSlot c) = x) (alone : g.m = 1)
    (rank : g.rank = 0) (betas : x.betasPrev ≠ []) (mode : (slotParams x).rxMode = 2) (strict : c.strict = false)
    (due : rxDue (slotParams x) x.rxDone ≤ x.ann.sweep) : asyncExchange e d c g = withSlot d (cmdSlot c) (exchangedSlot x
      (exchange x.ann.seed x.ann.exch (rxDue (slotParams x) x.rxDone - 1) (x.piNext.getD x.ann.pi) x.betasPrev x.ann.e)) := by
  have some_ : x.betasPrev.isEmpty = false := by simpa using betas
  have late : ¬ x.ann.sweep < rxDue (slotParams x) x.rxDone := by omega
  unfold asyncExchange
  simp only [is_x, mode, strict, rank, some_, late, toRanks_alone e alone rank, List.append_nil, decide_false, bne_self_eq_false, Bool.or_self,
    Bool.false_eq_true, if_false]
  unfold updSlot Tab.upd
  rw [is_x]
  rfl

/-! ## Boundary tests -/

theorem boundaryEnergies_alone {g : Image} (alone : g.m = 1) (rank : g.rank = 0) (x : Slot) (b : Boundary) :
    boundaryEnergies g x b = some ((List.range 16).map fun k => wrap64 (geti b.energies k)) := by
  unfold boundaryEnergies
  rw [alone, rank]
  simp [sumInt, geti]

/-- The slot after replica `k` has won at a boundary with energy `e`. -/
def wonSlot (x : Slot) (b : Boundary) (k : Nat) (e : Int) : Slot := { x with
  ann := { x.ann with
    best := x.ann.best.set k e, bestSweep := x.ann.bestSweep.set k b.sweep, bestSpins := x.ann.bestSpins.set k (b.spins.getD k []) }
  boundaries := [], winner := k, winPhase := b.phase }

section
variable {s : State} {n : Fin 64} {c : Cmd} {g : Image} {x : Slot} {b : Boundary} {rest : List Boundary} {k : Fin 16}
variable (h : RunOn s n c g x) (at_ : x.boundaries = b :: rest) (untested : k.val ∈ b.untested) (goes : terminal c.stop = false)
include h at_ untested goes

theorem boundaryTest_wins (valid : (slotParams x).targetValid = true)
    (met : wrap64 (geti b.energies k.val) ≤ (slotParams x).target) : boundaryTest (envOf s) s.desk n c g k.val =
      finishFirstWin (envOf s) (withSlot s.desk (cmdSlot c) (wonSlot x b k.val (wrap64 (geti b.energies k.val)))) n c g := by
  obtain ⟨_, _, is_x, _⟩ := h.begun
  obtain ⟨_, _, alone, rank⟩ := h
  have energy : geti ((List.range 16).map fun k => wrap64 (geti b.energies k)) k.val = wrap64 (geti b.energies k.val) :=
    getD_map_range k.isLt _ _
  unfold boundaryTest
  simp only [is_x, at_, boundaryEnergies_alone alone rank, energy, List.contains_iff_mem.mpr untested, goes, valid, met,
    toRanks_alone _ alone rank, List.append_nil, decide_true, Bool.and_self, Bool.not_true, Bool.or_self, Bool.false_eq_true, if_false, if_true]
  unfold updSlot Tab.upd
  rw [is_x]
  rfl

theorem boundaryTest_misses (miss : (slotParams x).targetValid = false ∨ (slotParams x).target < wrap64 (geti b.energies k.val)) :
    boundaryTest (envOf s) s.desk n c g k.val = withSlot s.desk (cmdSlot c) { x with
      boundaries := if (b.untested.erase k.val).isEmpty then rest else { b with untested := b.untested.erase k.val } :: rest } := by
  obtain ⟨_, _, is_x, _⟩ := h.begun
  obtain ⟨_, _, alone, rank⟩ := h
  have energy : geti ((List.range 16).map fun k => wrap64 (geti b.energies k)) k.val = wrap64 (geti b.energies k.val) :=
    getD_map_range k.isLt _ _
  have not_ : ((slotParams x).targetValid && decide (wrap64 (geti b.energies k.val) ≤ (slotParams x).target)) = false := by
    obtain invalid | above := miss
    · rw [invalid, Bool.false_and]
    · rw [decide_eq_false (by omega), Bool.and_false]
  unfold boundaryTest
  simp only [is_x, at_, boundaryEnergies_alone alone rank, energy, List.contains_iff_mem.mpr untested, goes, not_, Bool.not_true, Bool.or_self,
    Bool.false_eq_true, if_false]
  unfold updSlot Tab.upd
  rw [is_x]
  rfl

end

theorem writeStats_plain (e : Env) (d : Desk) (n : Fin 64) (c : Cmd) (g : Image) {a : Ann} (plain : a.opcode ≠ 0x18) (host : Bool) :
    writeStats e d n c g a host = (d, c) := if_neg plain

/-- A FIRSTWIN stop ends a run that is between its phases. -/
theorem finishFirstWin_ends {e : Env} {d : Desk} {n : Fin 64} {c : Cmd} {g : Image} {y : Slot} (is_y : d.slots.at (cmdSlot c) = y)
    (win : y.winPhase ≠ 0xFFFF) (between : midPhase g y = false) (stop : blocksEnd c.stop = false) (plain : y.ann.opcode ≠ 0x18) :
    ∃ ctr a c', finishFirstWin e d n c g = withRun { d with freeCtr := ctr } n c' { y with ann := a, sweepDue := false } ∧
      cmdSlot c' = cmdSlot c ∧ a = { y.ann with sweep := a.sweep, phase := a.phase } ∧
      c'.stage = .ended ∧ c'.status = stOk ∧ c'.stopReason = 3 := by
  obtain ⟨a, is_a⟩ : ∃ a, a = if y.sweepDue then { y.ann with sweep := y.ann.sweep + 1, phase := 0 } else y.ann := ⟨_, rfl⟩
  have rest : a = { y.ann with sweep := a.sweep, phase := a.phase } := by
    rw [is_a]
    split <;> rfl
  have plain' : a.opcode ≠ 0x18 := by
    rw [rest]
    exact plain
  have slot : ((updSlot d (cmdSlot c) fun s => { s with ann := a, sweepDue := false }).slots.at (cmdSlot c)) =
      { y with ann := a, sweepDue := false } := by
    unfold updSlot
    rw [Tab.at_upd_same, is_y]
  obtain ⟨ctr, result, digest, report, limit, ends⟩ := endRun_plain
    (d := updSlot d (cmdSlot c) fun s => { s with ann := a, sweepDue := false }) (n := n) (c := c) g stOk 3 (by rw [slot]; exact plain')
  obtain ⟨c', is_c'⟩ : ∃ c', c' = { c with
    stage := .ended, status := stOk, stopReason := 3, result := result, digest := digest, report := report, limit := limit } := ⟨_, rfl⟩
  rw [← is_c'] at ends
  refine ⟨ctr, a, c', ?ends, by rw [is_c']; rfl, rest, by rw [is_c'], by rw [is_c'], by rw [is_c']⟩
  unfold finishFirstWin
  simp only [is_y, win, between, stop, decide_false, Bool.or_self, Bool.false_eq_true, if_false, ← is_a, writeStats_plain _ _ _ _ _ plain', ends]
  rw [is_c']
  unfold updSlot Tab.upd
  rw [is_y]
  rfl

/-! ## The events of the table -/

section
variable {s : State} {n : Fin 64} {c : Cmd} {g : Image} {x : Slot} (h : RunOn s n c g x)
include h

/-- An event of a run that goes on acts on the run. -/
theorem RunOn.event (f : Env → Desk → Cmd → Image → Desk) : onDesk s (fun e d => match runningOf d n with
      | some (c, g) => f e d c g
      | none => d) = settle { s with desk := f (envOf s) s.desk c g } := by
  obtain ⟨running, _⟩ := h
  unfold onDesk
  simp only [running]

theorem RunOn.windowVisit (tile : Nat) :
    exec (.windowVisit n tile) s = .next (settle { s with desk := tileVisit (envOf s) s.desk n c g tile }) :=
  congrArg Host.Outcome.next (h.event fun e d c g => tileVisit e d n c g tile)

theorem RunOn.phaseBoundary : exec (.phaseBoundary n) s = .next (settle { s with desk := phaseEnd (envOf s) s.desk n }) := by
  obtain ⟨running, _⟩ := h
  show execPhaseBoundary n s = _
  unfold execPhaseBoundary onDesk
  simp only [running]

theorem RunOn.streamFetch (tile i : Nat) :
    exec (.streamFetch n tile i) s = .next (settle { s with desk := fetchBlock s.desk n c g tile i }) :=
  congrArg Host.Outcome.next (h.event fun _ d c g => fetchBlock d n c g tile i)

theorem RunOn.sweepEnd : exec (.sweepEnd n) s = .next (settle { s with desk := deskSweepEnd (envOf s) s.desk n c g }) :=
  congrArg Host.Outcome.next (h.event fun e d c g => deskSweepEnd e d n c g)

theorem RunOn.asyncExchange (cur : curOf s.desk n [.anneal, .sample, .resume] = some c) :
    exec (.asyncExchange n) s = .next (settle { s with desk := Machine.asyncExchange (envOf s) s.desk c g }) := by
  obtain ⟨clock, _, is_x, image, stage, _⟩ := h.begun
  have tile : Machine.tileCur s.desk n [.anneal, .sample, .resume] = some c := by
    unfold Machine.tileCur
    rw [clock]
    exact cur
  show execAsyncExchange n s = _
  unfold execAsyncExchange onDesk
  simp only [tile, is_x, image, stage, BEq.rfl, if_true]

theorem RunOn.boundaryTest (k : Fin 16) :
    exec (.boundaryTargetTest n k) s = .next (settle { s with desk := Machine.boundaryTest (envOf s) s.desk n c g k.val }) := by
  obtain ⟨_, _, is_x, image, stage, _⟩ := h.begun
  show execBoundaryTargetTest n k s = _
  unfold execBoundaryTargetTest onDesk
  simp only [h.tileCur, is_x, image, stage, BEq.rfl, if_true]

end

/-- A desk that an event leaves as it is. -/
theorem next_same {s : State} {o : Host.Outcome State Fault Refusal} {d : Desk} (ran : o = .next (settle { s with desk := d }))
    (same : d = s.desk) : o = .next (settle s) := by
  subst same
  exact ran

theorem next_made {s : State} {o : Host.Outcome State Fault Refusal} {d e : Desk} (ran : o = .next (settle { s with desk := d }))
    (made : d = e) : o = .next (settle { s with desk := e }) := made ▸ ran

theorem energiesNow_congr {g : Image} {x y : Slot} (ann : y.ann = x.ann) (sums : y.rankSums = x.rankSums) : energiesNow g y = energiesNow g x := by
  unfold energiesNow
  rw [ann, sums]

/-- What a boundary leaves in its slot. -/
theorem boundarySlot_plain (g : Image) (c : Cmd) {x : Slot} (none_ : x.overflow = []) {y : Slot} (is_y : y = boundarySlot g c x) :
    y.fields = ((List.range 16).map fun k => (boundaryReplica g x k).1) ∧ y.mirror = mirrorAfter x ∧
    y.ann.spins = x.ann.spins ∧ y.ann.sweep = x.ann.sweep ∧
    (x.ann.phase + 1 < g.phases.length → y.ann.phase = x.ann.phase + 1 ∧ y.sweepDue = false ∧ y.point = some y.ann) ∧
    (g.phases.length ≤ x.ann.phase + 1 → y.ann.phase = x.ann.phase ∧ y.sweepDue = true) ∧
    y.visited = (x.early.filter fun z => z.1 == barrierNo g x.ann + 1).map (·.2) ∧ y.fetched = [] ∧
    ((slotParams x).firstWin = false ∨ c.strict = true ∨ g.phases.length ≤ x.ann.phase + 1 → y.boundaries = x.boundaries) ∧
    ((slotParams x).firstWin = true → c.strict = false → x.ann.phase + 1 < g.phases.length → y.boundaries = x.boundaries ++
      [⟨x.ann.sweep, x.ann.phase, energiesNow g y, x.ann.spins, List.range 16⟩]) := by
  obtain ⟨fields, mirror, spins, sweep, phase, due, visited, boundaries⟩ := updatedSlot_plain g none_
  have kept := testedSlot_boundaries g c x
  have parts : y = { updatedSlot g x with boundaries := (testedSlot g c x).boundaries, point := y.point } ∧
      ((updatedSlot g x).sweepDue = false → y.point = some (updatedSlot g x).ann) := by
    rw [is_y]
    unfold boundarySlot
    rw [testedSlot_eq]
    exact ⟨rfl, fun open_ => if_neg (by rw [open_]; exact Bool.false_ne_true)⟩
  obtain ⟨y_eq, point⟩ := parts
  have energies : energiesNow g y = energiesNow g (updatedSlot g x) := energiesNow_congr (by rw [y_eq]) (by rw [y_eq])
  rw [boundaries] at kept
  refine ⟨by rw [y_eq]; exact fields, by rw [y_eq]; exact mirror, by rw [y_eq]; exact spins, by rw [y_eq]; exact sweep,
    fun more => ?_, fun last => ?_, by rw [y_eq]; exact visited, by rw [y_eq]; rfl, fun no => ?_, fun first strict more => ?_⟩
  · have open_ : (updatedSlot g x).sweepDue = false := by rw [due]; exact decide_eq_false (by omega)
    refine ⟨by rw [y_eq]; exact phase.trans (if_neg (by omega)), by rw [y_eq]; exact open_, ?_⟩
    rw [point open_, y_eq]
  · rw [y_eq]
    exact ⟨phase.trans (if_pos last), due.trans (decide_eq_true last)⟩
  · rw [y_eq]
    refine kept.trans (if_neg ?_)
    rw [due]
    obtain no | strict | last := no <;> simp [*]
  · rw [energies, y_eq]
    refine kept.trans ((if_pos ?_).trans ?_)
    · rw [first, strict, due, decide_eq_false (by omega)]
      rfl
    · unfold keptBoundary
      rw [spins]

theorem RunOn.tests_win {s : State} {n : Fin 64} {c : Cmd} {g : Image} {x : Slot} (h : RunOn s n c g x) {b : Boundary} {rest : List Boundary}
    {k : Fin 16} (at_ : x.boundaries = b :: rest) (untested : k.val ∈ b.untested) (goes : terminal c.stop = false)
    (valid : (slotParams x).targetValid = true) (met : wrap64 (geti b.energies k.val) ≤ (slotParams x).target) (inside : b.phase ≠ 0xFFFF)
    (stop : blocksEnd c.stop = false) (plain : x.ann.opcode ≠ 0x18) :
    ∃ d c' ann due, exec (.boundaryTargetTest n k) s = .next (settle { s with desk := d }) ∧ (d.sqs.at n).cur = some c' ∧
      d.slots.at (cmdSlot c) = { wonSlot x b k.val (wrap64 (geti b.energies k.val)) with ann := ann, sweepDue := due } ∧
      d.mem = s.desk.mem ∧ (∃ sweep phase, ann = { (wonSlot x b k.val (wrap64 (geti b.energies k.val))).ann with sweep := sweep, phase := phase }) ∧
      (midPhase g x = true → c' = c) ∧ (midPhase g x = false → c'.stage = .ended ∧ c'.status = stOk ∧ c'.stopReason = 3) := by
  obtain ⟨_, cur, _⟩ := h.begun
  have ran := h.boundaryTest k
  rw [boundaryTest_wins h at_ untested goes valid met] at ran
  obtain ⟨y, is_y⟩ : ∃ y, y = wonSlot x b k.val (wrap64 (geti b.energies k.val)) := ⟨_, rfl⟩
  have at_y : (withSlot s.desk (cmdSlot c) y).slots.at (cmdSlot c) = y := Tab.at_put_same _ _ _
  have same : midPhase g y = midPhase g x := by rw [is_y]; rfl
  have win : y.winPhase ≠ 0xFFFF := by rw [is_y]; exact inside
  have op : y.ann.opcode ≠ 0x18 := by rw [is_y]; exact plain
  rw [← is_y] at ran ⊢
  by_cases mid : midPhase g x = true
  · have stays : finishFirstWin (envOf s) (withSlot s.desk (cmdSlot c) y) n c g = withSlot s.desk (cmdSlot c) y := by
      unfold finishFirstWin
      exact if_pos (by simp [at_y, same, mid])
    rw [stays] at ran
    exact ⟨_, c, y.ann, y.sweepDue, ran, cur, at_y, rfl, ⟨y.ann.sweep, y.ann.phase, rfl⟩, fun _ => rfl, fun no => absurd mid (by rw [no]; exact Bool.false_ne_true)⟩
  · obtain ⟨ctr, a, c', ends, slot, is_a, stage, status, reason⟩ := finishFirstWin_ends (e := envOf s) (n := n) (g := g) at_y win
      (same.trans (Bool.eq_false_iff.mpr mid)) stop op
    rw [ends] at ran
    obtain ⟨cur', at_'⟩ := withRun_at { withSlot s.desk (cmdSlot c) y with freeCtr := ctr } n slot { y with ann := a, sweepDue := false }
    exact ⟨_, c', a, false, ran, cur', at_', rfl, ⟨_, _, is_a⟩, fun yes => absurd yes mid, fun _ => ⟨stage, status, reason⟩⟩

/-- Settles O51: a visit notes the flips it makes, a boundary is `boundarySlot`, and a fetch, an exchange and a boundary test
each change the slot of the run alone. -/
theorem visitsAndBoundaries : Obligations.VisitsAndBoundaries := by
  intro s n c g x h
  obtain ⟨_, cur, is_x, image, _, _⟩ := h.begun
  have alone := h.2.2
  refine ⟨fun tile w tiles entry may first room => ?visit, fun tile idle => ?idle, fun waits win => ?waits,
    fun due held fills win none_ still => ?boundary, fun tile i b due turn at_ dirs => ⟨fun sound same => ?fetch, fun k lost twin stop => ?lost⟩,
    fun i tile out_ => ?outOfTurn, fun p r is_p held betas is_r => ⟨fun mode strict due => ?exchange, fun not_ => ?noExchange⟩,
    fun b rest k e at_ untested goes is_e => ⟨fun valid met inside stop plain => ?win, fun miss => ?miss⟩⟩
  case visit =>
    obtain ⟨z, visited, window, spins, fields, mirror, sweep, phase, visits⟩ := visitWindow_visits g first
    refine ⟨_, _, z, next_made (h.windowVisit tile) (tileVisit_makes h tiles entry may first), rfl, rfl, visited, window, fun k lt => ?_,
      fun k i lt other => ?_, fields, mirror, sweep, phase, visits⟩
    · rw [spins k lt, List.getD_eq_getElem?_getD, List.getElem?_set_self (room k lt)]
      rfl
    · rw [spins k lt, List.getD_eq_getElem?_getD, List.getElem?_set_ne other.symm, ← List.getD_eq_getElem?_getD]
  case idle => exact next_same (h.windowVisit tile) (tileVisit_none (by rw [is_x]; exact idle))
  case waits =>
    have still : phaseStream s.desk n = s.desk :=
      phaseStream_still cur is_x image (waits.imp id fun w => w.2)
    exact next_same h.phaseBoundary (phaseEnd_waits h still (waits.imp id fun w => w.1) win)
  case boundary =>
    obtain ⟨c', slot, ends⟩ := phaseEnd_ends h (phaseStream_still cur is_x image (.inr still)) due held fills win none_
    have ran := next_made h.phaseBoundary ends
    obtain ⟨at_, _, mem, others, only⟩ := withRun_settled s n c' (boundarySlot g c x)
    rw [slot] at at_ others
    obtain ⟨fields, mirror, spins, sweep, more, last, visited, fetched, kept, tested⟩ := boundarySlot_plain g c none_ at_
    exact ⟨_, _, ran, rfl, fields, mirror, spins, sweep, more, last, visited, fetched, kept, tested, mem, others, only⟩
  case fetch =>
    refine next_made (h.streamFetch tile i) ?_
    rw [fetchBlock_turn is_x due turn dirs, fetchRead_sound is_x image at_ sound same]
    unfold updSlot Tab.upd
    rw [is_x]
    rfl
  case lost =>
    have made := fetchBlock_turn (n := n) is_x due turn dirs
    rw [fetchRead_lost is_x image at_ lost twin] at made
    have told : lostRead s.desk c = { c with stop := some .dataLost, stopAt := s.desk.now, fault := true } := by
      unfold lostRead askStop
      rw [stop]
    rw [told] at made
    refine ⟨_, _, next_made (h.streamFetch tile i) made, settle_cur (setCur_same _ _ _), rfl, rfl⟩
  case outOfTurn => exact next_same (h.streamFetch tile i) (fetchBlock_out_of_turn is_x out_)
  case exchange =>
    subst is_p is_r
    exact next_made (h.asyncExchange held) (asyncExchange_counts is_x alone.1 alone.2 betas mode strict due)
  case noExchange =>
    subst is_p
    exact next_same (h.asyncExchange held) (asyncExchange_not is_x not_)
  case win =>
    subst is_e
    obtain ⟨d, c', ann, due, ran, cur', slot, mem, ⟨sweep, phase, is_ann⟩, during, between⟩ :=
      h.tests_win at_ untested goes valid met inside stop plain
    obtain ⟨_, _, slots, _, mem', _⟩ := settle_desk_rest { s with desk := d }
    refine ⟨_, { wonSlot x b k.val (wrap64 (geti b.energies k.val)) with ann := ann, sweepDue := due }, c', ran, ?_, settle_cur cur',
      rfl, rfl, rfl, ?_, ?_, ?_, ?_, during, between, mem'.trans mem⟩
    · rw [slots]
      exact slot.symm
    all_goals rw [is_ann]; rfl
  case miss =>
    subst is_e
    exact next_made (h.boundaryTest k) (boundaryTest_misses h at_ untested goes miss)

end Sys2Proof.Machine
end

section
/-! SUPPORT. The end of a sweep: reported energies are INT64 words and wrap. -/
namespace Sys2Proof.Machine

/-- An image on one tile whose commit energy is the largest INT64. -/
def brimImage : Image :=
  ⟨256, 1, 1, 0, false, 0, [0], [], [], List.replicate 256 0, 0, List.replicate 16 (2 ^ 63 - 1), [[some 0]], 0, none,
    List.replicate 256 0, [0], []⟩

/-- A slot at the end of a sweep in which the tile's partial energies have become 1. -/
def brimSlot : Slot :=
  { state := .committed, m := 1, image := some brimImage, sweepDue := true, ann := { opcode := 0x10, esum := [List.replicate 16 1] } }

/-- A run at that end. -/
def brimRun : State := { State.reset with
  desk := { State.reset.desk with slots := State.reset.desk.slots.put 0 brimSlot, sqs := State.reset.desk.sqs.put 0 { cur := some begunRun } } }

set_option Elab.async false in
theorem brimRun_meets : RunOn brimRun 0 begunRun brimImage brimSlot := by
  unfold RunOn
  decide +kernel

/-- The energy that the sweep end reports is the least INT64. -/
theorem brimSlot_energy : geti (sweepTrack brimImage (slotParams brimSlot) begunRun brimSlot).e 0 = -2 ^ 63 ∧
    geti brimImage.e0 0 + sumInt (brimSlot.ann.esum.map fun e => geti e 0) = 2 ^ 63 := by
  decide +kernel

/-- Refutes O52: an energy is an INT64, and where the commit energy and the partial energies add up to more than one holds, as 2^63 - 1 and 1
do, the reported energy is that sum reduced modulo 2^64, not the sum. -/
theorem not_sweepsEnd : ¬ Obligations.SweepsEnd := by
  intro h
  obtain ⟨atEnd, _⟩ := h brimRun 0 begunRun brimImage brimSlot brimRun_meets rfl rfl nofun
  obtain ⟨ends, _⟩ := atEnd rfl
  obtain ⟨energies, _⟩ := ends _ _ [] rfl rfl (by decide +kernel) nofun
  obtain ⟨reported, sum⟩ := brimSlot_energy
  have same := energies 0 (by decide)
  rw [reported, sum] at same
  exact absurd same (by decide)

end Sys2Proof.Machine
end
